-- ==== Sys2Proof/Word.lean ====
section
/-!
DEFINITION. The word types of the Tolton (R2): bytes, 32-bit lanes, 64-bit words, tid sets.
-/

namespace Sys2Proof

/-- One byte of memory. -/
abbrev Byte := BitVec 8

/-- One 32-bit lane of a vector register (R13). -/
abbrev Lane := BitVec 32

/-- One 64-bit word: an instruction word, a uniform register, an address (R2, R313). -/
abbrev Word := BitVec 64

/-- A set of tids as its 2048-bit membership bitmap: bit i stands for tid i (R62, R66). -/
abbrev Tids := BitVec 2048

end Sys2Proof
end

