-- ==== Sys2Proof/Syntax.lean ====
section
/-!
DEFINITION. The steps of the Tolton as syntax: the operand forms of R315 to R323, and one constructor of
`Instr` for each row of spec/opcode_table.json. The first part of `Instr` holds the instruction words
(F words and P slots); the second part holds the steps that the device's other agents take by themselves
(replies, engine work, the launch unit, the management kernel, the debugger), each with the data that
the step needs from outside.
-/

namespace Sys2Proof

/-! ### Operand forms -/

/-- A guard, `?kn` (R37): none, or the set register that forms it. -/
abbrev Guard := Option (BitVec 4)

/-- A vector source field (R315): a register v0-v223, a special of R52, or a constant of R316. -/
inductive VSrc where
  | reg (n : BitVec 8)
  | tid
  | lane
  | home
  | core
  | const (i : BitVec 4)
deriving DecidableEq, Repr

/-- A uniform source field (R315): a register s0-s159 or a special of R52. -/
inductive USrc where
  | reg (n : BitVec 8)
  | team
  | nteams
  | tsize
  | w
  | launch
  | fcard
  | die
  | quad
deriving DecidableEq, Repr

/-- Source b of an arithmetic word by its CLASS (R322). -/
inductive BSrc where
  | vec (v : VSrc)
  | uni (u : USrc)
  | imm (i : BitVec 8)
  | lit (l : BitVec 62)
deriving DecidableEq, Repr

/-- Source a or c of an arithmetic word: unused, a vector field, or a uniform field (R323). -/
inductive ASrc where
  | none
  | vec (v : VSrc)
  | uni (u : USrc)
deriving DecidableEq, Repr

/-- The types of R322. -/
inductive Ty where
  | int8 | int16 | int32 | int64 | uint8 | uint16 | uint32 | uint64
  | fp32 | fp16 | bf16 | e4m3 | e5m2 | nb4
deriving DecidableEq, Repr

/-- The rounding modes of R114. -/
inductive Rnd where
  | rne | rz | rd | ru | rna
deriving DecidableEq, Repr

/-- The conditions of R72. -/
inductive Cond where
  | eq | ne | lt | le | gt | ge
deriving DecidableEq, Repr

/-- The scopes of R183. -/
inductive Scope where
  | lg | team | die | pkg | sys
deriving DecidableEq, Repr

/-- The fence kinds of R189. -/
inductive FenceKind where
  | acq | rel | ar
deriving DecidableEq, Repr

/-- The operations of ATOM (R336). -/
inductive AtomOp where
  | add | and | or | xor | min | max | exch | cas
deriving DecidableEq, Repr

/-- The types of ATOM (R336). -/
inductive AtomTy where
  | int32 | uint32 | int64 | uint64 | fp32
deriving DecidableEq, Repr

/-- The operations of LRED and LSCAN (R378). -/
inductive RedOp where
  | add | min | max | and | or | xor
deriving DecidableEq, Repr

/-- The modes of SHFL (R397). -/
inductive ShflMode where
  | idx | up | down | xor
deriving DecidableEq, Repr

/-- The control registers that CSRR reads with a uniform destination (R354). -/
inductive Csr where
  | slk | ovd | tstat | fesum | pstat | frame | sform
deriving DecidableEq, Repr

/-- A code target (R320, R87): the 16-bit form or the X word's literal. -/
inductive Target where
  | near (o : BitVec 16)
  | far (o : BitVec 62)
deriving DecidableEq, Repr

/-- A byte offset (R321): the imm8 form or the X word's literal. -/
inductive Off where
  | imm (o : BitVec 8)
  | wide (o : BitVec 62)
deriving DecidableEq, Repr

/-- Source b of BRC (R348), which lies in DST. -/
inductive BrcB where
  | uni (u : USrc)
  | imm (i : BitVec 8)
deriving DecidableEq, Repr

/-- The time-out of WAIT (R153). -/
inductive TimeOut where
  | none
  | uni (u : USrc)
  | imm (i : BitVec 8)
deriving DecidableEq, Repr

/-- The valid-byte count of CPA (R153). -/
inductive Valid where
  | imm (n : BitVec 8)
  | reg (v : BitVec 8)
deriving DecidableEq, Repr

/-! ### Operand records -/

/-- The arithmetic word of R322 and R323. `rnd` is RND of the floating majors, `sh` bits [2:0] of LEA. -/
structure Arith where
  guard : Guard
  uform : Bool
  ty : Ty
  rnd : Rnd
  sh : BitVec 3
  d : BitVec 8
  a : ASrc
  b : BSrc
  c : ASrc
  ra : Bool
  rb : Bool
  rc : Bool
deriving DecidableEq, Repr

/-- CVT (R357). -/
structure CvtOp where
  guard : Guard
  dty : Ty
  sty : Ty
  rnd : Rnd
  slot : BitVec 3
  d : BitVec 8
  b : BSrc
  rb : Bool
deriving DecidableEq, Repr

/-- QPACK and QUNP (R389, R390). -/
structure PackOp where
  guard : Guard
  ty : Ty
  slot : BitVec 3
  d : BitVec 8
  s : BitVec 8
  rb : Bool
deriving DecidableEq, Repr

/-- GNORM (R231). -/
structure GnormOp where
  guard : Guard
  d : BitVec 8
  k : BitVec 8
deriving DecidableEq, Repr

/-- TEST and TESTB (R71, R72). -/
structure TestOp where
  guard : Guard
  kd : BitVec 4
  a : VSrc
  b : BSrc
  ty : Ty
  cond : Cond
  ra : Bool
  rb : Bool
deriving DecidableEq, Repr

/-- A set-algebra word (R393); a source that the code does not use is 0. -/
structure SetOp where
  kd : BitVec 4
  ka : BitVec 4
  kb : BitVec 4
deriving DecidableEq, Repr

/-- SLD, SST, SQPUSH and SQPOP (R71): `k` the set register, `sd` the status register or 0. -/
structure SetMem where
  k : BitVec 4
  sd : BitVec 8
  base : USrc
  ra : Bool
  off : Off
  ov : Bool
  sp : Bool
  sl : BitVec 2
deriving DecidableEq, Repr

/-- APPLY (R86); `n` is 0 for `.g`. -/
structure ApplyOp where
  ka : BitVec 4
  n : BitVec 8
  t : Target
  pack : Bool
  foot : BitVec 5
deriving DecidableEq, Repr

/-- APPLYK.f (R86, R95). -/
structure ApplyKOp where
  skey : BitVec 8
  vkey : BitVec 8
  nkeys : BitVec 8
  n : BitVec 8
  off : BitVec 62
  pack : Bool
  foot : BitVec 5
  ra : Bool
  rb : Bool
deriving DecidableEq, Repr

/-- FORK (R86, R87). -/
structure ForkOp where
  ka : BitVec 4
  kb : BitVec 4
  la : BitVec 31
  lb : BitVec 31
deriving DecidableEq, Repr

/-- BRS, TMARK, SLKSET and the CSRW forms: one uniform source a. -/
structure UniSrcOp where
  a : USrc
  ra : Bool
deriving DecidableEq, Repr

/-- BRC (R348). -/
structure BrcOp where
  cond : Cond
  a : USrc
  ra : Bool
  b : BrcB
  t : Target
deriving DecidableEq, Repr

/-- CALL (R350). -/
structure CallOp where
  t : Target
  n : BitVec 8
deriving DecidableEq, Repr

/-- CALLV (R86). -/
structure CallvOp where
  va : BitVec 8
  ra : Bool
  n : BitVec 8
deriving DecidableEq, Repr

/-- WAIT (R153); `n1` is n - 1. -/
structure WaitOp where
  sd : BitVec 8
  sa : BitVec 8
  timeout : TimeOut
  all : Bool
  n1 : BitVec 2
  sl : BitVec 2
  ra : Bool
  rb : Bool
deriving DecidableEq, Repr

/-- BAR (R340); `n1` is n - 1. -/
structure BarOp where
  id : BitVec 4
  n1 : BitVec 8
deriving DecidableEq, Repr

/-- A uniform destination, a base and an offset: LAUNCH, GATHER, COLL (`ov` is false for LAUNCH). -/
structure DescOp where
  sd : BitVec 8
  base : USrc
  ra : Bool
  off : Off
  ov : Bool
  sl : BitVec 2
deriving DecidableEq, Repr

/-- SPAWN (R401). -/
structure SpawnOp where
  guard : Guard
  d : BitVec 8
  a : BitVec 8
  b : BitVec 8
  ra : Bool
  rb : Bool
deriving DecidableEq, Repr

/-- SCNT (R71). -/
structure ScntOp where
  sd : BitVec 8
  ka : BitVec 4
deriving DecidableEq, Repr

/-- SHFL, SCAT and BCAST (R397, R342); `mode` is `.idx` but for SHFL. -/
structure LaneOp where
  guard : Guard
  ty : Ty
  mode : ShflMode
  d : BitVec 8
  a : VSrc
  b : BSrc
  ra : Bool
  rb : Bool
deriving DecidableEq, Repr

/-- LRED and LSCAN (R378). -/
structure RedLaneOp where
  guard : Guard
  ty : Ty
  op : RedOp
  excl : Bool
  d : BitVec 8
  b : VSrc
  rb : Bool
deriving DecidableEq, Repr

/-- LD, ST and LR (R373, R377, R404); `v` is the destination, or the data register of ST. -/
structure MemOp where
  guard : Guard
  sp : Bool
  strong : Bool
  ty : Ty
  scope : Scope
  ov : Bool
  sl : BitVec 2
  v : BitVec 8
  base : USrc
  idx : Option VSrc
  off : Off
  ra : Bool
  rb : Bool
deriving DecidableEq, Repr

/-- SC (R395). `off` is `none` for a zero offset, else the X word. -/
structure ScOp where
  guard : Guard
  sp : Bool
  ty : Ty
  ov : Bool
  sl : BitVec 2
  d : BitVec 8
  base : USrc
  idx : Option VSrc
  s : BitVec 8
  off : Option (BitVec 62)
  ra : Bool
  rb : Bool
  rc : Bool
deriving DecidableEq, Repr

/-- FENCE (R189). -/
structure FenceOp where
  kind : FenceKind
  scope : Scope
deriving DecidableEq, Repr

/-- ATOM (R336). -/
structure AtomicOp where
  guard : Guard
  sp : Bool
  ret : Bool
  op : AtomOp
  ty : AtomTy
  scope : Scope
  sl : BitVec 2
  v : BitVec 8
  base : USrc
  idx : Option VSrc
  off : Off
  ra : Bool
  rb : Bool
deriving DecidableEq, Repr

/-- TAGI, and what TAGL and TAGS have of it (R153): the address of a line. -/
structure TagOp where
  guard : Guard
  base : USrc
  idx : Option VSrc
  off : Off
  ra : Bool
  rb : Bool
deriving DecidableEq, Repr

/-- TAGL (R153). -/
structure TaglOp extends TagOp where
  d : BitVec 8
deriving DecidableEq, Repr

/-- TAGS (R153): `way` is vw. -/
structure TagsOp extends TagOp where
  way : VSrc
deriving DecidableEq, Repr

/-- PRES (R153); `n1` is n - 1. -/
structure PresOp where
  base : USrc
  ra : Bool
  off : Off
  n1 : BitVec 8
deriving DecidableEq, Repr

/-- STRM (R153). -/
structure StrmOp where
  id : BitVec 2
  base : USrc
  ra : Bool
  off : Off
  ov : Bool
  sl : BitVec 2
deriving DecidableEq, Repr

/-- What GMAX and GNEXT share (R229): the address of a gate slot. -/
structure GateOp where
  guard : Guard
  base : USrc
  idx : Option VSrc
  off : BitVec 8
  sl : BitVec 2
  ra : Bool
  rb : Bool
deriving DecidableEq, Repr

/-- GMAX (R229): the expert's index and its score. -/
structure GmaxOp extends GateOp where
  ve : VSrc
  vs : VSrc
  rc : Bool
deriving DecidableEq, Repr

/-- GNEXT (R229): where the index and the score go. -/
structure GnextOp extends GateOp where
  d : BitVec 8
  s : BitVec 8
deriving DecidableEq, Repr

/-- ROUTE (R235). -/
structure RouteOp where
  guard : Guard
  d : BitVec 8
  base : USrc
  e : VSrc
  tag : VSrc
  ov : Bool
  sp : Bool
  sl : BitVec 2
  ra : Bool
  rb : Bool
  rc : Bool
deriving DecidableEq, Repr

/-- CPA (R153). -/
structure CpaOp where
  guard : Guard
  tag : BitVec 3
  db : USrc
  di : VSrc
  sb : USrc
  si : VSrc
  valid : Valid
  sl : BitVec 2
  ra : Bool
  rb : Bool
  rc : Bool
deriving DecidableEq, Repr

/-- CPWAIT (R153); `sd` is `some` when D = 1. -/
structure CpwaitOp where
  guard : Guard
  sd : Option (BitVec 8)
  tag : BitVec 3
deriving DecidableEq, Repr

/-- BCOPY (R343); `offs` is the X word's pair (offd, offs). -/
structure BcopyOp where
  sd : BitVec 8
  a : USrc
  b : USrc
  c : USrc
  ra : Bool
  rb : Bool
  rc : Bool
  ov : Bool
  dsp : Bool
  sl : BitVec 2
  offs : Option (BitVec 31 × BitVec 31)
deriving DecidableEq, Repr

/-- TLRD (R153). -/
structure TlrdOp where
  sd : BitVec 8
  tl : BitVec 3
deriving DecidableEq, Repr

/-- CHSND and CHRCV (R215): `count` is sb of CHSND, `sd` the destination of CHRCV or 0. -/
structure ChanOp where
  sd : BitVec 8
  base : USrc
  count : USrc
  off : Off
  ov : Bool
  ch : BitVec 4
  sl : BitVec 2
  ra : Bool
  rb : Bool
deriving DecidableEq, Repr

/-- MLDW (R132); `kq` is K / 8. -/
structure MldwOp where
  base : USrc
  kq : BitVec 8
  off : Off
  pair : Bool
  slot : BitVec 3
  ov : Bool
  sl : BitVec 2
  ra : Bool
deriving DecidableEq, Repr

/-- MSTR (R132); `m1` is M - 1. -/
structure MstrOp where
  m1 : BitVec 8
  base : USrc
  row : USrc
  off : Off
  pair : Bool
  clr : Bool
  t : Bool
  slot : BitVec 3
  ov : Bool
  sl : BitVec 2
  ra : Bool
  rb : Bool
deriving DecidableEq, Repr

/-- MDRN to registers (R132); `n1` is n - 1. -/
structure MdrnRegOp where
  d : BitVec 8
  row : USrc
  n1 : BitVec 8
  ov : Bool
  sl : BitVec 2
  rb : Bool
deriving DecidableEq, Repr

/-- MDRN to scratchpad (R132). -/
structure MdrnSpadOp where
  n1 : BitVec 8
  base : USrc
  row : USrc
  off : Off
  ov : Bool
  sl : BitVec 2
  ra : Bool
  rb : Bool
deriving DecidableEq, Repr

/-- MACQ (R132). -/
structure MacqOp where
  sd : BitVec 8
  n1 : BitVec 8
deriving DecidableEq, Repr

/-- MREL (R132). -/
structure MrelOp where
  row : USrc
  ra : Bool
  n1 : BitVec 8
deriving DecidableEq, Repr

/-- DESC (R246); `dp` is the pair (base, index) of the dot products. -/
structure DescentOp where
  d : BitVec 8
  a : BitVec 8
  va : BitVec 8
  sdesc : BitVec 8
  hn : BitVec 2
  ov : Bool
  sl : BitVec 2
  ra : Bool
  rb : Bool
  rc : Bool
  dp : Option (BitVec 8 × BitVec 8)
deriving DecidableEq, Repr

/-- ASCD (R251); `dx` is the pair (base, index) of the input gradients. -/
structure AscentOp where
  sg : BitVec 8
  a : BitVec 8
  va : BitVec 8
  sdesc : BitVec 8
  hn : BitVec 2
  ov : Bool
  sl : BitVec 2
  ra : Bool
  rb : Bool
  rc : Bool
  vg : BitVec 8
  dx : Option (BitVec 8 × BitVec 8)
deriving DecidableEq, Repr

/-- PMOV in either direction (R254): `v` is the even register of the pair. -/
structure PmovOp where
  guard : Guard
  v : BitVec 8
  hn : BitVec 2
  m : Bool
deriving DecidableEq, Repr

/-- CSRR and CSRW of the status word (R354). -/
structure TswReadOp where
  guard : Guard
  d : BitVec 8
deriving DecidableEq, Repr

/-- CSRW of the status word (R354). -/
structure TswWriteOp where
  guard : Guard
  a : VSrc
  ra : Bool
deriving DecidableEq, Repr

/-- CSRR of a register with a uniform destination (R354). -/
structure CsrrOp where
  sd : BitVec 8
  csr : Csr
deriving DecidableEq, Repr

/-- SLKSET of one class (R208). -/
structure SlkOneOp where
  a : USrc
  ra : Bool
  cls : BitVec 2
deriving DecidableEq, Repr

/-- The P-slot operations of R325. -/
inductive POp where
  | nop | mov | iadd | isub | and | or | xor | shl | shr | sar | imin | imax
  | fadd | fsub | fmul | fmin | fmax | not | ineg | iabs
deriving DecidableEq, Repr

/-- The second source of a P slot (R324). -/
inductive PSrc where
  | vec (v : VSrc)
  | imm (i : BitVec 6)
deriving DecidableEq, Repr

/-- The fields of a P slot that is not a NOP slot (R324). -/
structure PArgs where
  d : BitVec 8
  s : PSrc
  rm : Bool
deriving DecidableEq, Repr

/-- A whole P slot: its operation and its fields (a NOP slot's fields are 0). -/
structure PSlot where
  op : POp
  args : PArgs
deriving DecidableEq, Repr

/-! ### The data of the other agents' steps -/

/-- A path of the machine: a context and its path slot (R33). -/
structure PathRef where
  ctx : Nat
  slot : Nat
deriving DecidableEq, Repr

/-- The page that a fault service maps: the translation root, the page's address, and the table word that
the management kernel writes (its physical address and value) before it reports the page served (R177). -/
structure PageService where
  root : Nat
  va : Word
  entryAt : Nat
  entry : Word
deriving DecidableEq, Repr

/-- A Nymnex flit (R220). KIND: 0 read, 1 write, 2 atomic, 3 reply, 4 negative response, 5 collective step. -/
structure Flit where
  src : BitVec 16
  dst : BitVec 16
  slack : BitVec 16
  kind : BitVec 8
  va : Word
  tag : Word
  payload : List Byte
deriving DecidableEq, Repr

/-- A part of an exchange of a collective (R225): the peer's rank, and bytes of its contribution that have come; none says that the
exchange starts, or goes on to send. -/
structure CollMsg where
  peer : Nat
  data : Option (List Byte)
deriving DecidableEq, Repr

/-- A point of execution (R279). -/
structure Point where
  interval : Nat
  core : Nat
  slot : Nat
  serial : Nat
  count : Nat
deriving DecidableEq, Repr

/-- A firmware image (R300): whether its signature verifies, its security version, its measurement. -/
structure FwImage where
  sigOk : Bool
  version : Nat
  measure : Nat
deriving DecidableEq, Repr

/-- What the management kernel sets at its start (R14, R174, R261, R301): the private window, the translation roots of
the launch queues, the root for peers' accesses, the measurements of its configuration and of the remap tables, the leaves
whose K bit is set. -/
structure KernelSetup where
  windowMiB : Nat
  roots : List Nat
  peerRoot : Nat
  configMeasure : Nat
  remapMeasure : Nat
  kBits : List Nat
deriving DecidableEq, Repr


/-- Where a parity error is found (R310). -/
inductive ParityAt where
  | dieTlb (die i : Nat)
  | coreTlb (core i : Nat)
  | icache (core : Nat)
  | setSlot (team side slot : Nat)
deriving DecidableEq, Repr

/-- A trace ring: a core's, or the hub's (R290). -/
inductive RingRef where
  | core (c : Nat)
  | hub
deriving DecidableEq, Repr

/-- The settings that the management interface writes (R210, R269, R281, R290). -/
inductive Setting where
  | probeAfter (die cycles : Nat)
  | preemptAfter (die ticks : Nat)
  | intervalLength (die cycles : Nat)
  | ringPages (ring : RingRef) (pages : Nat)
deriving DecidableEq, Repr

/-- A debugger's change of a saved path section (R271): one uniform or one set register. -/
inductive RegChange where
  | s (n : BitVec 8) (val : Word)
  | k (n : BitVec 4) (bits : BitVec 128)
deriving DecidableEq, Repr

/-- Monitor readings of one telemetry period (R311). -/
structure Readings where
  temps : List (List Nat)
  volts : List (List Nat)
  procs : List (List Nat)
  hub : List Nat
deriving DecidableEq, Repr

/-- The cause of the loss that a column suffers (R305, R306): a layer, or one sector of a stripe. -/
inductive Loss where
  | layer (core layer : Nat)
  | sector (key : Nat) (secondLost : Bool)
deriving DecidableEq, Repr

/-- One step of the device: one constructor for each row of spec/opcode_table.json. -/
inductive Instr where
  /-- NOP (R384). -/
  | nop
  /-- BRA (R347). -/
  | bra (t : Target)
  /-- BRS (R349). -/
  | brs (o : UniSrcOp)
  /-- BRC (R348). -/
  | brc (o : BrcOp)
  /-- CALL (R351). -/
  | call (o : CallOp)
  /-- CALLV (R107). -/
  | callv (o : CallvOp)
  /-- RET (R391). -/
  | ret
  /-- EXIT (R360). -/
  | exit (g : Guard)
  /-- WAIT (R166). -/
  | wait (o : WaitOp)
  /-- BAR (R340). -/
  | bar (o : BarOp)
  /-- TRAP (R406). -/
  | trap
  /-- RFT (R277). -/
  | rft
  /-- BRK (R285). -/
  | brk
  /-- LAUNCH (R263). -/
  | launch (o : DescOp)
  /-- SPAWN (R402). -/
  | spawn (o : SpawnOp)
  /-- TEST (R73). -/
  | test (o : TestOp)
  /-- TESTB (R74). -/
  | testb (o : TestOp)
  /-- SAND (R75). -/
  | sand (o : SetOp)
  /-- SOR (R75). -/
  | sor (o : SetOp)
  /-- SXOR (R75). -/
  | sxor (o : SetOp)
  /-- SANDN (R75). -/
  | sandn (o : SetOp)
  /-- SNOT (R75). -/
  | snot (o : SetOp)
  /-- SMOV (R75). -/
  | smov (o : SetOp)
  /-- SCLR (R75). -/
  | sclr (o : SetOp)
  /-- SALL (R393). -/
  | sall (o : SetOp)
  /-- SHELD (R75). -/
  | sheld (o : SetOp)
  /-- SFIRST (R75). -/
  | sfirst (o : SetOp)
  /-- SCNT (R76). -/
  | scnt (o : ScntOp)
  /-- SUNI_F (R77). -/
  | suniF (o : SetOp)
  /-- SLD (R78). -/
  | sld (o : SetMem)
  /-- SST (R78). -/
  | sst (o : SetMem)
  /-- SQPUSH (R82). -/
  | sqpush (o : SetMem)
  /-- SQPOP (R82). -/
  | sqpop (o : SetMem)
  /-- APPLY_G (R89). -/
  | applyG (o : ApplyOp)
  /-- APPLY_F (R93). -/
  | applyF (o : ApplyOp)
  /-- APPLYK_F (R95). -/
  | applykF (o : ApplyKOp)
  /-- FORK (R97). -/
  | fork (o : ForkOp)
  /-- AEND (R99). -/
  | aend
  /-- IADD (R371). -/
  | iadd (o : Arith)
  /-- ISUB (R371). -/
  | isub (o : Arith)
  /-- IMUL (R371). -/
  | imul (o : Arith)
  /-- IMULH (R371). -/
  | imulh (o : Arith)
  /-- IMAD (R372). -/
  | imad (o : Arith)
  /-- DIV (R359). -/
  | div (o : Arith)
  /-- REM (R359). -/
  | rem (o : Arith)
  /-- IMIN (R371). -/
  | imin (o : Arith)
  /-- IMAX (R371). -/
  | imax (o : Arith)
  /-- IABS (R370). -/
  | iabs (o : Arith)
  /-- INEG (R370). -/
  | ineg (o : Arith)
  /-- LEA (R376). -/
  | lea (o : Arith)
  /-- SEL (R399). -/
  | sel (o : Arith)
  /-- MOV (R382). -/
  | mov (o : Arith)
  /-- MOVI (R383). -/
  | movi (o : Arith)
  /-- AND (R335). -/
  | and (o : Arith)
  /-- OR (R386). -/
  | or (o : Arith)
  /-- XOR (R408). -/
  | xor (o : Arith)
  /-- NOT (R385). -/
  | not (o : Arith)
  /-- SHL (R394). -/
  | shl (o : Arith)
  /-- SHR (R394). -/
  | shr (o : Arith)
  /-- SAR (R394). -/
  | sar (o : Arith)
  /-- ROL (R392). -/
  | rol (o : Arith)
  /-- ROR (R392). -/
  | ror (o : Arith)
  /-- POPC (R387). -/
  | popc (o : Arith)
  /-- CLZ (R353). -/
  | clz (o : Arith)
  /-- BFE (R345). -/
  | bfe (o : Arith)
  /-- BFI (R346). -/
  | bfi (o : Arith)
  /-- FADD (R364). -/
  | fadd (o : Arith)
  /-- FSUB (R364). -/
  | fsub (o : Arith)
  /-- FMUL (R364). -/
  | fmul (o : Arith)
  /-- FMA (R367). -/
  | fma (o : Arith)
  /-- FMIN (R364). -/
  | fmin (o : Arith)
  /-- FMAX (R364). -/
  | fmax (o : Arith)
  /-- FLDX (R366). -/
  | fldx (o : Arith)
  /-- FSPLIT (R369). -/
  | fsplit (o : Arith)
  /-- FRND (R368). -/
  | frnd (o : Arith)
  /-- FRCP (R362). -/
  | frcp (o : Arith)
  /-- FRSQ (R362). -/
  | frsq (o : Arith)
  /-- FSQRT (R362). -/
  | fsqrt (o : Arith)
  /-- EXP2 (R362). -/
  | exp2 (o : Arith)
  /-- EXP2S (R363). -/
  | exp2s (o : Arith)
  /-- LOG2 (R362). -/
  | log2 (o : Arith)
  /-- FSIN (R362). -/
  | fsin (o : Arith)
  /-- FCOS (R362). -/
  | fcos (o : Arith)
  /-- FTANH (R362). -/
  | ftanh (o : Arith)
  /-- CVT (R358). -/
  | cvt (o : CvtOp)
  /-- QPACK (R389). -/
  | qpack (o : PackOp)
  /-- QUNP (R390). -/
  | qunp (o : PackOp)
  /-- GNORM (R231). -/
  | gnorm (o : GnormOp)
  /-- SHFL (R400). -/
  | shfl (o : LaneOp)
  /-- SCAT (R398). -/
  | scat (o : LaneOp)
  /-- LRED (R379). -/
  | lred (o : RedLaneOp)
  /-- LSCAN (R379). -/
  | lscan (o : RedLaneOp)
  /-- BCAST (R342). -/
  | bcast (o : LaneOp)
  /-- LD (R374). -/
  | ld (o : MemOp)
  /-- ST (R405). -/
  | st (o : MemOp)
  /-- LR (R377). -/
  | lr (o : MemOp)
  /-- SC (R396). -/
  | sc (o : ScOp)
  /-- FENCE (R189). -/
  | fence (o : FenceOp)
  /-- TAGL (R155). -/
  | tagl (o : TaglOp)
  /-- TAGS (R155). -/
  | tags (o : TagsOp)
  /-- TAGI (R155). -/
  | tagi (o : TagOp)
  /-- PRES_SET (R157). -/
  | presSet (o : PresOp)
  /-- PRES_CLR (R157). -/
  | presClr (o : PresOp)
  /-- STRM (R159). -/
  | strm (o : StrmOp)
  /-- STRMX (R160). -/
  | strmx (id : BitVec 2)
  /-- ATOM (R337). -/
  | atom (o : AtomicOp)
  /-- GMAX (R227). -/
  | gmax (o : GmaxOp)
  /-- GNEXT (R228). -/
  | gnext (o : GnextOp)
  /-- ROUTE (R236). -/
  | route (o : RouteOp)
  /-- CPA (R161). -/
  | cpa (o : CpaOp)
  /-- CPWAIT (R162). -/
  | cpwait (o : CpwaitOp)
  /-- BCOPY (R344). -/
  | bcopy (o : BcopyOp)
  /-- GATHER (R240). -/
  | gather (o : DescOp)
  /-- TLRD (R165). -/
  | tlrd (o : TlrdOp)
  /-- COLL (R223). -/
  | coll (o : DescOp)
  /-- CHSND (R216). -/
  | chsnd (o : ChanOp)
  /-- CHRCV (R216). -/
  | chrcv (o : ChanOp)
  /-- MLDW (R134). -/
  | mldw (o : MldwOp)
  /-- MSWP (R135). -/
  | mswp (pair : Bool)
  /-- MSTR (R136). -/
  | mstr (o : MstrOp)
  /-- MDRN_REGISTERS (R141). -/
  | mdrnRegisters (o : MdrnRegOp)
  /-- MDRN_SCRATCHPAD (R141). -/
  | mdrnScratchpad (o : MdrnSpadOp)
  /-- MACQ (R139). -/
  | macq (o : MacqOp)
  /-- MREL (R140). -/
  | mrel (o : MrelOp)
  /-- DESC (R248). -/
  | desc (o : DescentOp)
  /-- ASCD (R252). -/
  | ascd (o : AscentOp)
  /-- PMOV_TO_VECTOR (R254). -/
  | pmovToVector (o : PmovOp)
  /-- PMOV_TO_PATH (R254). -/
  | pmovToPath (o : PmovOp)
  /-- CSRR_TSW (R355). -/
  | csrrTsw (o : TswReadOp)
  /-- CSRR (R354). -/
  | csrr (o : CsrrOp)
  /-- CSRW_TSW (R355). -/
  | csrwTsw (o : TswWriteOp)
  /-- CSRW_SLK (R354). -/
  | csrwSlk (o : UniSrcOp)
  /-- CSRW_OVD (R207). -/
  | csrwOvd (o : UniSrcOp)
  /-- CSRW_TSTAT (R274). -/
  | csrwTstat (o : UniSrcOp)
  /-- RDCLK (R297). -/
  | rdclk (sd : BitVec 8)
  /-- TMARK (R296). -/
  | tmark (o : UniSrcOp)
  /-- SLKSET (R208). -/
  | slkset (o : UniSrcOp)
  /-- SLKSET_ONE (R208). -/
  | slksetOne (o : SlkOneOp)
  /-- P_NOP (R324). -/
  | pNop (b : PSlot)
  /-- P_MOV (R326). -/
  | pMov (a : PArgs) (b : PSlot)
  /-- P_IADD (R326). -/
  | pIadd (a : PArgs) (b : PSlot)
  /-- P_ISUB (R326). -/
  | pIsub (a : PArgs) (b : PSlot)
  /-- P_AND (R326). -/
  | pAnd (a : PArgs) (b : PSlot)
  /-- P_OR (R326). -/
  | pOr (a : PArgs) (b : PSlot)
  /-- P_XOR (R326). -/
  | pXor (a : PArgs) (b : PSlot)
  /-- P_SHL (R326). -/
  | pShl (a : PArgs) (b : PSlot)
  /-- P_SHR (R326). -/
  | pShr (a : PArgs) (b : PSlot)
  /-- P_SAR (R326). -/
  | pSar (a : PArgs) (b : PSlot)
  /-- P_IMIN (R326). -/
  | pImin (a : PArgs) (b : PSlot)
  /-- P_IMAX (R326). -/
  | pImax (a : PArgs) (b : PSlot)
  /-- P_FADD (R326). -/
  | pFadd (a : PArgs) (b : PSlot)
  /-- P_FSUB (R326). -/
  | pFsub (a : PArgs) (b : PSlot)
  /-- P_FMUL (R326). -/
  | pFmul (a : PArgs) (b : PSlot)
  /-- P_FMIN (R326). -/
  | pFmin (a : PArgs) (b : PSlot)
  /-- P_FMAX (R326). -/
  | pFmax (a : PArgs) (b : PSlot)
  /-- P_NOT (R326). -/
  | pNot (a : PArgs) (b : PSlot)
  /-- P_INEG (R326). -/
  | pIneg (a : PArgs) (b : PSlot)
  /-- P_IABS (R326). -/
  | pIabs (a : PArgs) (b : PSlot)
  /-- ILLEGAL_WORD (R331). -/
  | illegalWord
  /-- INSTRUCTION_FETCH (R332). -/
  | instructionFetch (r : PathRef)
  /-- FRAME_RENDEZVOUS_COMPLETE (R91). -/
  | frameRendezvousComplete (team : Nat) (frame : Nat)
  /-- APPLIED_CONTEXT_FORM (R96). -/
  | appliedContextForm (team : Nat) (app : Nat)
  /-- CONTEXT_LEND (R36). -/
  | contextLend (ctx : Nat)
  /-- CONTEXT_UNLEND (R36). -/
  | contextUnlend (ctx : Nat)
  /-- BIN_TIMER_EXPIRY (R42). -/
  | binTimerExpiry (core : Nat) (bin : Nat)
  /-- BIN_FORM_ON_SLOT (R42). -/
  | binFormOnSlot (core : Nat)
  /-- BIN_PLACEMENT_RESUME (R42). -/
  | binPlacementResume (r : PathRef)
  /-- FAIRNESS_TIMER (R268). -/
  | fairnessTimer (core : Nat)
  /-- QUARTER_ISSUE (R268). -/
  | quarterIssue (core : Nat) (quarter : Nat)
  /-- SCOREBOARD_WAKE (R409). -/
  | scoreboardWake (r : PathRef)
  /-- LOAD_REPLY (R375). -/
  | loadReply (op : Nat) (tid : Nat)
  /-- STORE_ACK (R405). -/
  | storeAck (ctx : Nat)
  /-- ATOMIC_REPLY (R337). -/
  | atomicReply (op : Nat)
  /-- SC_OUTCOME (R396). -/
  | scOutcome (op : Nat)
  /-- LONG_LATENCY_RESULT (R359). -/
  | longLatencyResult (op : Nat)
  /-- SLD_COMPLETE (R79). -/
  | sldComplete (op : Nat)
  /-- SET_QUEUE_COMPLETE (R82). -/
  | setQueueComplete (op : Nat)
  /-- GNEXT_COMPLETE (R228). -/
  | gnextComplete (op : Nat)
  /-- ROUTE_COMPLETE (R236). -/
  | routeComplete (op : Nat)
  /-- TLRD_VALUE (R165). -/
  | tlrdValue (op : Nat)
  /-- LAUNCH_ACCEPTED (R263). -/
  | launchAccepted (op : Nat)
  /-- TRANSLATION_COMPLETE (R169). -/
  | translationComplete (r : PathRef)
  /-- FAULT_SERVICE_COMPLETE (R177). -/
  | faultServiceComplete (p : PageService)
  /-- FAULT_UNSERVABLE (R179). -/
  | faultUnservable (root : Nat) (va : Word)
  /-- HELD_TRAP_RAISE (R179). -/
  | heldTrapRaise (r : PathRef)
  /-- PAGE_INVALIDATION (R180). -/
  | pageInvalidation (root : Nat) (va : Word)
  /-- CPA_COPY_COMPLETE (R161). -/
  | cpaCopyComplete (op : Nat)
  /-- CPWAIT_COMPLETE (R162). -/
  | cpwaitComplete (r : PathRef)
  /-- WAIT_COMPLETE (R167). -/
  | waitComplete (r : PathRef)
  /-- WAIT_TIMEOUT (R167). -/
  | waitTimeout (r : PathRef)
  /-- WAIT_WORD_REREAD (R167). -/
  | waitWordReread (r : PathRef)
  /-- STREAM_LINE_ISSUE (R159). -/
  | streamLineIssue (ctx : Nat) (slot : Nat)
  /-- STREAM_LINE_FILLED (R159). -/
  | streamLineFilled (op : Nat)
  /-- BCOPY_COMPLETE (R344). -/
  | bcopyComplete (op : Nat)
  /-- GATHER_ROW_COMPLETE (R240). -/
  | gatherRowComplete (op : Nat) (row : Nat)
  /-- GATHER_COMPLETE (R240). -/
  | gatherComplete (op : Nat)
  /-- MATRIX_PASS_GRANT (R144). -/
  | matrixPassGrant (quad : Nat)
  /-- MATRIX_PASS_COMPLETE (R137). -/
  | matrixPassComplete (op : Nat)
  /-- MLDW_COMPLETE (R134). -/
  | mldwComplete (op : Nat)
  /-- MSWP_TAKES_EFFECT (R135). -/
  | mswpTakesEffect (op : Nat)
  /-- MDRN_COMPLETE (R141). -/
  | mdrnComplete (op : Nat)
  /-- MREL_ROWS_FREED (R140). -/
  | mrelRowsFreed (op : Nat)
  /-- DESC_THREAD_COMPLETE (R250). -/
  | descThreadComplete (op : Nat) (tid : Nat)
  /-- DESC_LEVEL (R249). -/
  | descLevel (op : Nat)
  /-- DESC_COMPLETE (R250). -/
  | descComplete (op : Nat)
  /-- ASCD_COMPLETE (R252). -/
  | ascdComplete (op : Nat)
  /-- CHSND_SLOT_FREE (R216). -/
  | chsndSlotFree (r : PathRef)
  /-- CHSND_SLOT_FILLED (R216). -/
  | chsndSlotFilled (op : Nat)
  /-- CHRCV_DATA_READY (R216). -/
  | chrcvDataReady (r : PathRef)
  /-- CHRCV_COPY_COMPLETE (R216). -/
  | chrcvCopyComplete (op : Nat)
  /-- CHANNEL_DEAD_TRAP (R217). -/
  | channelDeadTrap (r : PathRef)
  /-- COLL_DESCRIPTOR_READ (R223). -/
  | collDescriptorRead (op : Nat)
  /-- COLL_STEP (R225). -/
  | collStep (op : Nat) (m : CollMsg)
  /-- COLL_PEER_TIMEOUT (R224). -/
  | collPeerTimeout (op : Nat)
  /-- COLL_COMPLETE (R224). -/
  | collComplete (op : Nat)
  /-- XBAR_GRANT (R200). -/
  | xbarGrant (die : Nat) (port : Nat)
  /-- SLACK_EPOCH (R204). -/
  | slackEpoch (die : Nat)
  /-- OVERDUE_TRAP (R207). -/
  | overdueTrap (r : PathRef)
  /-- MIRE_PROBE_HOP (R210). -/
  | mireProbeHop (probe : Nat)
  /-- RECOVERY_STEP (R212). -/
  | recoveryStep (probe : Nat)
  /-- FLIT_RECEIVED (R220). -/
  | flitReceived (f : Flit)
  /-- PEER_ACCESS_SERVE (R221). -/
  | peerAccessServe
  /-- NEGATIVE_RESPONSE (R222). -/
  | negativeResponse (op : Nat)
  /-- REMOTE_TIMEOUT (R222). -/
  | remoteTimeout (op : Nat)
  /-- LR_RESERVATION_EXPIRY (R196). -/
  | lrReservationExpiry (team : Nat) (tid : Nat)
  /-- LAUNCH_RECORD_CHECK (R260). -/
  | launchRecordCheck (l : Nat)
  /-- DEPENDENCE_READ (R264). -/
  | dependenceRead (l : Nat)
  /-- DEPENDENCES_MET (R260). -/
  | dependencesMet (l : Nat)
  /-- BAND_PLACEMENT (R266). -/
  | bandPlacement (l : Nat)
  /-- PREEMPTION_TIMER (R269). -/
  | preemptionTimer (l : Nat)
  /-- PREEMPTION_STOP (R270). -/
  | preemptionStop (team : Nat)
  /-- LOAD_DRAIN_TIMEOUT (R270). -/
  | loadDrainTimeout (team : Nat)
  /-- TEAM_RESTORE (R272). -/
  | teamRestore (team : Nat) (core : Nat)
  /-- LAUNCH_COMPLETE (R265). -/
  | launchComplete (l : Nat)
  /-- TEAM_FREE (R278). -/
  | teamFree (team : Nat)
  /-- LAUNCH_KILL (R276). -/
  | launchKill (l : Nat)
  /-- TRAP_ENTRY (R275). -/
  | trapEntry (r : PathRef)
  /-- CHECKPOINT_INTERVAL_START (R281). -/
  | checkpointIntervalStart (die : Nat)
  /-- GARNET_TAG (R288). -/
  | garnetTag (core : Nat)
  /-- GARNET_RECORD (R289). -/
  | garnetRecord (core : Nat)
  /-- TRACE_SYNC (R294). -/
  | traceSync (ring : RingRef)
  /-- TRACE_LOSS (R294). -/
  | traceLoss (ring : RingRef)
  /-- MIRE_PROBE_LAUNCH (R210). -/
  | mireProbeLaunch (die : Nat) (port : Nat)
  /-- LAUNCH_DOORBELL (R261). -/
  | launchDoorbell (queue : Nat) (record : Word)
  /-- TEAM_MIGRATION (R267). -/
  | teamMigration (team : Nat) (core : Nat)
  /-- DIE_HOLD (R285). -/
  | dieHold (die : Nat)
  /-- DIE_ARM (R285). -/
  | dieArm (die : Nat)
  /-- DIE_DISARM (R285). -/
  | dieDisarm (die : Nat)
  /-- PRECISE_STOP (R285). -/
  | preciseStop (p : Point)
  /-- DIE_RESUME (R286). -/
  | dieResume (die : Nat)
  /-- CAPTURE_ENABLE (R282). -/
  | captureEnable (die : Nat)
  /-- CAPTURE_DISABLE (R282). -/
  | captureDisable (die : Nat)
  /-- INTERVAL_EARLY_END (R281). -/
  | intervalEarlyEnd (die : Nat)
  /-- SAMPLING_ENABLE (R288). -/
  | samplingEnable (die : Nat)
  /-- SET_TRACE_ENABLE (R293). -/
  | setTraceEnable (die : Nat) (launch : Option Nat)
  /-- TRACE_PAGE_DROP (R291). -/
  | tracePageDrop (ring : RingRef)
  /-- TRACE_READ_PAGE_MOVE (R290). -/
  | traceReadPageMove (ring : RingRef) (page : Nat)
  /-- DEVICE_RESET (R298). -/
  | deviceReset
  /-- FIRMWARE_VERIFY (R300). -/
  | firmwareVerify
  /-- MGMT_KERNEL_START (R298). -/
  | mgmtKernelStart (k : KernelSetup)
  /-- REDUCED_SERVICE_BEGIN (R299). -/
  | reducedServiceBegin
  /-- STACK_CALIBRATION (R298). -/
  | stackCalibration
  /-- FULL_SERVICE_BEGIN (R299). -/
  | fullServiceBegin
  /-- RECOVERY_DOORBELL (R300). -/
  | recoveryDoorbell (f : FwImage)
  /-- FIRMWARE_NVME_WRITE (R300). -/
  | firmwareNvmeWrite
  /-- GET_VERSION (R302). -/
  | getVersion
  /-- GET_CAPABILITIES (R302). -/
  | getCapabilities
  /-- NEGOTIATE_ALGORITHMS (R302). -/
  | negotiateAlgorithms (offered : Bool)
  /-- GET_DIGESTS (R302). -/
  | getDigests
  /-- GET_CERTIFICATE (R302). -/
  | getCertificate
  /-- CHALLENGE (R302). -/
  | challenge (nonce : Nat)
  /-- GET_MEASUREMENTS (R302). -/
  | getMeasurements
  /-- SPDM_UNSUPPORTED (R302). -/
  | spdmUnsupported (code : Nat)
  /-- DSTAT_READ (R303). -/
  | dstatRead
  /-- COLUMN_LOSS (R306). -/
  | columnLoss (l : Loss)
  /-- STRIPE_REBUILD (R306). -/
  | stripeRebuild (core : Nat)
  /-- BUS_WIRE_REMAP (R307). -/
  | busWireRemap (core : Nat) (bus : Nat) (wire : Nat)
  /-- BUS_CALIBRATION (R310). -/
  | busCalibration (core : Nat) (bus : Nat) (failed : List Nat)
  /-- REMAP_TABLE_RELOAD (R308). -/
  | remapTableReload (core : Nat)
  /-- PATROL_SCRUB (R310). -/
  | patrolScrub (core : Nat)
  /-- PARITY_ERROR (R310). -/
  | parityError (p : ParityAt)
  /-- TELEMETRY (R311). -/
  | telemetry (r : Readings)
  /-- CLOCK_STEP (R312). -/
  | clockStep (die : Nat) (mhz : Nat)
  /-- STACK_SHUTDOWN (R312). -/
  | stackShutdown (die : Nat)
  /-- MGMT_CONFIG_WRITE (R210). -/
  | mgmtConfigWrite (w : Setting)
  /-- NYMNEX_PORT_DOWN (R220). -/
  | nymnexPortDown (port : Nat)
  /-- NYMNEX_PORT_RESTORED (R220). -/
  | nymnexPortRestored (port : Nat)
  /-- HOST_WRITE_INTO_DIE_MEMORY (R283). -/
  | hostWriteIntoDieMemory (pa : Nat) (bytes : List Byte)
  /-- DEBUGGER_REGISTER_CHANGE (R286). -/
  | debuggerRegisterChange (r : PathRef) (c : RegChange)
deriving DecidableEq, Repr

end Sys2Proof
end

