-- ==== Sys2Proof/Machine/Flags.lean ====
section
/-!
DEFINITION. The flags of the thread status word (R28) and the widths and signs of the types (R59, R109, R322).
-/

namespace Sys2Proof.Machine

def fNX : BitVec 32 := 0x001
def fUF : BitVec 32 := 0x002
def fOF : BitVec 32 := 0x004
def fNV : BitVec 32 := 0x008
def fDZ : BitVec 32 := 0x010
def fOV : BitVec 32 := 0x020
def fGZ : BitVec 32 := 0x040
def fKEY : BitVec 32 := 0x080
def fDN : BitVec 32 := 0x100

/-- A flag under a condition. -/
def flagIf (c : Bool) (f : BitVec 32) : BitVec 32 := if c then f else 0

end Sys2Proof.Machine

namespace Sys2Proof

/-- The width of a type in bits. -/
def Ty.width : Ty → Nat
  | .int8 | .uint8 | .e4m3 | .e5m2 | .nb4 => 8
  | .int16 | .uint16 | .fp16 | .bf16 => 16
  | .int32 | .uint32 | .fp32 => 32
  | .int64 | .uint64 => 64

/-- The signed integer types. -/
def Ty.signed : Ty → Bool
  | .int8 | .int16 | .int32 | .int64 => true
  | _ => false

/-- The types whose vector operands hold two elements to a lane (R113). -/
def Ty.packed : Ty → Bool
  | .fp16 | .bf16 => true
  | _ => false

end Sys2Proof

namespace Sys2Proof.Machine

/-- The low w bits of a word, zero-extended. -/
def lowBits (w : Nat) (x : Word) : Word := x &&& BitVec.ofNat 64 (2 ^ w - 1)

/-- The low w bits of a word as a signed integer. -/
def signedOf (w : Nat) (x : Word) : Int :=
  let n := x.toNat % 2 ^ w
  if n < 2 ^ (w - 1) then (n : Int) else (n : Int) - 2 ^ w

/-- The low w bits as the type reads them. -/
def intOf (w : Nat) (signed : Bool) (x : Word) : Int := if signed then signedOf w x else ((x.toNat % 2 ^ w : Nat) : Int)

/-- The result of width w as a register holds it: extended by the type to 64 bits; a lane takes the low 32 (R109). -/
def extend (w : Nat) (signed : Bool) (x : Word) : Word :=
  if signed then BitVec.ofInt 64 (signedOf w x) else lowBits w x

end Sys2Proof.Machine
end

