-- ==== Sys2Proof/Machine/Float.lean ====
section
/-!
DEFINITION. Floating arithmetic to the bit (R112 to R117, R128, R129): formats, values as exact dyadic numbers,
one rounding to the destination format, flags.
-/

namespace Sys2Proof.Machine

/-- A floating format (R112): exponent and mantissa bits, and whether it has infinities (E4M3 has none). -/
structure Fmt where
  eb : Nat
  mb : Nat
  inf : Bool
deriving DecidableEq, Repr

def Fmt.fp32 : Fmt := ⟨8, 23, true⟩
def Fmt.fp16 : Fmt := ⟨5, 10, true⟩
def Fmt.bf16 : Fmt := ⟨8, 7, true⟩
def Fmt.e4m3 : Fmt := ⟨4, 3, false⟩
def Fmt.e5m2 : Fmt := ⟨5, 2, true⟩

end Sys2Proof.Machine

namespace Sys2Proof

open Machine

/-- The format of a floating type. -/
def Ty.fmt : Ty → Fmt
  | .fp16 => .fp16
  | .bf16 => .bf16
  | .e4m3 => .e4m3
  | .e5m2 => .e5m2
  | _ => .fp32

end Sys2Proof

namespace Sys2Proof.Machine

namespace Fmt

/-- The number of bits. -/
def bits (f : Fmt) : Nat := 1 + f.eb + f.mb
def bias (f : Fmt) : Nat := 2 ^ (f.eb - 1) - 1
/-- The exponent of the smallest normal value. -/
def emin (f : Fmt) : Int := 1 - (f.bias : Int)
/-- The pattern of the largest finite magnitude. -/
def maxMag (f : Fmt) : Nat := if f.inf then (2 ^ f.eb - 1) * 2 ^ f.mb - 1 else 2 ^ (f.eb + f.mb) - 2
/-- The pattern of infinity, where the format has one. -/
def infMag (f : Fmt) : Nat := (2 ^ f.eb - 1) * 2 ^ f.mb
/-- The canonical NaN (R112). -/
def nan (f : Fmt) : Nat := if f.inf then f.infMag + 2 ^ (f.mb - 1) else 2 ^ (f.eb + f.mb) - 1
/-- A magnitude with its sign. -/
def sign (f : Fmt) (neg : Bool) (mag : Nat) : Nat := if neg then 2 ^ (f.eb + f.mb) + mag else mag

end Fmt

/-- What a pattern stands for: a NaN, signalling or quiet; an infinity; a signed zero or a dyadic m × 2^e. -/
inductive FVal where
  | nan (signalling : Bool)
  | inf (neg : Bool)
  | fin (neg : Bool) (m : Nat) (e : Int)
deriving DecidableEq, Repr

/-- The value of a pattern (R112). -/
def Fmt.value (f : Fmt) (p : Nat) : FVal :=
  let neg := p / 2 ^ (f.eb + f.mb) % 2 = 1
  let ex := p / 2 ^ f.mb % 2 ^ f.eb
  let m := p % 2 ^ f.mb
  if f.inf && ex = 2 ^ f.eb - 1 then
    if m = 0 then .inf neg else .nan (m < 2 ^ (f.mb - 1))
  else if !f.inf && ex = 2 ^ f.eb - 1 && m = 2 ^ f.mb - 1 then .nan false
  else if ex = 0 then .fin neg m (f.emin - f.mb)
  else .fin neg (2 ^ f.mb + m) ((ex : Int) - f.bias - f.mb)

def FVal.isNan : FVal → Bool
  | .nan _ => true
  | _ => false
def FVal.isSnan : FVal → Bool
  | .nan s => s
  | _ => false
def FVal.isZero : FVal → Bool
  | .fin _ 0 _ => true
  | _ => false
def FVal.neg? : FVal → Bool
  | .nan _ => false
  | .inf n => n
  | .fin n _ _ => n
def FVal.negate : FVal → FVal
  | .nan s => .nan s
  | .inf n => .inf (!n)
  | .fin n m e => .fin (!n) m e

/-- A result: the pattern and the flags. -/
structure FRes where
  bits : Nat
  flags : BitVec 32
deriving DecidableEq, Repr

/-- The length of a number in bits. -/
def bitLen (m : Nat) : Nat := if m = 0 then 0 else Nat.log2 m + 1

/-- Whether the mode moves a magnitude n + rem/2^s up; `sticky` says that a little more lies below (R114). -/
def roundUp (mode : Rnd) (neg : Bool) (n rem s : Nat) (sticky : Bool) : Bool :=
  let half := 2 ^ s
  match mode with
  | .rne => decide (2 * rem > half) || (decide (2 * rem = half) && (sticky || n % 2 = 1))
  | .rna => decide (2 * rem ≥ half)
  | .rz => false
  | .rd => neg && (rem ≠ 0 || sticky)
  | .ru => !neg && (rem ≠ 0 || sticky)

/-- m × 2^e (and a little more, if `sticky`) as an integer count of 2^q, rounded; and whether it is inexact. -/
def roundAt (mode : Rnd) (neg : Bool) (m : Nat) (e : Int) (sticky : Bool) (q : Int) : Nat × Bool :=
  if q ≤ e then (m * 2 ^ (e - q).toNat, sticky)
  else
    let s := (q - e).toNat
    let n := m / 2 ^ s
    let rem := m % 2 ^ s
    (if roundUp mode neg n rem s sticky then n + 1 else n, rem ≠ 0 || sticky)

/-- A rounded magnitude before its range is looked at: its pattern (which can pass the largest finite one),
whether it is inexact, whether it is tiny by R115. `m` is not 0. -/
def Fmt.roundMag (f : Fmt) (mode : Rnd) (neg : Bool) (m : Nat) (e : Int) (sticky : Bool) : Nat × Bool × Bool :=
  let top : Int := (bitLen m : Int) - 1 + e
  let q := max top f.emin - f.mb
  let (n, inexact) := roundAt mode neg m e sticky q
  let mag := if n < 2 ^ f.mb then n else (q + f.mb + f.bias - 1).toNat * 2 ^ f.mb + n
  let tiny := decide (top < f.emin) &&
    !(decide (top = f.emin - 1) && (roundAt mode neg m e sticky (top - f.mb)).1 = 2 ^ (f.mb + 1))
  (mag, inexact, tiny)

/-- Whether an overflow under the mode gives infinity rather than the largest finite value (R114). -/
def overflowsToInf (mode : Rnd) (neg : Bool) : Bool :=
  match mode with
  | .rne | .rna => true
  | .rz => false
  | .rd => neg
  | .ru => !neg

/-- round(v, fmt, mode) with its flags (R114, R115), for a format with infinities. -/
def Fmt.round (f : Fmt) (mode : Rnd) (neg : Bool) (m : Nat) (e : Int) (sticky : Bool := false) : FRes :=
  if m = 0 && !sticky then ⟨f.sign neg 0, 0⟩
  else
    let (mag, inexact, tiny) := f.roundMag mode neg m e sticky
    if mag > f.maxMag then
      ⟨f.sign neg (if overflowsToInf mode neg then f.infMag else f.maxMag), fOF ||| fNX⟩
    else ⟨f.sign neg mag, flagIf inexact fNX ||| flagIf (inexact && tiny) fUF⟩

/-- The canonical NaN, with NV for an invalid operation or a signalling source (R115, R116). -/
def Fmt.nanRes (f : Fmt) (invalid : Bool) : FRes := ⟨f.nan, flagIf invalid fNV⟩
def Fmt.infRes (f : Fmt) (neg : Bool) : FRes := ⟨f.sign neg f.infMag, 0⟩
def Fmt.zeroRes (f : Fmt) (neg : Bool) : FRes := ⟨f.sign neg 0, 0⟩

/-- A magnitude with its sign. -/
def signedInt (neg : Bool) (m : Nat) : Int := if neg then -(m : Int) else m

/-- The exact sum of two dyadics as a dyadic. -/
def dyadicAdd (a : Int) (ea : Int) (b : Int) (eb : Int) : Int × Int :=
  let e := min ea eb
  (a * 2 ^ (ea - e).toNat + b * 2 ^ (eb - e).toNat, e)

/-- round of an exact dyadic; an exact zero is −0 under rd and +0 otherwise (R365). -/
def Fmt.roundInt (f : Fmt) (mode : Rnd) (v : Int) (e : Int) : FRes :=
  if v = 0 then f.zeroRes (mode == .rd) else f.round mode (v < 0) v.natAbs e

/-- The sum of two values, NaNs apart (R114, R115, R365). -/
def Fmt.sum (f : Fmt) (mode : Rnd) (x y : FVal) : FRes :=
  match x, y with
  | .nan _, _ | _, .nan _ => f.nanRes (x.isSnan || y.isSnan)
  | .inf a, .inf b => if a = b then f.infRes a else f.nanRes true
  | .inf a, _ => f.infRes a
  | _, .inf b => f.infRes b
  | .fin a m e, .fin b n g =>
    if m = 0 && n = 0 && a = b then f.zeroRes a
    else
      let (v, h) := dyadicAdd (signedInt a m) e (signedInt b n) g
      f.roundInt mode v h

/-- x + y (R364). -/
def Fmt.add (f : Fmt) (mode : Rnd) (x y : Nat) : FRes := f.sum mode (f.value x) (f.value y)
/-- x − y (R364). -/
def Fmt.sub (f : Fmt) (mode : Rnd) (x y : Nat) : FRes := f.sum mode (f.value x) (f.value y).negate

/-- The exact product, or what stands for it; none for 0 × ∞. -/
def FVal.mul (x y : FVal) : Option FVal :=
  match x, y with
  | .nan s, .nan t => some (.nan (s || t))
  | .nan s, _ => some (.nan s)
  | _, .nan t => some (.nan t)
  | .inf a, .inf b => some (.inf (a != b))
  | .inf a, .fin b n _ => if n = 0 then none else some (.inf (a != b))
  | .fin a m _, .inf b => if m = 0 then none else some (.inf (a != b))
  | .fin a m e, .fin b n g => some (.fin (a != b) (m * n) (e + g))

/-- A value rounded to a format. -/
def Fmt.ofVal (f : Fmt) (mode : Rnd) (v : FVal) : FRes :=
  match v with
  | .nan s => f.nanRes s
  | .inf a => f.infRes a
  | .fin a m e => f.round mode a m e

/-- x × y (R364, R365). -/
def Fmt.mul (f : Fmt) (mode : Rnd) (x y : Nat) : FRes :=
  match (f.value x).mul (f.value y) with
  | none => f.nanRes true
  | some v => f.ofVal mode v

/-- x × y + z with one rounding (R367). -/
def Fmt.fma (f : Fmt) (mode : Rnd) (x y z : Nat) : FRes :=
  match (f.value x).mul (f.value y) with
  | none => f.nanRes true
  | some p => f.sum mode p (f.value z)

/-- x / y (R231). -/
def Fmt.div (f : Fmt) (mode : Rnd) (x y : Nat) : FRes :=
  match f.value x, f.value y with
  | .nan a, v => f.nanRes (a || v.isSnan)
  | _, .nan b => f.nanRes b
  | .inf _, .inf _ => f.nanRes true
  | .inf a, .fin b _ _ => f.infRes (a != b)
  | .fin a _ _, .inf b => f.zeroRes (a != b)
  | .fin a m e, .fin b n g =>
    if n = 0 then (if m = 0 then f.nanRes true else f.infRes (a != b))
    else
      let k := bitLen n + 64
      f.round mode (a != b) (m * 2 ^ k / n) (e - g - k) (m * 2 ^ k % n ≠ 0)

/-- The order of two values that are not NaN: −0 below +0 (R116). -/
def FVal.less (x y : FVal) : Bool :=
  match x, y with
  | .inf a, .inf b => a && !b
  | .inf a, _ => a
  | _, .inf b => !b
  | .fin a m e, .fin b n g =>
    if m = 0 && n = 0 then a && !b
    else
      let h := min e g
      decide (signedInt a m * 2 ^ (e - h).toNat < signedInt b n * 2 ^ (g - h).toNat)
  | _, _ => false

/-- FMIN and FMAX (R116, R364, R365). -/
def Fmt.minMax (f : Fmt) (isMax : Bool) (x y : Nat) : FRes :=
  let a := f.value x
  let b := f.value y
  let fl := flagIf (a.isSnan || b.isSnan) fNV
  if a.isNan && b.isNan then ⟨f.nan, fl⟩
  else if a.isNan then ⟨y, fl⟩
  else if b.isNan then ⟨x, fl⟩
  else if isMax then ⟨if a.less b then y else x, fl⟩
  else ⟨if b.less a then y else x, fl⟩

/-- x × 2^n (R129, R366). An n beyond ±4096 gives what ±4096 gives in every format here. -/
def Fmt.ldexp (f : Fmt) (mode : Rnd) (x : Nat) (n : Int) : FRes :=
  match f.value x with
  | .fin a m e => f.round mode a m (e + max (-4096) (min 4096 n))
  | v => f.ofVal mode v

/-- An integer as a count of 2^0, rounded by the mode; its sign is kept apart. -/
def roundInteger (mode : Rnd) (neg : Bool) (m : Nat) (e : Int) : Nat × Bool := roundAt mode neg m e false 0

/-- FRND (R368). -/
def Fmt.roundIntegral (f : Fmt) (mode : Rnd) (x : Nat) : FRes :=
  match f.value x with
  | .fin a m e => ⟨(f.round .rne a (roundInteger mode a m e).1 0).bits, 0⟩
  | v => f.ofVal mode v

/-- FSPLIT of an FP32 pattern (R128): mantissa, exponent, flags. -/
def fsplit (x : Nat) : Nat × Int × BitVec 32 :=
  match Fmt.fp32.value x with
  | .nan s => (Fmt.fp32.nan, 0, flagIf s fNV)
  | .inf a => (Fmt.fp32.sign a Fmt.fp32.infMag, 0, 0)
  | .fin a m e =>
    if m = 0 then (Fmt.fp32.sign a 0, 0, 0)
    else
      let n : Int := (bitLen m : Int) - 1 + e
      ((Fmt.fp32.round .rne a m (e - n)).bits, n, 0)

/-! ### Conversions (R117, R121) -/

/-- A floating value to an integer type of width w (R117): result as an integer, flags. -/
def FVal.toInt (v : FVal) (mode : Rnd) (w : Nat) (signed : Bool) : Int × BitVec 32 :=
  let lo : Int := if signed then -(2 ^ (w - 1)) else 0
  let hi : Int := if signed then 2 ^ (w - 1) - 1 else 2 ^ w - 1
  match v with
  | .nan _ => (0, fNV)
  | .inf a => (if a then lo else hi, fNV)
  | .fin a m e =>
    if (bitLen m : Int) + e > 80 then (if a then lo else hi, fNV)
    else
      let (n, inexact) := roundInteger mode a m e
      let r := signedInt a n
      if r < lo then (lo, fNV) else if r > hi then (hi, fNV) else (r, flagIf inexact fNX)

/-- A value to E4M3 or E5M2 under a slot's rounding and saturation (R121). -/
def Fmt.toFp8 (f : Fmt) (mode : Rnd) (sat : Bool) (v : FVal) : FRes :=
  match v with
  | .nan s => ⟨f.nan, flagIf s fNV⟩
  | .inf a =>
    if sat then ⟨f.sign a f.maxMag, fNV⟩
    else if f.inf then ⟨f.sign a f.infMag, 0⟩ else ⟨f.nan, fNV⟩
  | .fin a m e =>
    if m = 0 then ⟨f.sign a 0, 0⟩
    else
      let (mag, inexact, tiny) := f.roundMag mode a m e false
      if mag > f.maxMag then
        if sat then ⟨f.sign a f.maxMag, fOF ||| fNX⟩
        else if overflowsToInf mode a then ⟨if f.inf then f.sign a f.infMag else f.nan, fOF ||| fNX⟩
        else ⟨f.sign a f.maxMag, fOF ||| fNX⟩
      else ⟨f.sign a mag, flagIf inexact fNX ||| flagIf (inexact && tiny) fUF⟩

/-! ### NB4 (R118 to R120) -/

/-- decode(TYPE, c) × 2^(E−32) as a value (R119). -/
def nb4Value (scale code : Nat) : FVal :=
  let ty := scale / 64 % 4
  let e : Int := (scale % 64 : Nat) - 32
  let c := code % 16
  let m := c % 8
  let neg := c / 8 = 1
  match ty with
  | 0 => if c < 8 then .fin false c e else .fin true (16 - c) e
  | 1 => if m = 0 then .fin neg 0 e
         else if m = 1 then .fin neg 1 (e - 1)
         else .fin neg (2 + m % 2) (e + ((m / 2 : Nat) : Int) - 2)
  | 2 => if m = 0 then .fin neg 0 e else .fin neg 1 (e + (m : Int) - 4)
  | _ => .fin neg ([0, 1, 2, 3, 4, 6, 8, 12].getD m 0) e

end Sys2Proof.Machine
end

