-- ==== Sys2Proof/Config.lean ====
section
/-!
DEFINITION. What the manual leaves to the device: the free values. Each is an opaque constant with no body,
so no proof can see what it is, and a statement that mentions one holds whatever it is. A free value that
differs from one use to the next is read at the state's counter `fresh` (log 4).
-/

namespace Sys2Proof.Config

/-- An indeterminate value (R6), read at a counter. Narrower values are its low bits. -/
opaque freeWord : Nat → Word

/-- A choice that the manual leaves open between two outcomes (R180, R333), read at a counter. -/
opaque freeBool : Nat → Bool

/-- The tile column whose layers hold a physical address (R8, R303): fixed for a device, not stated. -/
opaque columnOf : Nat → Nat

/-- The crossbar slice port that serves a physical address (R199): fixed for a device, not stated. -/
opaque sliceOf : Nat → Nat

/-- The choice among the values inside the error bound of an approximate operation (R125-R127), by
operation, type code and input: fixed for a device, since a given input gives the same bits on every core. -/
opaque approxPick : Nat → Nat → Nat → Nat

/-- This device's own Nymnex id (R220), which the manual does not state. -/
opaque deviceId : BitVec 16

/-- Data and SPDM answers that the manual does not give (R302), by request number. -/
opaque spdmAnswer : Nat → Word

end Sys2Proof.Config
end

