-- ==== Sys2Proof/Machine/Map.lean ====
section
/-!
DEFINITION. Finite maps from numbers as lists of key and value pairs, kept in rising key order by `set`.
-/

namespace Sys2Proof

/-- A finite map from numbers. -/
abbrev Map (α : Type) := List (Nat × α)

namespace Map

variable {α : Type}

/-- The value at a key. -/
def get? : Map α → Nat → Option α
  | [], _ => none
  | (j, x) :: r, k => if k = j then some x else get? r k

/-- The value at a key, or a default. -/
def getD (m : Map α) (k : Nat) (d : α) : α := (m.get? k).getD d

/-- Write a key. -/
def set : Map α → Nat → α → Map α
  | [], k, v => [(k, v)]
  | (j, x) :: r, k, v =>
    if k = j then (k, v) :: r else if k < j then (k, v) :: (j, x) :: r else (j, x) :: set r k v

/-- Remove a key. -/
def erase (m : Map α) (k : Nat) : Map α := m.filter fun p => p.1 != k

/-- Change the value at a key, if there is one. -/
def modify (m : Map α) (k : Nat) (f : α → α) : Map α := m.map fun p => if p.1 = k then (p.1, f p.2) else p

def keys (m : Map α) : List Nat := m.map Prod.fst
def vals (m : Map α) : List α := m.map Prod.snd

end Map

end Sys2Proof
end

