-- ==== Sys2Proof/Machine/State.lean ====
section
/-!
DEFINITION. The state of the Tolton as plain data: everything the manual gives the device, and the model's own
bookkeeping (`cur`, `agenda`, `nextId`, `fresh`, see the assumption log). INVENTORY.md lists each field with the
rule that names it and its reset value.
-/

namespace Sys2Proof.Machine

/-! ### Registers -/

/-- A uniform or path-trace register with its full/empty bit (R30, R245). -/
structure Reg where
  val : Word
  full : Bool
deriving DecidableEq, Repr

/-- A vector register of one thread with its full/empty bit (R30). -/
structure VReg where
  val : Lane
  full : Bool
deriving DecidableEq, Repr

/-- The form of a set register (R63, R64). `raw` is a register that a debugger left outside the forms. -/
inductive SetForm where
  | empty
  | inline (base : Nat) (mask : Word)
  | handle (slot gen card : Nat)
  | raw (bits : BitVec 128)
deriving DecidableEq, Repr

/-- A set register; `full` is false while an SLD or SQPOP into it is pending (R79). -/
structure KReg where
  form : SetForm
  full : Bool
deriving DecidableEq, Repr

/-- A register that an instruction waits for. Vector registers are named by thread and logical number (R351). -/
inductive RegRef where
  | u (n : Nat)
  | k (n : Nat)
  | v (tid n : Nat)
  | h (tid n : Nat)
deriving DecidableEq, Repr

/-- One register or flag write that a completion makes. -/
inductive Res where
  | v (tid n : Nat) (x : Lane)
  | u (n : Nat) (x : Word)
  | k (n : Nat) (x : SetForm)
  | h (tid n : Nat) (x : Word)
  | flags (tid : Nat) (x : BitVec 32)
deriving DecidableEq, Repr

/-! ### Threads -/

/-- A call record (R351). -/
structure Call where
  cont : Nat
  n : Nat
deriving DecidableEq, Repr

/-- A reservation of LR (R196). -/
structure Resv where
  granule : Nat
  since : Nat
deriving DecidableEq, Repr

/-- Where a thread of a CALLV bin returns to, and the call depth it entered at (R108). -/
structure BinRet where
  ctx : Nat
  uid : Nat
  depth : Nat
deriving DecidableEq, Repr

/-- A thread (R24, R28, R29, R35, R245, R351). `floor` is the depth of its call stack at trap entry (R275); `bins` the CALLV calls it is in, innermost first. -/
structure Thread where
  core : Nat
  done : Bool
  base : Nat
  calls : List Call
  floor : Nat
  v : Map VReg
  h : Map Reg
  tsw : BitVec 32
  resv : Option Resv
  bins : List BinRet
deriving DecidableEq, Repr

/-! ### Memory instructions -/

/-- One thread's part of a memory instruction: its address and its source values as read at issue (R147). -/
structure Item where
  tid : Nat
  addr : Nat
  data : Word
  data2 : Word
  dst : Nat
deriving DecidableEq, Repr

/-- What a memory instruction does at each address. -/
inductive AccKind where
  | ld (ty : Ty)
  | lr (ty : Ty)
  | st (ty : Ty)
  | sc (ty : Ty)
  | atom (op : AtomOp) (ty : AtomTy) (ret : Bool)
  | sld (k : Nat)
  | sst (set : Tids)
  | sqpush (sd : Nat) (set : Tids)
  | sqpop (k sd : Nat)
  | cpa (tag : Nat)
  | route (desc : Nat) (mapOnly : Bool)
  | strm (id : Nat)
  | word
  | desc (op hn : Nat)
deriving DecidableEq, Repr

/-- A memory instruction with its operands read (R169, R176); `sent` is when it issued, once part of it is sent or logged, `late`
that a part of it has completed overdue (R207). -/
structure Access where
  kind : AccKind
  pc : Nat
  len : Nat
  uid : Nat
  shared : Bool
  strong : Bool
  scope : Scope
  ov : Bool
  cls : BitVec 2
  items : List Item
  once : Bool
  sent : Nat := 0
  late : Bool := false
deriving DecidableEq, Repr

/-- A store in a context's store queue (R186): where its bytes lie (a key of memory; its virtual address while
`faulted`, R178, or for a `peer`), the log entry and the operation that it belongs to. -/
structure Store where
  tid : Nat
  at' : Nat
  bytes : List Byte
  faulted : Bool
  entry : Nat
  strong : Bool
  peer : Bool
  op : Nat
deriving DecidableEq, Repr

/-- A page that a logged instruction or an engine operation awaits (R176). -/
structure PageRef where
  root : Nat
  page : Nat
deriving DecidableEq, Repr

/-- An entry of the operand log (R176). `failed` holds the trap code once it
cannot be served: PAGE from the fault service (R179), REMOTE or RTIMEOUT from a peer (R222), POISON (R309). -/
structure LogEntry where
  id : Nat
  acc : Access
  pages : List PageRef
  failed : Option Nat
deriving DecidableEq, Repr

/-! ### Traps, paths and contexts -/

/-- A trap that is raised (R273, R274). `tids` are the handler's threads. `entry` is the operand-log entry or
`op` the held engine operation that it belongs to. -/
structure TrapInfo where
  code : Nat
  pc : Nat
  uni : Bool
  tids : List Nat
  entry : Option Nat
  op : Option Nat
  len : Nat
deriving DecidableEq, Repr

/-- Why an instruction waits at issue for something other than a register; it issues again when that changes. -/
inductive Why where
  /-- a scratchpad line is absent (R156) -/
  | presence
  /-- the store queue must drain first (R189, R191, R388) -/
  | drain
  /-- the operand log is full (R176) or holds a strong access (R178) -/
  | log
  /-- 1024 requests are outstanding (R181) -/
  | requests
  /-- an engine holds as many operations as it can (R247, R344, R263) -/
  | engine
  /-- the channel has no free slot (R216); the instruction's length follows -/
  | slot (ch len : Nat)
  /-- the channel holds no data (R216); the instruction's length follows -/
  | data (ch len : Nat)
  /-- the matrix array's earlier operations (R135, R141) -/
  | matrix
  /-- a path that a kill or a hold stopped -/
  | held
deriving DecidableEq, Repr

/-- A frame-collective instruction at its rendezvous (R91). -/
inductive Collective where
  | suni (o : SetOp)
  | apply (o : ApplyOp)
  | applyK (o : ApplyKOp)
deriving DecidableEq, Repr

/-- A condition of a WAIT (R166): its two registers, the place of a kind-6 word once it has translated, and the value
that a peer device's reply brought. -/
structure WCond where
  first : Word
  second : Word
  key : Option Nat
  word : Option Word
deriving DecidableEq, Repr

/-- A WAIT that has issued (R166, R167). -/
structure Waiting where
  conds : List WCond
  all : Bool
  sd : Nat
  deadline : Option Nat
  cls : BitVec 2
  len : Nat
  read : Nat
deriving DecidableEq, Repr

/-- What a path does or waits for. -/
inductive Status where
  /-- it can issue -/
  | ready
  /-- an instruction waits for registers (R409) -/
  | source (regs : List RegRef)
  /-- an instruction waits at issue -/
  | again (w : Why)
  /-- the page of its next instruction is not present (R332) -/
  | fetch (p : PageRef)
  /-- a word of its next instruction comes from a peer device (R221, R332) -/
  | fetching (op : Nat)
  /-- pages of its memory instruction are being translated (R169) -/
  | translating (a : Access)
  /-- suspended below a child or a handler of its own slot -/
  | under
  /-- arrived at a frame-collective instruction at an address (R91) -/
  | arrived (addr len : Nat) (c : Collective)
  /-- an issuer of an application of its team (R93) -/
  | applied (app : Nat)
  /-- the path of a FORK: continuation, which blocks are at the join, lb's address, the overlap (R97) -/
  | join (aDone bDone : Bool) (lb : Nat) (overlap : List Nat)
  /-- a fork path waiting at its join (R97) -/
  | atJoin
  /-- waits for CALLV returns (R107) -/
  | returns
  /-- lb is applied over threads once every uniform and set register is full (R89, R97, R98) -/
  | thenApply (lb : Nat) (b : List Nat)
  /-- threads of a CALLV or SPAWN that have found no bin yet (R42): what is placed, tid and entry each -/
  | placing (spawn : Bool) (todo : List (Nat × Nat))
  /-- arrived at a barrier (R340) -/
  | barrier (id : Nat)
  /-- a WAIT (R167) -/
  | wait (w : Waiting)
  /-- a CPWAIT (R162): its tag, and where the count goes -/
  | cpwait (tag : Nat) (sd : Option Nat)
  /-- a trap is raised and its handler has not started (R275) -/
  | trapped (t : TrapInfo)
  /-- stopped by a kill (R276) -/
  | stopped
deriving DecidableEq, Repr

/-- What an activation of a path slot is. -/
inductive Kind where
  | home
  /-- an applied context of an application of its team -/
  | applied (app : Nat)
  /-- a bin context; true when SPAWN formed it (R42) -/
  | bin (spawn : Bool)
  /-- the child of an APPLY.g, or lb after a join (R89, R97) -/
  | child
  /-- la of a FORK in slot 0 (R97) -/
  | forkA
  /-- lb of a FORK in slot 1 (R97) -/
  | forkB
  /-- la of a FORK in sequential form: lb's address and lb's threads follow it (R98) -/
  | forkSeq (lb : Nat) (b : List Nat)
  /-- a trap handler (R275) -/
  | handler (t : TrapInfo)
deriving DecidableEq, Repr

/-- Instruction words that INSTRUCTION_FETCH has brought for a path (R332). -/
structure Fetched where
  addr : Nat
  word : Word
  next : Option Word
deriving DecidableEq, Repr

/-- One activation of a path: a running path, or one suspended below another in its slot (R30, R34). `inTrap`
says that it is a handler or runs under one (R276). `only` names the threads that alone execute the next
instruction after RFT (R277). `last` holds the words of the instruction that the path last put at issue. `foot` is the `.pack` footprint in registers, none under `.map`, and `footAt` the window base of each thread at which it
was copied (R102). -/
structure Act where
  uid : Nat
  pc : Nat
  lanes : List Nat
  s : Map Reg
  k : Map KReg
  kind : Kind
  status : Status
  inTrap : Bool
  only : Option (List Nat)
  since : Nat
  ibuf : Option Fetched
  last : Option Fetched
  foot : Option Nat
  footAt : Map Nat
deriving DecidableEq, Repr

/-- A weight tile (R130): rows, the slot's ELEM, pair, and its values expanded to BF16 by row and column. -/
structure Tile where
  k : Nat
  elem : Nat
  pair : Bool
  vals : List (BitVec 16)
deriving DecidableEq, Repr

/-- A stream slot (R158, R159). `tardy` says that a line was filled overdue (R207). -/
structure Stream where
  base : Nat
  stride : Int
  count : Nat
  ring : Nat
  rlines : Nat
  ebytes : Nat
  look : Nat
  next : Nat
  filled : List Nat
  landed : Nat
  id : Nat
  slack : Nat
  ov : Bool
  cls : BitVec 2
  pc : Nat
  uid : Nat
  sent : Nat
  tardy : Bool
deriving DecidableEq, Repr

/-- Where a context is (R36, R271). -/
inductive Phase where
  | resident
  | lent
  | saved
deriving DecidableEq, Repr

/-- Overdue `.ov` completions (R207): held for a path that has not run since. -/
structure Held where
  uid : Nat
  trap : TrapInfo
deriving DecidableEq, Repr

/-- A context (R30). `p0` and `p1` are the stacks of its path slots, the running activation first; an empty `p1`
is a free slot 1. `image` is what was written to its save area while it is lent or saved (R36, R271), empty where nothing was, and `imageAt` the
image there that it takes. `group` is the home group index of a home context (R145). `restored` says that it has issued nothing
since it was restored (R272). -/
structure Ctx where
  team : Nat
  core : Nat
  slot : Nat
  serial : Nat
  p0 : List Act
  p1 : List Act
  frames : List Nat
  queue : List Store
  tags : Map Nat
  tagDone : Map Nat
  issued : Map Nat
  doneOps : Map (List Nat)
  tl : Map Nat
  tstat : Word
  ovd : Word
  slk : Word
  log : List LogEntry
  streams : Map Stream
  live : Option Tile
  shadow : Option Tile
  held : List Held
  count : Nat
  phase : Phase
  app : Option Nat
  bin : Bool
  image : List Byte
  imageAt : Nat
  group : Nat
  restored : Bool
deriving DecidableEq, Repr

/-! ### Teams and launches -/

/-- A frame (R39). -/
structure Frame where
  depth : Nat
  members : List Nat
deriving DecidableEq, Repr

/-- One applied context that is still to be formed: core, lane map, key (R93, R96). -/
structure FormReq where
  core : Nat
  lanes : List Nat
  key : Option Nat
deriving DecidableEq, Repr

/-- An application: its issuers, its frame, what its contexts start with, the contexts to form and those
running (R93, R95). `k` holds the set registers as the carrying path's core `lead` holds them, `kOther` as the other
core of a pair does (R66). -/
structure App where
  issuers : List (Nat × Nat)
  frame : Nat
  parents : List Nat
  skey : Nat
  s : Map Reg
  k : Map KReg
  lead : Nat
  kOther : Map KReg
  target : Nat
  foot : Option Nat
  todo : List FormReq
  live : List Nat
deriving DecidableEq, Repr

/-- A barrier (R340). -/
structure Barrier where
  count : Nat
  target : Nat
deriving DecidableEq, Repr

/-- A set slot of a team on one core (R66). `bits` is none when the slot is free. -/
structure SetSlot where
  gen : Nat
  bits : Option Tids
  dirty : Bool
  poisoned : Bool
deriving DecidableEq, Repr

/-- A team (R24, R25, R149, R150, R340, R66). `cores` is its core, or leader and follower; `placed` orders teams by when they were
last placed (R269). -/
structure Team where
  launch : Nat
  id : Nat
  band : Nat
  cores : List Nat
  size : Nat
  span : Nat
  spadBase : Nat
  spadBytes : Nat
  colBase : Nat
  colBytes : Nat
  visible : Nat
  spillBase : Nat
  frames : Map Frame
  apps : Map App
  bars : Map Barrier
  slots : Map SetSlot
  saved : Bool
  stopAt : Option Nat
  freed : Bool
  placed : Nat
deriving DecidableEq, Repr

/-- A launch record as read (R259). -/
structure Record where
  entry : Nat
  tcount : Nat
  tsize : Nat
  caddr : Nat
  w : Nat
  band : Nat
  prio : Nat
  ovt : Bool
  vregs : Nat
  spare : Nat
  spad : Nat
  col : Nat
  gspill : Nat
  gsbase : Nat
  fslots : List Word
  chanp : Nat
  nchan : Nat
  rtab : Nat
  tree : Nat
  sched : Nat
  slen : Nat
  slk : Word
  trapent : Nat
  deps : List (Nat × Nat)
  cinc : Nat
  cval : Word
deriving DecidableEq, Repr

/-- One slot of a channel (R216). -/
structure ChanSlot where
  op : Nat
  ready : Bool
  taken : Bool
  bytes : List Byte
  team : Nat
deriving DecidableEq, Repr

/-- A channel (R214, R259): its slots in use, oldest first. -/
structure Channel where
  first : Nat
  last : Nat
  cons : Nat
  slots : Nat
  size : Nat
  fifo : List ChanSlot
deriving DecidableEq, Repr

/-- The stages of a launch (R17, R260, R265): its record is to be read; its dependences are awaited; they are met and
its tables are read; its bands are placed and run; STATUS is written or lost and the increment is due; complete. -/
inductive LPhase where
  | accepted
  | checked
  | tables
  | running
  | counting
  | complete
deriving DecidableEq, Repr

/-- A launch (R261 to R265). `next` is the next team to place, `finished` how many are freed, `met` the dependences met
when they were last read, `got` how many of the count and the tables are read, `waits` the pages that it awaits, `since`
when its next band began to wait, and `waiting` that this band has found no place (R266). -/
structure Launch where
  root : Nat
  at' : Nat
  record : Option Record
  phase : LPhase
  count : Nat
  next : Nat
  finished : Nat
  met : List Nat
  rtab : Option (List (BitVec 32))
  chans : Map Channel
  sched : List Nat
  status : Nat
  killed : Option Nat
  since : Nat
  queue : Option Nat
  got : Nat
  waits : List PageRef
  waiting : Bool
deriving DecidableEq, Repr

/-! ### Operations that are issued and not complete -/

/-- A tree descriptor (R242). -/
structure TreeDesc where
  nbase : Nat
  gbase : Nat
  nstride : Nat
  dim : Nat
  depth : Nat
  slot : Nat
  bias : Bool
deriving DecidableEq, Repr

/-- One thread of a descent (R248): its inputs and dot products, where it stands, whether it is complete. `held` says
that a trap of its node is held, `lost` that it was completed by a skip (R255). -/
structure Walker where
  tid : Nat
  x : Nat
  dots : Nat
  level : Nat
  node : Nat
  path : Nat
  nan : Bool
  complete : Bool
  held : Bool
  lost : Bool
  dst : Nat
deriving DecidableEq, Repr

/-- One thread of a replay (R252). -/
structure Climber where
  tid : Nat
  x : Nat
  lg : Nat
  dx : Nat
  path : Nat
deriving DecidableEq, Repr

/-- What is left of a replay (R252, R253): its adds in order, each a level, a thread and the row's next element, the threads whose
input gradients are not written; and the nodes that it has fetched (R249). -/
structure Climbing where
  adds : List (Nat × Nat × Nat)
  grads : List Nat
  nodes : Map (List Byte)
deriving DecidableEq, Repr

/-- A gather descriptor (R239). -/
structure GatherDesc where
  src : Nat
  sstride : Nat
  idx : Nat
  dst : Nat
  dstride : Nat
  n : Nat
  elems : Nat
  sfmt : Nat
  dfmt : Nat
  dsp : Bool
deriving DecidableEq, Repr

/-- A collective descriptor (R223). -/
structure CollDesc where
  kind : Nat
  op : Nat
  fmt : Nat
  evt : Bool
  count : Nat
  src : Nat
  dst : Nat
  group : List Nat
  rank : Nat
  alg : Nat
deriving DecidableEq, Repr

/-- Where the exchanges of a collective stand (R225): the ranks with which they have ended, the one that has started, and whether
this rank's contribution to it is sent. -/
structure Exchange where
  done : List Nat
  peer : Option Nat
  sent : Bool
deriving DecidableEq, Repr

/-- The work of an operation, by what completes it. -/
inductive Work where
  | load
  | atomic
  | sc
  | latency
  | sld (k : Nat)
  | queue
  | gnext
  | route
  | tlrd (sd tl : Nat)
  | word (i : Nat)
  | code (first : Option Word)
  | walk (page : Nat)
  | launch (sd : Nat) (record root : Nat)
  | store
  | cpa (tag tid dst src n : Nat)
  | strm (slot : Nat)
  | bcopy (src dst n : Nat) (dsp : Bool)
  | stream (slot line id : Nat)
  | gather (addr : Nat) (d : Option GatherDesc) (rows : List Nat)
  | mldw (base k fmt : Nat) (pair : Bool)
  | mswp (pair : Bool)
  | mstr (base row m fmt : Nat) (pair clr t granted : Bool) (tile : Option Tile)
  | mdrn (row n dst : Nat) (regs : Bool) (pairs : List Nat)
  | mrel (row n : Nat)
  | desc (addr : Nat) (d : Option TreeDesc) (hn : Nat) (dp : Bool) (w : List Walker) (nodes : Map (List Byte))
  | ascd (addr : Nat) (d : Option TreeDesc) (dx : Bool) (c : List Climber) (left : Climbing)
  | chsnd (ch : Nat)
  | chrcv (ch sd dst : Nat)
  | coll (addr : Nat) (d : Option CollDesc) (bufs : Map (List Byte)) (status : Nat) (step : Exchange)
deriving DecidableEq, Repr

/-- Whether an operation still waits for replies to its packets (R199, R205), or has nothing more to wait for. -/
inductive Leg where
  | request
  | arrived
deriving DecidableEq, Repr

/-- An operation (R22, R163): who issued it, what its completion writes, and where its packet is. `exited` says that it
holds results of a thread that has exited since, so that its context does not retire before it has completed (R361); `away` counts
its packets that have not come back; `finished` that its work is done but for the acknowledgments that it waits for; `seen` the
writes of others since its issue while its descriptor, and so where its sources lie, is not read (R192); `gone` the accumulator
rows, each a core and a row, that were freed under it (R140). -/
structure Op where
  ctx : Nat
  team : Nat
  core : Nat
  exited : Bool
  uid : Nat
  pc : Nat
  work : Work
  res : List Res
  tl : Nat
  num : Nat
  ov : Bool
  cls : BitVec 2
  late : Bool
  leg : Leg
  since : Nat
  peer : Bool
  fills : List Nat
  srcs : List (Nat × Nat)
  tainted : Bool
  faults : List PageRef
  failed : Option Nat
  acc : Option Access
  slack : Nat
  reqs : Nat
  sent : Nat
  away : Nat
  finished : Bool
  seen : List (Nat × Nat)
  gone : List (Nat × Nat)
deriving DecidableEq, Repr

/-! ### Cores, dies, the hub -/

/-- A spawn bin (R42): its key, its threads with their entry, when its oldest thread entered, when it became full. -/
structure Bin where
  team : Nat
  entry : Nat
  spawn : Bool
  tids : List Nat
  since : Nat
  fullAt : Option Nat
deriving DecidableEq, Repr

/-- A word in a core's instruction cache (R11, R333): the launch that fetched it, its address, its value. -/
structure CodeWord where
  launch : Nat
  va : Nat
  word : Word
deriving DecidableEq, Repr

/-- A TLB entry (R170): root, page address, 64 MiB or 64 KiB, the leaf. -/
structure TlbEntry where
  root : Nat
  page : Nat
  big : Bool
  leaf : Word
deriving DecidableEq, Repr

/-- A trace record (R292): its kind, slot and path, the cycle and the time (TAI, in ns) of its event, and what follows its
header word. -/
structure TraceRec where
  kind : Nat
  slot : Nat
  path : Nat
  cyc : Nat
  tai : Nat
  tail : List Byte
deriving DecidableEq, Repr

/-- A trace ring (R290, R291): its pages' records by page, the writer's page, the read page, the records dropped since the last
LOSS record with the times of the first and the last, the records that wait behind a LOSS record that is due, and the
multiple of 1,024 ticks whose SYNC record was written last (R294). -/
structure Ring where
  pages : Nat
  write : Nat
  read : Nat
  data : Map (List TraceRec)
  lost : Nat
  lostFirst : Nat
  lostLast : Nat
  lossDue : Option Nat
  waiting : List TraceRec
  synced : Nat
deriving DecidableEq, Repr

/-- An instruction that garnet follows (R288, R289): who issues it, what it is, when its path became ready and it issued, when its
first result was written, the farthest level that it reached, its flags, the slacks of its first packet and of its last reply. -/
structure Tagged where
  ctx : Nat
  path : Nat
  uid : Nat
  point : Point
  lanes : Nat
  pc : Nat
  opc : Nat
  ready : Nat
  issued : Nat
  result : Option Nat
  level : Nat
  flags : BitVec 4
  slackOut : Option Nat
  slackIn : Option Nat
deriving DecidableEq, Repr

/-- A core (R11, R18, R42, R67, R130, R139, R152, R156, R170, R288, R290), `store` with the set slots in its set store, the last used
first, `quarters` with the cycle from which each quarter is free
again (R18, R101), and its column: failed wires of each bus (R307), whether
its remap tables had to be reloaded (R308), lost layers, stripes rebuilt (R306), whether its traffic is poisoned (R309). -/
structure Core where
  absent : List Nat
  tags : Map Nat
  acc : Map (List (BitVec 32))
  rows : Map (Nat × Bool)
  store : List (Nat × Nat)
  bins : Map Bin
  tlb : List TlbEntry
  icache : List CodeWord
  quarters : Map Nat
  plane : Option Nat
  serials : Map Nat
  garnet : Nat
  tagged : List Tagged
  ring : Ring
  badWires : Map (List Nat)
  remapBad : Bool
  layersLost : List Nat
  rebuilt : Nat
  poisoned : Bool
deriving DecidableEq, Repr

/-- One quad's reservation table (R144, R145): the launch whose schedule it follows, and its position. -/
structure QuadTable where
  launch : Nat
  pos : Nat
deriving DecidableEq, Repr

/-- A crossbar packet (R199, R200, R205, R206): a request or its reply; the die and port that it comes from and those of its target,
die 4 for what lies beyond the hub; the bridge that it leaves a die through (R219); the bytes that it carries and those of its
reply; the flit that it is beyond the hub; when it entered its buffer and when it came to the buffer's head. -/
structure Packet where
  op : Nat
  reply : Bool
  fromDie : Nat
  fromPort : Nat
  toDie : Nat
  toPort : Nat
  bridge : Nat
  inp : Nat
  out : Nat
  slack : Nat
  data : Nat
  back : Nat
  flit : Option Flit
  counted : Bool
  recov : Bool
  since : Nat
  headAt : Nat
deriving DecidableEq, Repr

/-- A mire probe (R210): its origin's die and port, the buffers it has visited, each a die and a port, whether it has confirmed a
cycle. -/
structure Probe where
  die : Nat
  origin : Nat
  path : List (Nat × Nat)
  confirmed : Bool
deriving DecidableEq, Repr

/-- A die's crossbar (R15, R199, R200, R212): buffers in order of arrival, the last grants of each output, the cycle from which
each output is free again, counters. -/
structure Xbar where
  pkts : List Packet
  last : Map (List Nat)
  busy : Map Nat
  launched : Nat
  confirmed : Nat
  steps : Nat
deriving DecidableEq, Repr

/-- A request that this device has sent to a peer (R221, R222) for an operation, or for the launch unit as 0; `step` tells apart
the operation's requests for the same bytes. `n` bytes are expected back; `sent` is when its flit departed, `part` what the
hub has had of the reply, `back` that all of it has come, `got` the payload once it has reached who asked. -/
structure Ask where
  owner : Nat
  step : Nat
  tag : Nat
  kind : BitVec 8
  va : Nat
  n : Nat
  sent : Option Nat
  part : List Byte
  back : Bool
  got : Option (List Byte)
deriving DecidableEq, Repr

/-- One turn of the machine: cycles that pass first, then what acts. -/
inductive Turn where
  | issue (advance : Nat) (r : PathRef)
  | event (advance : Nat) (i : Instr)
deriving DecidableEq, Repr

/-- A die without its captures; its cycle count is `countAt` at the tick time `tickAt` of its last clock step,
`traceFrom` the multiple of 1,024 ticks at which recording was enabled (R4, R206, R210, R269, R281, R285, R288, R294, R297, R299,
R312). -/
structure DieCore where
  overdue : Nat
  probeAfter : Nat
  preemptAfter : Nat
  tlb : List TlbEntry
  mhz : Nat
  countAt : Nat
  tickAt : Nat
  held : Bool
  armed : Bool
  capturing : Bool
  interval : Nat
  intervalLen : Nat
  intervalAt : Nat
  sampling : Bool
  tracing : Option (Option Nat)
  traceFrom : Nat
  quads : Map QuadTable
  xbar : Xbar
  epoch : Nat
  off : Bool
deriving DecidableEq, Repr

/-- The stage of boot (R298) and the service (R303). -/
inductive Service where
  | booting
  | reduced
  | full
  | recovery
deriving DecidableEq, Repr

/-- What the management kernel is told (R260, R265, R276, R222, R309, R312). -/
structure Report where
  launch : Nat
  cause : Nat
  code : Nat
  tstat : Word
deriving DecidableEq, Repr

/-- The hub; `queues` holds the translation roots of the launch queues, `spdm` the answers given (R302), `dstat` the last
DSTAT that the host read, `kBits` the leaves whose K bit is locked (R174); `outbox` holds the flits that have left, each with its port, `stuck` those that wait while every port is down with the tick of
their arrival at the hub, `inbox` the requests of peers with that of theirs, `asks` what this device has asked of peers (R14, R214 to R225, R259 to R265, R298 to R303, R311). -/
structure Hub where
  stage : Nat
  service : Service
  recoveryImage : Bool
  window : Option FwImage
  windowMiB : Nat
  queues : List Nat
  nextLaunch : Nat
  outbox : List (Nat × Flit)
  stuck : List (Nat × Flit)
  inbox : List (Nat × Flit)
  asks : List Ask
  down : List Nat
  peerRoot : Nat
  reports : List Report
  ovChanged : Bool
  throttled : List Nat
  nvme : Option FwImage
  fuseVersion : Nat
  fuseMeasure : Nat
  measured : List Nat
  spdm : List (Nat × Nat)
  dstat : Word
  readings : Option Readings
  counters : List Nat
  kBits : List Nat
  ring : Ring
deriving DecidableEq, Repr

/-- The device at one moment, as a capture keeps it (R282). -/
structure Snap where
  mem : List Host.Cell
  threads : Map Thread
  ctxs : Map Ctx
  teams : Map Team
  launches : Map Launch
  cores : Map Core
  dies : Map DieCore
  pend : Map Op
  probes : Map Probe
  poison : List Nat
  hub : Hub
  now : Nat
  tick : Nat
  nextId : Nat
  fresh : Nat
deriving DecidableEq, Repr

/-- One interval of a die's capture (R282): its snapshot and the turns since. The snapshot is `taken` as the first turn after
the interval's start begins. -/
structure Capture where
  interval : Nat
  taken : Bool
  snap : Snap
  turns : List Turn
deriving DecidableEq, Repr

/-- A die with its captures, the interval that runs first (R282). While a debugger looks into the past, `live` is the device
as it was held and `target` the point that a re-execution runs to; `changed` says that a register was changed (R285, R286). -/
structure Die extends DieCore where
  capture : List Capture
  live : Option Snap
  target : Option Point
  changed : Bool
deriving DecidableEq, Repr

/-- The instruction at issue: which path, where, how long, and what (model's own, log 3). -/
structure Cur where
  ref : PathRef
  addr : Nat
  len : Nat
deriving DecidableEq, Repr

/-- The state of the device. -/
structure State where
  mem : List Host.Cell
  threads : Map Thread
  ctxs : Map Ctx
  teams : Map Team
  launches : Map Launch
  cores : Map Core
  dies : Map Die
  pend : Map Op
  probes : Map Probe
  poison : List Nat
  hub : Hub
  now : Nat
  tick : Nat
  cur : Option Cur
  agenda : List Turn
  nextId : Nat
  fresh : Nat
deriving DecidableEq, Repr

/-! ### How a step can stop -/

/-- Why the machine stops. -/
inductive Fault where
  /-- Raised by an instruction word's meaning when no running path is at issue (`cur` names none): a state that
  no step reaches. Safe: the machine stops where the manual gives no path to act for. -/
  | noIssuingPath
deriving DecidableEq, Repr

/-- Why the model gives no meaning. -/
inductive Refusal where
  /-- Raised by an arm of `exec` for an instruction that has no meaning yet. Safe. -/
  | notModelled (mnemonic : String)
deriving DecidableEq, Repr

/-! ### Reset -/

/-- An empty trace ring of one page (R290; log 6). -/
def Ring.reset : Ring := ⟨1, 0, 0, [], 0, 0, 0, none, [], 0⟩

/-- A core that no team has used (log 5). -/
def Core.reset : Core :=
  ⟨[], [], [], [], [], [], [], [], [], none, [], 1, [], Ring.reset, [], false, [], 0, false⟩

def Xbar.reset : Xbar := ⟨[], [], [], 0, 0, 0⟩

/-- A die after reset (R210, R269, R281, R299; logs 2, 5, 6). -/
def Die.reset : Die :=
  { overdue := 0, probeAfter := 8192, preemptAfter := 10000, tlb := [], mhz := 800, countAt := 0, tickAt := 0, held := false, armed := false,
    capturing := false, interval := 0, intervalLen := 2 ^ 26, intervalAt := 0, sampling := false, tracing := none, traceFrom := 0,
    quads := [], xbar := Xbar.reset, epoch := 0, off := false, capture := [], live := none, target := none,
    changed := false }

/-- The hub after reset (R261, R298, R300; logs 2, 8). -/
def Hub.reset : Hub :=
  { stage := 0, service := .booting, recoveryImage := false, window := none, windowMiB := 256,
    queues := [], nextLaunch := 1, outbox := [], stuck := [], inbox := [], asks := [], down := [], peerRoot := 0, reports := [],
    ovChanged := false, throttled := [], nvme := none, fuseVersion := 0, fuseMeasure := 0, measured := [],
    spdm := [], dstat := 0, readings := none, counters := [], kBits := [], ring := Ring.reset }

/-- The device right after reset (R29, R278, R297, R298). Cores are listed when a team first uses them; an
unlisted core is `Core.reset`, an unlisted die `Die.reset`. -/
def State.reset : State :=
  { mem := [], threads := [], ctxs := [], teams := [], launches := [], cores := [], dies := [], pend := [],
    probes := [], poison := [], hub := Hub.reset, now := 0, tick := 0, cur := none, agenda := [],
    nextId := 1, fresh := 0 }

end Sys2Proof.Machine
end

