-- ==== Sys2Proof/Machine/Memory.lean ====
section
/-!
DEFINITION. Memory as sorted cells, and the places that the address spaces reach: die memory, host memory, the
scratchpad of each core, the column window of each core. All wider accesses are built here, little-endian (R2).
-/

namespace Sys2Proof.Machine

/-- What an unlisted byte reads as (log 1). -/
def memDefault : Byte := 0

/-- Cells in canonical form: rising addresses, none equal to what an unlisted byte reads as. -/
def Memory.wf : List Host.Cell → Bool
  | [] => true
  | [(_, b)] => b != memDefault
  | (a, b) :: (a', b') :: r => b != memDefault && decide (a < a') && Memory.wf ((a', b') :: r)

/-- One byte. -/
def memRead : List Host.Cell → Nat → Byte
  | [], _ => memDefault
  | (a, b) :: r, x => if x = a then b else memRead r x

/-- Write one byte, keeping the canonical form. -/
def memWrite : List Host.Cell → Nat → Byte → List Host.Cell
  | [], x, v => if v = memDefault then [] else [(x, v)]
  | (a, b) :: r, x, v =>
    if x < a then (if v = memDefault then (a, b) :: r else (x, v) :: (a, b) :: r)
    else if x = a then (if v = memDefault then r else (x, v) :: r)
    else (a, b) :: memWrite r x v

/-- The n bytes from an address. -/
def memReads (m : List Host.Cell) (a : Nat) : Nat → List Byte
  | 0 => []
  | n + 1 => memRead m a :: memReads m (a + 1) n

/-- Write bytes from an address. -/
def memWrites (m : List Host.Cell) (a : Nat) : List Byte → List Host.Cell
  | [] => m
  | b :: bs => memWrites (memWrite m a b) (a + 1) bs

/-- The number that bytes hold, little-endian (R2). -/
def leNat : List Byte → Nat
  | [] => 0
  | b :: bs => b.toNat + 256 * leNat bs

/-- The n bytes of a number, little-endian (R2). -/
def natLE (x : Nat) : Nat → List Byte
  | 0 => []
  | n + 1 => BitVec.ofNat 8 x :: natLE (x / 256) n

/-- A number of n bytes in memory. -/
def memNat (m : List Host.Cell) (a n : Nat) : Nat := leNat (memReads m a n)

/-- Host memory (R173, PEER 0x3FF). -/
def hostKey (a : Nat) : Nat := 2 ^ 48 + a % 2 ^ 48
/-- Die memory (R13, R173). The manual gives no outcome for a physical address past the die's memory and global
share, nor for PA[47:42] other than 0: the model makes each a byte of memory of its own (DESIGN CHOICE, log 64). -/
def dieKey (pa : Nat) : Nat := pa % 2 ^ 48
/-- A core's scratchpad (R149). -/
def spadKey (core off : Nat) : Nat := 2 ^ 49 + core * 2 ^ 19 + off % 2 ^ 19
/-- A core's column window (R149). -/
def colKey (core off : Nat) : Nat := 2 ^ 50 + core * 2 ^ 29 + off % 2 ^ 29

/-- The bytes of a list, at least n of them. -/
def padTo (n : Nat) (bs : List Byte) : List Byte := bs ++ List.replicate (n - bs.length) 0

end Sys2Proof.Machine
end

