-- ==== Sys2Proof/Machine/Ring.lean ====
section
/-!
DEFINITION. Trace rings (R290 to R295): what a record is in bytes, appending in order, page turns, SYNC and LOSS records.
-/

namespace Sys2Proof.Machine

/-- The kinds of record that set the base of the records after them (R292). -/
def TraceRec.base (r : TraceRec) : Bool := decide (14 ≤ r.kind)

/-- The bytes of a record. -/
def TraceRec.size (r : TraceRec) : Nat := 4 + r.tail.length

/-- Bytes used on a page. -/
def pageUsed (l : List TraceRec) : Nat := (l.map TraceRec.size).sum

/-- A record in bytes after one whose event was at cycle `prev`: SYNC, LOSS and STEP records carry DELTA 0 (R292, R295). -/
def TraceRec.bytes (r : TraceRec) (prev : Nat) : List Byte :=
  let delta := if r.base || r.kind = 10 then 0 else r.cyc - prev
  natLE (r.kind * 2 ^ 28 + r.slot * 2 ^ 21 + r.path * 2 ^ 20 + delta % 2 ^ 20) 4 ++ r.tail

/-- The written part of a page. -/
def pageBytes (prev : Nat) : List TraceRec → List Byte
  | [] => []
  | r :: rest => r.bytes prev ++ pageBytes r.cyc rest

/-- The SYNC record of a tick, on which the die's cycle count is `cyc` (R292, R294). -/
def syncRecord (ticks cyc : Nat) : TraceRec :=
  ⟨15, 0, 0, cyc, 10 * ticks, natLE 0 4 ++ natLE (10 * ticks) 8 ++ natLE cyc 8⟩

/-- The LOSS record of a tick (R291, R292). -/
def lossRecord (r : Ring) (ticks cyc : Nat) : TraceRec :=
  ⟨14, 0, 0, cyc, 10 * ticks,
    natLE (min r.lost 0xFFFFFFFF) 4 ++ natLE r.lostFirst 8 ++ natLE r.lostLast 8 ++ natLE (10 * ticks) 8 ++ natLE cyc 8⟩

/-- The write page. -/
def Ring.page (r : Ring) : List TraceRec := r.data.getD r.write []
/-- The next page in ring order. -/
def Ring.next (r : Ring) : Nat := (r.write + 1) % r.pages
def Ring.setPage (r : Ring) (l : List TraceRec) : Ring := { r with data := r.data.set r.write l }
/-- The cycle of the last record's event. -/
def Ring.last (r : Ring) : Nat := ((r.page.getLast?).map (·.cyc)).getD 0

/-- The writer takes the next page: an unread one is dropped, counted and read past, and a LOSS record is due at the next
tick; any other begins with a SYNC record (R291, R294). -/
def Ring.turn (r : Ring) (ticks cyc : Nat) : Ring :=
  match r.data.get? r.next with
  | some old =>
    { r with write := r.next, read := (r.next + 1) % r.pages, data := r.data.set r.next [],
             lost := r.lost + old.length,
             lostFirst := if r.lost = 0 then ((old.head?).map (·.tai)).getD r.lostFirst else r.lostFirst,
             lostLast := ((old.getLast?).map (·.tai)).getD r.lostLast,
             lossDue := some ticks }
  | none => { r with write := r.next, data := r.data.set r.next [syncRecord ticks cyc] }

/-- Put a record among those of the same cycle, by slot and then by path (R293). -/
def putInOrder (x : TraceRec) : List TraceRec → List TraceRec
  | [] => [x]
  | y :: r =>
    if x.cyc = y.cyc && !y.base && (x.slot < y.slot || (x.slot = y.slot && x.path < y.path)) then x :: y :: r
    else y :: putInOrder x r

/-- Append a record where no LOSS record is due, after a SYNC record where its DELTA would be too large (R291 to R293). -/
def Ring.append (r : Ring) (ticks cyc : Nat) (x : TraceRec) : Ring :=
  let r := if r.page = [] then r.setPage [syncRecord ticks cyc] else r
  let far := decide (x.cyc - r.last > 0xFFFFF)
  if pageUsed r.page + x.size + (if far then 24 else 0) > 4096 then
    let r := r.turn ticks cyc
    if r.lossDue.isSome then { r with waiting := r.waiting ++ [x] } else r.setPage (r.page ++ [x])
  else r.setPage (putInOrder x (if far then r.page ++ [syncRecord ticks cyc] else r.page))

/-- Write a record; it waits behind a LOSS record that is due (R294). -/
def Ring.put (r : Ring) (ticks cyc : Nat) (x : TraceRec) : Ring :=
  if r.lossDue.isSome then { r with waiting := r.waiting ++ [x] } else r.append ticks cyc x

/-- Append a SYNC record (R294). -/
def Ring.sync (r : Ring) (ticks cyc : Nat) : Ring :=
  if r.lossDue.isSome then r
  else if pageUsed r.page + 24 > 4096 then r.turn ticks cyc
  else r.setPage (r.page ++ [syncRecord ticks cyc])

/-- The LOSS record comes first on the page that the writer took, the records that waited follow it, and the count starts
again (R291, R294). -/
def Ring.tellLoss (r : Ring) (ticks cyc : Nat) : Ring :=
  match r.lossDue with
  | none => r
  | some _ =>
    let w := r.waiting
    let r' := { r.setPage [lossRecord r ticks cyc] with lost := 0, lossDue := none, waiting := [] }
    w.foldl (fun r x => r.put ticks cyc x) r'

/-- Bring a ring up to a tick: the LOSS record that is due since an earlier tick, then the SYNC record of each multiple of 1,024
ticks that has passed since the last one, or since recording was enabled (R294). -/
def Ring.upTo (r : Ring) (from' : Nat) (cycAt : Nat → Nat) (ticks : Nat) : Ring :=
  let r := match r.lossDue with
    | some t => if t < ticks then r.tellLoss (t + 1) (cycAt (t + 1)) else r
    | none => r
  let m := if r.data = [] && from' = 0 then ticks / 1024 else max r.synced from'
  let r := (List.range (ticks / 1024 - m)).foldl (fun r i => r.sync (1024 * (m + 1 + i)) (cycAt (1024 * (m + 1 + i)))) r
  { r with synced := max m (ticks / 1024) }

/-- Whether the write page holds no further record and the next page is unread. -/
def Ring.mustDrop (r : Ring) : Bool := decide (pageUsed r.page + 8 > 4096) && (r.data.get? r.next).isSome

/-- The pages from the read page up to one, in ring order. -/
def Ring.passed (r : Ring) (page : Nat) : List Nat :=
  (List.range r.pages).filterMap fun i =>
    if i < (page + r.pages - r.read) % r.pages then some ((r.read + i) % r.pages) else none

end Sys2Proof.Machine
end

