-- ==== Sys2Proof/Machine/Ops.lean ====
section
/-!
DEFINITION. The named operations over the state: registers, contexts and paths, issue and retirement, taking a
trap and returning from it (R273 to R277), threads that become done (R35), joins and retirement of contexts.
-/

namespace Sys2Proof.Machine

/-! ### Small helpers -/

/-- The low bits of a free value (R6) at the counter, and the counter's advance. -/
def State.free (s : State) : Word × State := (Config.freeWord s.fresh, { s with fresh := s.fresh + 1 })

/-- Fresh names. -/
def State.name (s : State) : Nat × State := (s.nextId, { s with nextId := s.nextId + 1 })

/-- Ticks of the reference clock (R297); `tick` counts in 1/720720 of a tick so that every clock step of R312
divides it. -/
def State.ticks (s : State) : Nat := s.tick / 720720
/-- A number of ticks in the unit of `tick`. -/
def ticksLong (n : Nat) : Nat := 720720 * n

def State.core (s : State) (c : Nat) : Core := s.cores.getD c Core.reset
def State.setCore (s : State) (c : Nat) (k : Core) : State := { s with cores := s.cores.set c k }
def State.modCore (s : State) (c : Nat) (f : Core → Core) : State := s.setCore c (f (s.core c))
def State.die (s : State) (d : Nat) : Die := s.dies.getD d Die.reset
def State.modDie (s : State) (d : Nat) (f : Die → Die) : State := { s with dies := s.dies.set d (f (s.die d)) }

/-- How long a cycle of a clock is, in the unit of `tick` (R4). -/
def cycleLong (mhz : Nat) : Nat := 72072000 / max 1 mhz
/-- A die's core cycle count (R4, R297): from its last clock step on, the cycles of its present clock. -/
def State.cyc (s : State) (d : Nat) : Nat :=
  (s.die d).countAt + (s.tick - (s.die d).tickAt) / cycleLong (s.die d).mhz
/-- A die's cycle count on a tick since its last clock step (R294). -/
def State.cycTick (s : State) (d ticks : Nat) : Nat :=
  (s.die d).countAt + (ticksLong ticks - (s.die d).tickAt) / cycleLong (s.die d).mhz
/-- The first cycle of a die at which `tick` has reached a value. -/
def State.cycWhen (s : State) (d t : Nat) : Nat :=
  (s.die d).countAt + (t - (s.die d).tickAt + cycleLong (s.die d).mhz - 1) / cycleLong (s.die d).mhz
/-- The time at which a die's cycle count reaches a value, in the unit of `tick`. -/
def State.tickWhen (s : State) (d c : Nat) : Nat := (s.die d).tickAt + (c - (s.die d).countAt) * cycleLong (s.die d).mhz
/-- Cycles pass: `now` counts those of die 0, and the reference ticks go on at its clock (R297, R312; log 14). -/
def State.advance (s : State) (n : Nat) : State :=
  { s with now := s.now + n, tick := s.tick + n * cycleLong (s.die 0).mhz }

def State.modCtx (s : State) (c : Nat) (f : Ctx → Ctx) : State := { s with ctxs := s.ctxs.modify c f }
def State.modTeam (s : State) (t : Nat) (f : Team → Team) : State := { s with teams := s.teams.modify t f }
def State.modLaunch (s : State) (l : Nat) (f : Launch → Launch) : State :=
  { s with launches := s.launches.modify l f }
def State.modHub (s : State) (f : Hub → Hub) : State := { s with hub := f s.hub }

/-- The die of a core (R10). -/
def dieOf (core : Nat) : Nat := core / 384
/-- The cycle count of a core's die. -/
def State.cycOf (s : State) (core : Nat) : Nat := s.cyc (dieOf core)
/-- The core of a context. -/
def State.ctxCore (s : State) (ctx : Nat) : Nat := ((s.ctxs.get? ctx).map (·.core)).getD 0
/-- The cycle count of a context's die. -/
def State.cycAt (s : State) (ctx : Nat) : Nat := s.cycOf (s.ctxCore ctx)

/-- The key of a thread. -/
def tkey (team tid : Nat) : Nat := team * 2048 + tid

def State.thread (s : State) (team tid : Nat) : Option Thread := s.threads.get? (tkey team tid)
def State.modThread (s : State) (team tid : Nat) (f : Thread → Thread) : State :=
  { s with threads := s.threads.modify (tkey team tid) f }

/-- A thread at its start (R29). -/
def Thread.start (core : Nat) : Thread := ⟨core, false, 0, [], 0, [], [], 0, none, []⟩

/-- The base of a thread's window after a slide by n: a window never passes the end of its file (R351). -/
def Thread.slid (th : Thread) (n : Nat) : Nat := if th.base + n + 224 ≤ 1024 then th.base + n else th.base

/-- Whether a team's contexts may act: it is not stopped or saved, its launch is not killed, its die runs (R270, R276, R285). -/
def State.teamRuns (s : State) (key : Nat) : Bool :=
  match s.teams.get? key with
  | none => false
  | some t =>
    t.stopAt.isNone && !t.saved && ((s.launches.get? t.launch).any (·.killed.isNone))
      && t.cores.all fun c => !(s.die (dieOf c)).held && !(s.die (dieOf c)).off

/-! ### Registers -/

/-- A logical vector register: zero and full until written (R29, R351). -/
def Thread.lreg (t : Thread) (i : Nat) : VReg := t.v.getD i ⟨0, true⟩
/-- A window register (R351). -/
def Thread.reg (t : Thread) (i : Nat) : VReg := t.lreg (t.base + i)
def Thread.setL (t : Thread) (i : Nat) (x : Lane) : Thread := { t with v := t.v.set i ⟨x, true⟩ }
def Thread.set (t : Thread) (i : Nat) (x : Lane) : Thread := t.setL (t.base + i) x
/-- Mark a logical register empty (R51). -/
def Thread.empty (t : Thread) (i : Nat) : Thread := { t with v := t.v.set i ⟨(t.lreg i).val, false⟩ }
def Thread.path (t : Thread) (n : Nat) : Reg := t.h.getD n ⟨0, true⟩
def Thread.flag (t : Thread) (f : BitVec 32) : Thread := { t with tsw := t.tsw ||| f }

def Act.u (a : Act) (n : Nat) : Reg := a.s.getD n ⟨0, true⟩
def Act.setU (a : Act) (n : Nat) (x : Word) : Act := { a with s := a.s.set n ⟨x, true⟩ }
def Act.emptyU (a : Act) (n : Nat) : Act := { a with s := a.s.set n ⟨(a.u n).val, false⟩ }
def Act.kr (a : Act) (n : Nat) : KReg := a.k.getD n ⟨.empty, true⟩
def Act.setK (a : Act) (n : Nat) (f : SetForm) : Act := { a with k := a.k.set n ⟨f, true⟩ }
def Act.emptyK (a : Act) (n : Nat) : Act := { a with k := a.k.set n ⟨(a.kr n).form, false⟩ }

/-- The uniform and set registers of a path that are empty. -/
def Act.emptyRefs (a : Act) : List RegRef :=
  let us : List RegRef := (a.s.filter fun p => !p.2.full).map fun p => RegRef.u p.1
  let ks : List RegRef := (a.k.filter fun p => !p.2.full).map fun p => RegRef.k p.1
  us ++ ks

/-! ### Contexts and paths -/

def Ctx.stack (c : Ctx) (slot : Nat) : List Act := if slot = 0 then c.p0 else c.p1
def Ctx.setStack (c : Ctx) (slot : Nat) (l : List Act) : Ctx :=
  if slot = 0 then { c with p0 := l } else { c with p1 := l }

/-- The running activation of a path. -/
def State.act? (s : State) (r : PathRef) : Option Act := (s.ctxs.get? r.ctx).bind fun c => (c.stack r.slot).head?

/-- Change the head of a list. -/
def modHead {α : Type} (f : α → α) : List α → List α
  | [] => []
  | a :: r => f a :: r

def Ctx.modTop (c : Ctx) (slot : Nat) (f : Act → Act) : Ctx := c.setStack slot (modHead f (c.stack slot))
def State.modAct (s : State) (r : PathRef) (f : Act → Act) : State := s.modCtx r.ctx (·.modTop r.slot f)

/-- Change the activation of a context that has a name, wherever it stands. -/
def Ctx.modUid (c : Ctx) (uid : Nat) (f : Act → Act) : Ctx :=
  { c with p0 := c.p0.map (fun a => if a.uid = uid then f a else a),
           p1 := c.p1.map (fun a => if a.uid = uid then f a else a) }

/-- The activation of a context that has a name. -/
def Ctx.byUid (c : Ctx) (uid : Nat) : Option Act := (c.p0 ++ c.p1).find? (·.uid = uid)

/-- What an instruction at issue acts on. -/
structure Env where
  ref : PathRef
  addr : Nat
  len : Nat
  ctx : Ctx
  act : Act
  team : Team
  launch : Launch
  rcd : Record
deriving DecidableEq, Repr

/-- The path at issue with its team and launch. -/
def State.envAt (s : State) (c : Cur) : Option Env :=
  match s.ctxs.get? c.ref.ctx with
  | none => none
  | some x =>
    match (x.stack c.ref.slot).head?, s.teams.get? x.team with
    | some a, some t =>
      match s.launches.get? t.launch with
      | some l =>
        match l.record with
        | some r => some ⟨c.ref, c.addr, c.len, x, a, t, l, r⟩
        | none => none
      | none => none
    | _, _ => none

def State.env? (s : State) : Option Env := s.cur.bind s.envAt

/-- The continuation (R87). -/
def Env.next (e : Env) : Nat := e.addr + 8 * e.len
/-- The path's held threads in lane order (R32). -/
def Env.held (e : Env) : List Nat := e.act.lanes
def Env.tid (e : Env) := e.ctx.team
def Env.thread (e : Env) (s : State) (t : Nat) : Thread := (s.thread e.ctx.team t).getD (Thread.start e.ctx.core)
def Env.modThread (e : Env) (s : State) (t : Nat) (f : Thread → Thread) : State := s.modThread e.ctx.team t f
def Env.modCtx (e : Env) (s : State) (f : Ctx → Ctx) : State := s.modCtx e.ref.ctx f
def Env.modAct (e : Env) (s : State) (f : Act → Act) : State := s.modAct e.ref f
def Env.modTeam (e : Env) (s : State) (f : Team → Team) : State := s.modTeam e.ctx.team f

/-- Write a window register of a thread. -/
def Env.setV (e : Env) (s : State) (t i : Nat) (x : Lane) : State := e.modThread s t (·.set i x)
/-- Write a register pair (R109). -/
def Env.setV64 (e : Env) (s : State) (t i : Nat) (x : Word) : State :=
  e.modThread s t fun th => (th.set i (x.setWidth 32)).set (i + 1) ((x >>> 32).setWidth 32)
def Env.setU (e : Env) (s : State) (n : Nat) (x : Word) : State := e.modAct s (·.setU n x)
def Env.flag (e : Env) (s : State) (t : Nat) (f : BitVec 32) : State :=
  if f = 0 then s else e.modThread s t (·.flag f)

/-- Run a step for each thread in turn. -/
def forEach {α : Type} (ts : List α) (f : State → α → State) (s : State) : State := ts.foldl f s

/-! ### Insertion sort, used where a rule says ascending -/

def insertNat (x : Nat) : List Nat → List Nat
  | [] => [x]
  | y :: r => if x ≤ y then x :: y :: r else y :: insertNat x r

def sortNat (l : List Nat) : List Nat := l.foldr insertNat []

/-! ### Sets: bitmaps and forms (R62 to R66) -/

/-- The tids of a bitmap, ascending, below n. -/
def tidList (b : Tids) (n : Nat) : List Nat := (List.range n).filter fun i => b.getLsbD i

/-- The bitmap of tids. -/
def tidSet (l : List Nat) : Tids := l.foldl (fun b t => b ||| (1#2048 <<< t)) 0

/-- The number of members. -/
def tidCount (b : Tids) : Nat := (List.range 2048).countP fun i => b.getLsbD i

/-- The tid span of a team (R62). -/
def spanMask (n : Nat) : Tids := BitVec.ofNat 2048 (2 ^ n - 1)

/-- The key of a set slot: side 0 is the leader's core, 1 the follower's (R66). -/
def slotKey (side slot : Nat) : Nat := 2 * slot + side

/-- Which core of its team a core is. -/
def Team.side (t : Team) (core : Nat) : Nat := if t.cores.head? = some core then 0 else 1

/-- The members of a form, seen from one core of a team. -/
def SetForm.members (f : SetForm) (t : Team) (side : Nat) : Tids :=
  match f with
  | .empty => 0
  | .inline b m => m.setWidth 2048 <<< (64 * b)
  | .handle i _ _ => ((t.slots.getD (slotKey side i) ⟨0, none, false, false⟩).bits).getD 0
  | .raw _ => 0

/-- The inline form of a bitmap, where one block holds it all (R63). -/
def inlineForm (b : Tids) : Option SetForm :=
  if b = 0 then some .empty
  else
    let j := ((List.range 32).find? fun i => b &&& (BitVec.ofNat 2048 (2 ^ 64 - 1) <<< (64 * i)) ≠ 0).getD 0
    let m := (b >>> (64 * j)).setWidth 64
    if m.setWidth 2048 <<< (64 * j) = b then some (.inline j m) else none

/-- The set registers of a context's activations. -/
def Ctx.handles (c : Ctx) : List Nat :=
  (c.p0 ++ c.p1).flatMap fun a => a.k.filterMap fun p =>
    match p.2.form with
    | .handle i _ _ => some i
    | _ => none

/-- The set slots of a team that some register names (R66): those of its contexts on a core, of set results on their
way, and of the applications that are being formed. -/
def State.slotsUsed (s : State) (team side : Nat) : List Nat :=
  match s.teams.get? team with
  | none => []
  | some t =>
    let here (c : Ctx) : Bool := c.team = team && t.side c.core = side
    (s.ctxs.vals.filter here).flatMap Ctx.handles
      ++ (s.pend.vals.filter fun o => (s.ctxs.get? o.ctx).any here).flatMap (fun o => o.res.filterMap fun r =>
            match r with
            | .k _ (.handle i _ _) => some i
            | _ => none)
      ++ t.apps.vals.flatMap fun a => (if t.side a.lead = side then a.k else a.kOther).filterMap fun p =>
            match p.2.form with
            | .handle i _ _ => some i
            | _ => none

/-- A form for a bitmap on one core of a team: canonical (R63); a handle takes the lowest free slot (R66, log 10).
None when every slot is referenced (R68). -/
def State.canon (s : State) (team side : Nat) (b : Tids) : Option (SetForm × State) :=
  match inlineForm b with
  | some f => some (f, s)
  | none =>
    let used := s.slotsUsed team side
    match (List.range 256).find? fun i => !used.contains i with
    | none => none
    | some i =>
      match s.teams.get? team with
      | none => none
      | some t =>
        let g := ((t.slots.getD (slotKey side i) ⟨0, none, false, false⟩).gen + 1) % 2 ^ 16
        some (.handle i g (tidCount b),
          s.modTeam team fun t => { t with slots := t.slots.set (slotKey side i) ⟨g, some b, true, false⟩ })

/-- Drop the bitmaps of slots that no register names any more (R66). -/
def State.freeSlots (s : State) (team : Nat) : State :=
  match s.teams.get? team with
  | none => s
  | some _ =>
    let u0 := s.slotsUsed team 0
    let u1 := s.slotsUsed team 1
    s.modTeam team fun t => { t with
      slots := t.slots.map fun p =>
        if (if p.1 % 2 = 0 then u0 else u1).contains (p.1 / 2) then p
        else (p.1, { p.2 with bits := none, dirty := false, poisoned := false }) }

/-- The members of a set register of the path at issue. -/
def Env.set (e : Env) (s : State) (k : BitVec 4) : Tids :=
  match s.teams.get? e.ctx.team with
  | some t => (e.act.kr k.toNat).form.members t (t.side e.ctx.core)
  | none => 0

/-! ### Executing threads -/

/-- The threads for which a per-thread instruction executes: held, restricted by the guard (R32, R37), or by
RFT to the others (R277). -/
def Env.exec (e : Env) (s : State) (g : Guard) : List Nat :=
  let l := match e.act.only with
    | some o => e.held.filter o.contains
    | none => e.held
  match g with
  | none => l
  | some k => let b := e.set s k; l.filter fun t => b.getLsbD t

/-! ### Records (R292, R293) -/

/-- A ring of a die brought up to the present tick (R294). -/
def State.ringUp (s : State) (d : Nat) (r : Ring) : Ring := r.upTo (s.die d).traceFrom (s.cycTick d) s.ticks

/-- Write a record of an event of this cycle to a ring of a die (R291 to R294). -/
def State.ringPut (s : State) (d : Nat) (r : Ring) (kind slot path : Nat) (tail : List Byte) : Ring :=
  (s.ringUp d r).put s.ticks (s.cycTick d s.ticks) ⟨kind, slot, path, s.cyc d, 10 * s.tick / 720720, tail⟩

/-- Whether set-trace recording is on for a launch on a core's die (R293). -/
def State.traced (s : State) (core launch : Nat) : Bool :=
  match (s.die (dieOf core)).tracing with
  | none => false
  | some none => true
  | some (some l) => l = launch

/-- Write a record to a core's ring (R293). -/
def State.record (s : State) (core launch kind slot path : Nat) (tail : List Byte) : State :=
  if s.traced core launch then
    s.modCore core fun c => { c with ring := s.ringPut (dieOf core) c.ring kind slot path tail }
  else s

/-- IADDR of R292. -/
def iaddr (a : Nat) : List Byte := natLE (a / 8) 4

/-- MASK of R292: lane positions of the threads. -/
def laneMask (lanes ts : List Nat) : List Byte :=
  natLE ((lanes.zipIdx.filter fun p => ts.contains p.1).foldl (fun n p => n + 2 ^ p.2) 0) 8

def Env.record (e : Env) (s : State) (kind : Nat) (tail : List Byte) : State :=
  s.record e.ctx.core e.team.launch kind e.ctx.slot e.ref.slot (iaddr e.addr ++ tail)

/-- The MAP record of a context that is formed (R292, R293). -/
def State.recordMap (s : State) (c : Ctx) (launch origin : Nat) (lanes : List Nat) : State :=
  let n := 4 + 2 * lanes.length
  let pad := (8 - (n + 4) % 8) % 8
  s.record c.core launch 5 c.slot 0
    (natLE lanes.length 2 ++ natLE c.serial 1 ++ natLE origin 1 ++ lanes.flatMap (natLE · 2) ++ natLE 0 pad)

/-! ### Issue and retirement -/

/-- Park the instruction at issue: it stays the path's next instruction. -/
def Env.park (e : Env) (s : State) (st : Status) : State := e.modAct s fun a => { a with status := st }

/-- The path goes on at an address; it becomes ready now (R268). -/
def Env.goto (e : Env) (s : State) (pc : Nat) : State :=
  e.modAct s fun a => { a with pc := pc, status := .ready, only := none, since := s.cycOf e.ctx.core }

/-- Retire the instruction and go on at an address (R280). -/
def Env.retireTo (e : Env) (s : State) (pc : Nat) : State :=
  (e.goto s pc).modCtx e.ref.ctx fun c => { c with count := (c.count + 1) % 2 ^ 32 }

/-- Retire the instruction and go on at its continuation. -/
def Env.retire (e : Env) (s : State) : State := e.retireTo s e.next

/-! ### Traps (R273 to R276) -/

/-- The initial action of a trap (R273, R274): 0 resume, 1 retry, 2 skip, 3 exit. -/
def initialAct (code : Nat) : Nat :=
  if code = 0x02 ∨ code = 0x06 then 1
  else if code = 0x07 then 2
  else if code = 0x0A ∨ code = 0x0D ∨ code = 0x0E then 0
  else 3

/-- TSTAT (R274). -/
def packTstat (pc act : Nat) (uni nest : Bool) (code : Nat) : Word :=
  BitVec.ofNat 53 (pc / 8) ++ BitVec.ofNat 2 act ++ BitVec.ofBool uni ++ BitVec.ofBool nest ++ 0#2 ++ BitVec.ofNat 5 code

/-- NEST of TSTAT: a handler runs in the context. -/
def Ctx.nest (c : Ctx) : Bool := c.tstat.getLsbD 7
/-- ACT of TSTAT. -/
def Ctx.actField (c : Ctx) : Nat := (c.tstat.extractLsb' 9 2).toNat

/-! ### The window pool (R351, R410) -/

/-- Chunks of the window pool that a thread uses at a base and a call depth, at most (R351; log 25). -/
def chunkNeed (base depth : Nat) : Nat := (base + 63) / 64 + (depth + 15) / 16

/-- The threads of a team on a core. -/
def State.threadsOn (s : State) (team core : Nat) : List Thread :=
  (s.threads.filter fun p => p.1 / 2048 = team && p.2.core = core && !p.2.done).map Prod.snd

/-- The chunks of a team's window pool on a core: 16 for each tid of its span there (R410). -/
def Team.poolChunks (t : Team) (core : Nat) : Nat :=
  (if t.cores.length = 2 then (if t.side core = 0 then 1024 else t.span - 1024) else t.span) * 16

/-- Whether a pool has room for a slide by n of some threads that each push `rec` call records. Where its chunks may run out,
the manual does not say how they fill: a free choice (log 25). -/
def State.poolFree (s : State) (team core : Nat) (t : Team) (ts : List Nat) (n rec : Nat) : Bool × State :=
  let used := ((s.threadsOn team core).map fun th => chunkNeed th.base th.calls.length).sum
  let more := (ts.map fun i =>
    let th := (s.thread team i).getD (Thread.start core)
    chunkNeed (th.base + n) (th.calls.length + rec) - chunkNeed th.base th.calls.length).sum
  if used + more ≤ t.poolChunks core then (true, s)
  else let (_, s') := s.free; (Config.freeBool s.fresh, s')

/-- A launch is killed (R276): its contexts stop issuing, the management kernel is told. -/
def State.kill (s : State) (launch status code : Nat) (tstat : Word) : State :=
  match s.launches.get? launch with
  | none => s
  | some l =>
    if l.killed.isSome then s
    else
      let teams := (s.teams.filter fun p => p.2.launch = launch).map Prod.fst
      let stop (l : List Act) := l.map fun a => { a with status := .stopped }
      { s with
        launches := s.launches.set launch { l with killed := some status, status := status },
        ctxs := s.ctxs.map fun p =>
          if teams.contains p.2.team then (p.1, { p.2 with p0 := stop p.2.p0, p1 := stop p.2.p1 }) else p,
        hub := { s.hub with reports := s.hub.reports ++ [⟨launch, status, code, tstat⟩] } }

/-- Start a trap handler over the running activation of a path (R275). -/
def State.startHandler (s : State) (r : PathRef) (c : Ctx) (a : Act) (launch entry : Nat) (t : TrapInfo) : State :=
  let lanes := a.lanes.filter t.tids.contains
  let (uid, s) := s.name
  let h : Act := { uid := uid, pc := entry, lanes := lanes, s := a.s, k := a.k, kind := .handler t,
                   status := .ready, inTrap := true, only := none, since := s.cycOf c.core, ibuf := none,
                   last := none, foot := none, footAt := [] }
  let s := s.modCtx r.ctx fun c =>
    { c.setStack r.slot (h :: modHead (fun a => { a with status := .under }) (c.stack r.slot)) with
        tstat := packTstat t.pc (initialAct t.code) t.uni true t.code }
  let s := forEach lanes (fun s tid => s.modThread c.team tid fun th =>
    { th with base := th.slid 32, floor := th.calls.length, resv := none }) s
  s.record c.core launch 7 c.slot r.slot
    (iaddr t.pc ++ natLE t.code 1 ++ natLE 0 7 ++ laneMask a.lanes lanes)

/-- Take a trap (R273 to R276): the trapping path suspends at its instruction and a handler starts at TRAPENT
over the trap's threads; with no handler the launch is killed with STATUS 5; inside a handler, or where the slide
of 32 would break R351, it is a double fault, STATUS 4; while the context's other path runs a handler it waits. -/
def State.trap (s : State) (r : PathRef) (t : TrapInfo) : State :=
  match s.ctxs.get? r.ctx with
  | none => s
  | some c =>
    match (c.stack r.slot).head?, s.teams.get? c.team with
    | some a, some tm =>
      match (s.launches.get? tm.launch).bind (·.record) with
      | none => s
      | some rec =>
        let word := packTstat t.pc (initialAct t.code) t.uni true t.code
        if rec.trapent = 0 then s.kill tm.launch 5 t.code word
        else if a.inTrap then s.kill tm.launch 4 t.code word
        else if c.nest then s.modAct r fun a => { a with status := .trapped t }
        else if (a.lanes.filter t.tids.contains).any (fun tid =>
            (((s.thread c.team tid).getD (Thread.start c.core)).base + 32 + 224 > 1024)) then
          s.kill tm.launch 4 t.code word
        else
          match s.poolFree c.team c.core tm (a.lanes.filter t.tids.contains) 32 0 with
          | (true, s) => s.startHandler r c a tm.launch rec.trapent t
          | (false, s) => s.kill tm.launch 4 t.code word
    | _, _ => s

/-- A trap of the instruction at issue over some of its threads, or over all held threads (R273). -/
def Env.trap (e : Env) (s : State) (code : Nat) (tids : List Nat) (uni : Bool) : State :=
  s.trap e.ref { code := code, pc := e.addr, uni := uni, tids := tids, entry := none, op := none, len := e.len }

/-- A uniform cause (R273). -/
def Env.trapAll (e : Env) (s : State) (code : Nat) : State := e.trap s code e.held true

/-! ### The scoreboard (R409) -/

/-- What an instruction reads and writes: uniform, vector and path registers with their read mode (true: trap
mode), set registers (`dk` are only written), and destinations, which wait for a pending producer (R100, R409). -/
structure Needs where
  u : List (Nat × Bool) := []
  v : List (Nat × Bool) := []
  h : List (Nat × Bool) := []
  k : List Nat := []
  dk : List Nat := []
  du : List Nat := []
  dv : List Nat := []
  dh : List Nat := []
deriving DecidableEq, Repr

/-- Whether a register of the activation, or of one of its threads, is full. -/
def State.fullAt (s : State) (team core : Nat) (a : Act) : RegRef → Bool
  | .u n => (a.u n).full
  | .k n => (a.kr n).full
  | .v t n => (((s.thread team t).getD (Thread.start core)).lreg n).full
  | .h t n => (((s.thread team t).getD (Thread.start core)).path n).full

def Env.full (e : Env) (s : State) (r : RegRef) : Bool := s.fullAt e.ctx.team e.ctx.core e.act r

/-- A window register of some threads. -/
def Env.vrefs (e : Env) (s : State) (ts : List Nat) (n : Nat) : List RegRef :=
  ts.map fun t => .v t ((e.thread s t).base + n)

/-- The empty registers that an instruction waits for before it looks at its trap-mode sources. -/
def Needs.blocked (n : Needs) (e : Env) (s : State) (ts : List Nat) : List RegRef :=
  let blk (l : List (Nat × Bool)) : List Nat := (l.filter fun p => !p.2).map Prod.fst
  let us : List RegRef := (blk n.u ++ n.du).map RegRef.u
  let ks : List RegRef := (n.k ++ n.dk).map RegRef.k
  let vs : List RegRef := (blk n.v ++ n.dv).flatMap fun i => e.vrefs s ts i
  let hs : List RegRef := (blk n.h ++ n.dh).flatMap fun i => ts.map fun t => RegRef.h t i
  (us ++ ks ++ vs ++ hs).filter fun r => !e.full s r

/-- The threads for which a trap-mode source is empty (R409). -/
def Needs.starved (n : Needs) (e : Env) (s : State) (ts : List Nat) : List Nat :=
  ts.filter fun t =>
    (n.u.any fun p => p.2 && !(e.act.u p.1).full)
    || (n.v.any fun p => p.2 && !((e.thread s t).reg p.1).full)
    || (n.h.any fun p => p.2 && !((e.thread s t).path p.1).full)

/-- Whether a set register names a slot whose bitmap a parity error has lost (R310). -/
def Env.lost (e : Env) (s : State) (k : Nat) : Bool :=
  match (e.act.kr k).form, s.teams.get? e.ctx.team with
  | .handle i _ _, some t => ((t.slots.get? (slotKey (t.side e.ctx.core) i)).map (·.poisoned)).getD false
  | _, _ => false

/-- Whether an instruction that waits so would wait whatever its trap-mode sources hold: for its engine, its context's stores,
the operand log, a count of requests, a channel (R409). -/
def Why.blind (w : Why) : Bool :=
  match w with
  | .presence | .held => false
  | _ => true

/-- An instruction with empty trap-mode sources, `r` being the state after its effect: it traps FEMPTY when it would otherwise
issue, and waits where it would wait anyway (R409). -/
def Env.starve (e : Env) (s r : State) (ts : List Nat) : State :=
  match (r.act? e.ref).map Act.status with
  | some (.again w) => if w.blind then e.park s (.again w) else e.trap s 0x02 ts false
  | _ => e.trap s 0x02 ts false

/-- Issue of an instruction word: find its path, wait for its block-mode sources and pending destinations, trap
FEMPTY for empty trap-mode sources (R409) or POISON for a lost set (R310), and otherwise have its effect over `ts`. -/
def issueOver (s : State) (n : Needs) (ts : Env → List Nat) (eff : Env → State → State) :
    Host.Outcome State Fault Refusal :=
  match s.env? with
  | none => .fault .noIssuingPath
  | some e =>
    if n.blocked e s (ts e) ≠ [] then .next (e.park s (.source (n.blocked e s (ts e))))
    else if n.starved e s (ts e) ≠ [] then .next (e.starve s (eff e s) (n.starved e s (ts e)))
    else if n.k.any (e.lost s) then .next (e.trapAll s 0x10)
    else .next (eff e s)

/-- An instruction issued once per path (R38). -/
def issuePath (s : State) (n : Needs) (eff : Env → State → State) : Host.Outcome State Fault Refusal :=
  issueOver s n (fun e => e.held) eff

/-- An instruction that executes per thread under an optional guard (R32, R37). The guard set is read first; with
no executing thread the instruction only takes its issue slot. -/
def issueThreads (s : State) (g : Guard) (n : Needs) (eff : Env → List Nat → State → State) :
    Host.Outcome State Fault Refusal :=
  match s.env? with
  | none => .fault .noIssuingPath
  | some e =>
    match g with
    | some k =>
      if (e.act.kr k.toNat).full = false then .next (e.park s (.source [.k k.toNat]))
      else if e.lost s k.toNat then .next (e.trapAll s 0x10)
      else if e.exec s g = [] then .next (e.retire s)
      else issueOver s n (fun e => e.exec s g) (fun e s => eff e (e.exec s g) s)
    | none => issueOver s n (fun e => e.exec s g) (fun e s => eff e (e.exec s g) s)

/-! ### Forming contexts -/

/-- The context slots of a core that are taken: contexts resident there. -/
def State.slotsTaken (s : State) (core : Nat) : List Nat :=
  (s.ctxs.vals.filter fun c => c.core = core && decide (c.phase = .resident)).map (·.slot)

/-- The lowest free context slot of a core (R11: 128). -/
def State.freeSlot (s : State) (core : Nat) : Option Nat :=
  let t := s.slotsTaken core
  (List.range 128).find? fun i => !t.contains i

/-- A new activation of a path. -/
def newAct (uid pc : Nat) (lanes : List Nat) (kind : Kind) (now : Nat) : Act :=
  { uid := uid, pc := pc, lanes := lanes, s := [], k := [], kind := kind, status := .ready, inTrap := false,
    only := none, since := now, ibuf := none, last := none, foot := none, footAt := [] }

/-- A context with the state of R29: counters, queue, log and streams empty. -/
def newCtx (team core slot serial : Nat) (a : Act) (frames : List Nat) (slk : Word) : Ctx :=
  { team := team, core := core, slot := slot, serial := serial, p0 := [a], p1 := [], frames := frames,
    queue := [], tags := [], tagDone := [], issued := [], doneOps := [], tl := [], tstat := 0, ovd := 0,
    slk := slk, log := [], streams := [], live := none, shadow := none, held := [], count := 0,
    phase := .resident, app := none, bin := false, image := [], imageAt := 0, group := 0, restored := false }

/-- The device at this moment (R282). -/
def State.snap (s : State) : Snap :=
  { mem := s.mem, threads := s.threads, ctxs := s.ctxs, teams := s.teams, launches := s.launches, cores := s.cores,
    dies := s.dies.map fun p => (p.1, p.2.toDieCore), pend := s.pend, probes := s.probes, poison := s.poison, hub := s.hub,
    now := s.now, tick := s.tick, nextId := s.nextId, fresh := s.fresh }

/-- Whether a debugger's re-execution runs (R284, R285). -/
def State.replaying (s : State) : Bool := s.dies.any fun p => p.2.target.isSome

/-- A checkpoint interval begins on a die (R279, R281, R282): counts restart, live contexts have serial 0, a capture
keeps this interval and the one before it; its snapshot is taken as the next turn begins. -/
def State.startInterval (s : State) (d : Nat) (n : Nat) : State :=
  let ctx (p : Nat × Ctx) : Nat × Ctx :=
    if dieOf p.2.core = d then (p.1, { p.2 with count := 0, serial := 0 }) else p
  let core (p : Nat × Core) : Nat × Core :=
    if dieOf p.1 = d then (p.1, { p.2 with serials := (s.slotsTaken p.1).foldl (fun m i => m.set i 1) [] }) else p
  let s := { s with ctxs := s.ctxs.map ctx, cores := s.cores.map core }
  let s := s.modDie d fun x => { x with interval := n % 2 ^ 32, intervalAt := s.cyc d }
  if (s.die d).capturing && !s.replaying then
    s.modDie d fun x => { x with capture := (⟨n % 2 ^ 32, false, s.snap, []⟩ :: x.capture).take 2 }
  else s

/-- Before the 257th context of a slot in an interval takes it, the interval ends, and the next begins on the next cycle (R281). -/
def State.roomForSerial (s : State) (core slot : Nat) : State :=
  if (s.core core).serials.getD slot 0 ≥ 256 then
    let s := s.advance 1
    s.startInterval (dieOf core) ((s.die (dieOf core)).interval + 1)
  else s

/-- Put a context into a slot of its core; the slot's serial advances (R279, R281). Answers its name. -/
def State.addCtx (s : State) (core slot : Nat) (mk : Nat → Nat → Ctx) (launch origin : Nat) : Nat × State :=
  let (id, s) := s.name
  let (uid, s) := s.name
  let s := s.roomForSerial core slot
  let ser := (s.core core).serials.getD slot 0
  let c := mk ser uid
  let s := { s with ctxs := s.ctxs.set id c }
  let s := s.modCore core fun k => { k with serials := k.serials.set slot (ser + 1) }
  (id, s.recordMap c launch origin (c.p0.flatMap (·.lanes)))

/-! ### Threads and paths that end -/

/-- The contexts of a team. -/
def State.teamCtxs (s : State) (team : Nat) : List Nat := (s.ctxs.filter fun p => p.2.team = team).map Prod.fst

/-- Whether an operation keeps its context from retiring: all do but a load or a long-latency result of threads that live on
elsewhere, which completes into their registers (R99, R164, R361). -/
def Op.keepsCtx (o : Op) : Bool :=
  match o.work with
  | .load | .latency | .atomic | .sc | .gnext | .route | .walk _ => o.exited || o.peer
  | _ => true

/-- Whether a context has outstanding work that keeps it (R164, R361). -/
def State.outstanding (s : State) (id : Nat) (c : Ctx) : Bool :=
  (s.pend.vals.any fun o => o.ctx = id && o.keepsCtx) || !c.log.isEmpty || !c.queue.isEmpty

/-- An applied context has retired: its application goes on without it; when none is left to form or running, the
issuers resume (R93, R99). -/
def State.appRetire (s : State) (team : Nat) (app id : Nat) : State :=
  match (s.teams.get? team).bind (·.apps.get? app) with
  | none => s
  | some p =>
    let live := p.live.filter (· ≠ id)
    if live = [] && p.todo = [] then
      let s := forEach p.issuers (fun s q => s.modCtx q.1 fun c => c.modUid q.2 fun a =>
        if a.status = .applied app then { a with status := .ready, since := s.cycAt q.1 } else a) s
      s.modTeam team fun t => { t with apps := t.apps.erase app }
    else s.modTeam team fun t => { t with apps := t.apps.set app { p with live := live } }

/-- Retire contexts of a team whose paths have all ended and whose work is complete (R35, R164). -/
def State.retireCtxs (s : State) (team : Nat) : State :=
  forEach (s.teamCtxs team) (fun s id =>
    match s.ctxs.get? id with
    | none => s
    | some c =>
      if c.p0 = [] && c.p1 = [] && !s.outstanding id c then
        let s := { s with ctxs := s.ctxs.erase id }
        match c.app with
        | some app => s.appRetire team app id
        | none => s
      else s) s

/-- Mark the join of a context: `a` when la has ended, else lb (R97). -/
def Ctx.markJoin (c : Ctx) (a : Bool) : Ctx :=
  { c with p0 := c.p0.map fun x =>
      match x.status with
      | .join aD bD lb ov => { x with status := .join (aD || a) (bD || !a) lb ov }
      | _ => x }

/-- The window bases of threads. -/
def State.bases (s : State) (team : Nat) (ts : List Nat) : Map Nat :=
  ts.foldl (fun m t => m.set t (((s.thread team t).map (·.base)).getD 0)) []

/-- Push a child that runs a block over threads of the top activation (R89). -/
def State.pushChild (s : State) (r : PathRef) (lanes : List Nat) (target : Nat) (kind : Kind)
    (foot : Option Nat := none) : State :=
  let (uid, s) := s.name
  s.modCtx r.ctx fun c =>
    match c.stack r.slot with
    | [] => c
    | p :: rest =>
      let ch : Act := { p with uid := uid, pc := target, lanes := lanes, kind := kind, status := .ready,
                               only := none, since := s.cycOf c.core, ibuf := none, foot := foot,
                               footAt := if foot.isSome then s.bases c.team lanes else [] }
      let par : Act := { p with status := .under }
      c.setStack r.slot (ch :: par :: rest)

/-- Make the top activation of a slot ready. -/
def State.resume (s : State) (r : PathRef) : State := s.modAct r fun a => { a with status := .ready, since := s.cycAt r.ctx }

/-- The top activation of a slot applies lb over those of its threads that a list names, as APPLY.g does: once every uniform
and set register of it is full (R89, R97, R98). -/
def State.applyBlock (s : State) (r : PathRef) (lb : Nat) (b : List Nat) : State :=
  match s.act? r with
  | none => s
  | some p =>
    let m := p.lanes.filter b.contains
    if m = [] then s.resume r
    else if p.emptyRefs ≠ [] then s.modAct r fun a => { a with status := .thenApply lb b }
    else (s.resume r).pushChild r m lb .child

/-- The join (R97): both blocks have ended, so slot 1 is free, and lb runs once more over the overlap. -/
def State.tryJoin (s : State) (id : Nat) : State :=
  match s.ctxs.get? id with
  | none => s
  | some c =>
    match c.p0 with
    | [] => s
    | p :: _ =>
      match p.status with
      | .join true true lb ov => (s.modCtx id fun c => { c with p1 := [] }).applyBlock ⟨id, 0⟩ lb ov
      | _ => s

/-- A path that waits to apply a block does so once its registers are full. -/
def State.wakeBlock (s : State) (r : PathRef) : State :=
  match (s.act? r).map Act.status with
  | some (.thenApply lb b) => s.applyBlock r lb b
  | _ => s

/-- Remove the top activation of a slot. -/
def Ctx.pop (c : Ctx) (slot : Nat) : Ctx := c.setStack slot (c.stack slot).tail

/-- A handler is over: NEST becomes 0 and its threads' windows slide back (R277). -/
def State.endHandler (s : State) (r : PathRef) (team : Nat) (lanes : List Nat) : State :=
  let s := s.modCtx r.ctx fun c => { c.pop r.slot with tstat := c.tstat &&& ~~~ (0x80#64) }
  forEach lanes (fun s t => s.modThread team t fun th => { th with base := th.base - 32, floor := 0 }) s

/-- A path takes over the pending results of another, whose registers it keeps (R97). -/
def State.reown (s : State) (old new : Nat) : State :=
  let acc (a : Access) : Access := if a.uid = old then { a with uid := new } else a
  let entry (l : LogEntry) : LogEntry := { l with acc := acc l.acc }
  { s with pend := s.pend.map (fun (p : Nat × Op) => if p.2.uid = old then (p.1, { p.2 with uid := new }) else p),
           ctxs := s.ctxs.map fun (p : Nat × Ctx) => (p.1, { p.2 with log := p.2.log.map entry }) }

/-- The top activation of a slot has ended, by AEND or because its lane map is empty (R35, R89, R97 to R99). -/
def State.finishTop (s : State) (r : PathRef) : State :=
  match s.ctxs.get? r.ctx with
  | none => s
  | some c =>
    match c.stack r.slot with
    | [] => s
    | a :: _ =>
      match a.kind with
      | .child => (s.modCtx r.ctx (·.pop r.slot)).resume r
      | .forkA =>
        let s := s.reown a.uid (((c.stack r.slot).tail.head?.map (·.uid)).getD a.uid)
        (s.modCtx r.ctx fun c => ((c.pop 0).modTop 0 fun p => { p with s := a.s, k := a.k }).markJoin true).tryJoin r.ctx
      | .forkB =>
        (s.modCtx r.ctx fun c => ((c.modTop 1 fun x => { x with status := .atJoin }).markJoin false)).tryJoin r.ctx
      | .forkSeq lb b =>
        let s := s.reown a.uid (((c.stack r.slot).tail.head?.map (·.uid)).getD a.uid)
        (s.modCtx r.ctx fun c => (c.pop r.slot).modTop r.slot fun p => { p with s := a.s, k := a.k }).applyBlock r lb b
      | .handler _ =>
        (s.endHandler r c.team a.lanes).resume r
      | .home => s.modCtx r.ctx (·.setStack r.slot [])
      | .bin _ => s.modCtx r.ctx (·.setStack r.slot [])
      | .applied _ => s.modCtx r.ctx (·.setStack r.slot [])

/-- End every activation of a slot whose lane map is empty, from the top (R35). -/
def State.settleSlot (r : PathRef) : Nat → State → State
  | 0, s => s
  | n + 1, s =>
    match s.act? r with
    | none => s
    | some a =>
      if a.lanes = [] && a.status ≠ .atJoin && a.status ≠ .stopped
          && (match a.status with | .join _ _ _ _ => false | _ => true) then
        State.settleSlot r n (s.finishTop r)
      else s

/-- A caller of CALLV resumes once each of its threads has returned or become done (R108). -/
def State.callersResume (s : State) (team : Nat) : State :=
  { s with ctxs := s.ctxs.map fun (p : Nat × Ctx) =>
      if p.2.team ≠ team then p
      else
        let out (uid : Nat) (a : Act) := a.lanes.any fun t =>
          ((s.thread team t).map (·.bins)).getD [] |>.any fun b => b.ctx = p.1 && b.uid = uid
        let wake (a : Act) : Act := match a.status with
          | .returns => if out a.uid a then a else { a with status := .ready, since := s.cycOf p.2.core }
          | _ => a
        (p.1, { p.2 with p0 := p.2.p0.map wake, p1 := p.2.p1.map wake }) }

/-- After threads have left their lane maps: end empty activations, join, resume callers, retire contexts. -/
def State.settle (s : State) (team : Nat) : State :=
  let s := forEach (s.teamCtxs team) (fun s id =>
    let s := (State.settleSlot ⟨id, 0⟩ 40 (State.settleSlot ⟨id, 1⟩ 40 s)).tryJoin id
    (s.wakeBlock ⟨id, 0⟩).wakeBlock ⟨id, 1⟩) s
  ((s.callersResume team).retireCtxs team).freeSlots team

/-- Threads leave a core's spawn bins; an empty bin is free (R42). -/
def Core.dropBinned (k : Core) (team : Nat) (ts : List Nat) : Core :=
  let out (b : Bin) : Bin :=
    if b.team = team && b.tids.any ts.contains then { b with tids := b.tids.filter (!ts.contains ·), fullAt := none } else b
  { k with bins := (k.bins.map fun p => (p.1, out p.2)).filter fun p => !p.2.tids.isEmpty }

/-- A register number that no result is written to. -/
def noDst : Nat := 5000

/-- A logged instruction without the register writes of threads that are done (R361): its stores and atomics stay. -/
def Access.discard (a : Access) (ts : List Nat) : Access :=
  let drop : Access := { a with items := a.items.map fun i => if ts.contains i.tid then { i with dst := noDst } else i }
  match a.kind with
  | .ld _ | .lr _ | .sc _ | .atom _ _ _ | .route _ _ | .desc _ _ => drop
  | _ => a

/-- A pending operation without the register results of threads that are done: they are discarded (R361). -/
def Op.dropResults (o : Op) (ts : List Nat) : Op :=
  let keep (r : Res) : Bool := match r with
    | .v t _ _ => !ts.contains t
    | .h t _ _ => !ts.contains t
    | .flags t _ => !ts.contains t
    | _ => true
  let work := match o.work with
    | .desc a d h p w n => .desc a d h p (w.map fun x => if ts.contains x.tid then { x with dst := noDst } else x) n
    | k => k
  { o with res := o.res.filter keep, work := work, exited := o.exited || o.res.any (!keep ·) }

/-- Threads become done (R35): out of every lane map and frame, registers returned, reservations ended. -/
def State.exitThreads (s : State) (team : Nat) (ts : List Nat) : State :=
  let drop (l : List Act) : List Act := l.map fun a => { a with lanes := a.lanes.filter fun t => !ts.contains t }
  let dropLog (l : LogEntry) : LogEntry := { l with acc := l.acc.discard ts }
  let dropCtx (p : Nat × Ctx) : Nat × Ctx :=
    if p.2.team = team then (p.1, { p.2 with p0 := drop p.2.p0, p1 := drop p.2.p1, log := p.2.log.map dropLog }) else p
  let dropFrame (p : Nat × Frame) : Nat × Frame :=
    (p.1, { p.2 with members := p.2.members.filter fun x => !ts.contains x })
  let s := forEach ts (fun s t => s.modThread team t fun th =>
    { th with done := true, v := [], h := [], resv := none, bins := [] }) s
  let s := { s with ctxs := s.ctxs.map dropCtx,
                    cores := s.cores.map (fun (p : Nat × Core) => (p.1, p.2.dropBinned team ts)),
                    pend := s.pend.map fun (p : Nat × Op) =>
                      if p.2.team = team then (p.1, p.2.dropResults ts) else p }
  let s := s.modTeam team fun t => { t with frames := t.frames.map dropFrame }
  s.settle team

end Sys2Proof.Machine
end

