-- ==== Sys2Proof/WellFormed.lean ====
section
/-!
DEFINITION. Which instruction terms are instructions: the operand spaces (R315), pairs (R315), read modes
(R317), types and classes (R322, R323), literals (R319), and the limits of each layout. `Instr.wf` is
decidable by evaluation; the decoder answers only well-formed terms.
-/

namespace Sys2Proof

/-! ### Types -/

/-- The integer types, codes 0-7 of R322. -/
def Ty.isInt : Ty → Bool
  | .int8 | .int16 | .int32 | .int64 | .uint8 | .uint16 | .uint32 | .uint64 => true
  | _ => false

/-- The floating types that arithmetic takes, codes 8-10 of R322. -/
def Ty.isFloat : Ty → Bool
  | .fp32 | .fp16 | .bf16 => true
  | _ => false

/-- The types held in a register pair (R109). -/
def Ty.is64 : Ty → Bool
  | .int64 | .uint64 => true
  | _ => false

/-! ### Operand fields -/

/-- A vector register number (R315). -/
def vreg (n : BitVec 8) : Bool := n.toNat < 224

/-- The even register of a pair (R315). -/
def vpair (n : BitVec 8) : Bool := n.toNat < 224 && n.toNat % 2 == 0

/-- A uniform register number (R315). -/
def sreg (n : BitVec 8) : Bool := n.toNat < 160

def VSrc.ok (wide : Bool) : VSrc → Bool
  | .reg n => if wide then vpair n else vreg n
  | _ => true

def USrc.ok : USrc → Bool
  | .reg n => sreg n
  | _ => true

/-- An optional index operand (R321), with its read-mode bit: without an index the bit is 0 (R317). -/
def idxOk (i : Option VSrc) (rb : Bool) : Bool :=
  match i with
  | some v => v.ok false
  | none => !rb

/-- A literal that R319 allows for the type. -/
def litOk (ty : Ty) (l : BitVec 62) : Bool :=
  match ty with
  | .fp32 => l.toNat < 2 ^ 32
  | .fp16 | .bf16 => l.toNat < 2 ^ 16
  | _ => true

/-- Source b of an arithmetic word: field in its space, pair rule, literal rule, read mode (R315, R317, R319). -/
def BSrc.ok (ty : Ty) (wide : Bool) (r : Bool) : BSrc → Bool
  | .vec v => v.ok wide
  | .uni u => u.ok
  | .imm _ => !r
  | .lit l => !r && litOk ty l

/-! ### The arithmetic word -/

/-- What an arithmetic major takes (R322, R323, and its entry). -/
structure Shape where
  /-- 1, 2 or 3 sources -/
  srcs : Nat
  /-- types allowed -/
  tys : List Ty
  /-- the uniform form exists -/
  uni : Bool
  /-- RND may be other than rne -/
  rounds : Bool
  /-- bits [2:0] hold a shift amount (LEA) -/
  shift : Bool
  /-- CLASS 0b00 and 0b01 are allowed -/
  regs : Bool
  /-- CLASS 0b10 and 0b11 are allowed -/
  imms : Bool
  /-- the destination is an even pair whatever the type -/
  pairD : Bool
  /-- b is read as an integer: the literal is not limited by the floating type (R366) -/
  intB : Bool
deriving DecidableEq, Repr

def intTys : List Ty := [.int8, .int16, .int32, .int64, .uint8, .uint16, .uint32, .uint64]
def floatTys : List Ty := [.fp32, .fp16, .bf16]

/-- The two-source integer and bit instructions (R334). -/
def Shape.int2 : Shape := ⟨2, intTys, true, false, false, true, true, false, true⟩
/-- The three-source integer and bit instructions (R322). -/
def Shape.int3 : Shape := { Shape.int2 with srcs := 3 }
/-- The single-source integer and bit instructions (R322). -/
def Shape.int1 : Shape := { Shape.int2 with srcs := 1 }
def Shape.lea : Shape := { Shape.int2 with shift := true }
/-- MOV takes registers only (R382). -/
def Shape.mov : Shape := { Shape.int1 with imms := false }
/-- MOVI takes immediates only (R383). -/
def Shape.movi : Shape := { Shape.int1 with regs := false }
/-- FADD, FSUB, FMUL (R364). -/
def Shape.flt2 : Shape := ⟨2, floatTys, false, true, false, true, true, false, false⟩
/-- FMIN, FMAX: RND 0 only (R364). -/
def Shape.fmin : Shape := { Shape.flt2 with rounds := false }
def Shape.fma : Shape := { Shape.flt2 with srcs := 3 }
def Shape.fldx : Shape := { Shape.flt2 with intB := true }
/-- Correctly rounded single-source floating instructions (R362, R368). -/
def Shape.flt1 : Shape := { Shape.flt2 with srcs := 1 }
/-- Approximate single-source instructions: RND 0 only (R362). -/
def Shape.approx : Shape := { Shape.flt1 with rounds := false }
/-- FSPLIT and EXP2S: FP32, RND 0, an even destination pair (R363, R369). -/
def Shape.split : Shape := { Shape.approx with tys := [.fp32], pairD := true }

def ASrc.okVec (wide r : Bool) : ASrc → Bool
  | .none => !r
  | .vec v => v.ok wide
  | .uni _ => false

def ASrc.okUni (r : Bool) : ASrc → Bool
  | .none => !r
  | .vec _ => false
  | .uni u => u.ok

def ASrc.isNone : ASrc → Bool
  | .none => true
  | _ => false

def BSrc.classOk (sh : Shape) : BSrc → Bool
  | .vec _ | .uni _ => sh.regs
  | .imm _ | .lit _ => sh.imms

def BSrc.isVec : BSrc → Bool
  | .vec _ => true
  | _ => false

/-- An arithmetic word that its major's layout allows. -/
def Arith.ok (sh : Shape) (o : Arith) : Bool :=
  let wide := o.ty.is64
  sh.tys.contains o.ty
  && (sh.rounds || o.rnd == .rne)
  && (sh.shift || o.sh == 0)
  && o.b.classOk sh
  && (o.a.isNone == (sh.srcs == 1))
  && (o.c.isNone == (sh.srcs != 3))
  && (if o.uform then
        sh.uni && o.guard.isNone && sreg o.d
        && o.a.okUni o.ra && !o.b.isVec && o.b.ok (if sh.intB then .int32 else o.ty) false o.rb && o.c.okUni o.rc
      else
        (if wide || sh.pairD then vpair o.d else vreg o.d)
        && o.a.okVec wide o.ra && o.b.ok (if sh.intB then .int32 else o.ty) wide o.rb && o.c.okVec wide o.rc)

/-! ### The other records -/

/-- CVT (R357): source from a register, no NB4 destination, a rounding only when the RND field exists. -/
def Ty.slotted : Ty → Bool
  | .e4m3 | .e5m2 | .nb4 => true
  | _ => false

def CvtOp.ok (o : CvtOp) : Bool :=
  let slotted := o.dty.slotted || o.sty.slotted
  o.dty != .nb4
  && (if o.dty.is64 then vpair o.d else vreg o.d)
  && (match o.b with
      | .vec v => v.ok o.sty.is64 && !(o.sty == .e4m3 && (v == .const 0xA || v == .const 0xB))
      | .uni u => u.ok
      | _ => false)
  && (if slotted then o.rnd == .rne else o.slot == 0)

/-- How many registers the 32 values of QPACK and QUNP take. -/
def PackOp.span (o : PackOp) : Nat := if o.ty == .fp32 then 32 else 16

def PackOp.okPack (o : PackOp) : Bool :=
  floatTys.contains o.ty && o.s.toNat + o.span ≤ 224 && o.d.toNat + 4 < 224

def PackOp.okUnpack (o : PackOp) : Bool :=
  floatTys.contains o.ty && o.s.toNat + 4 < 224 && o.d.toNat + o.span ≤ 224

def GnormOp.ok (o : GnormOp) : Bool :=
  1 ≤ o.k.toNat && o.k.toNat ≤ 8 && o.d.toNat + o.k.toNat ≤ 224

/-- TEST takes types 0-10 (R72); TESTB the integer types and eq, ne only (R74). -/
def TestOp.ok (bits : Bool) (o : TestOp) : Bool :=
  (if bits then o.ty.isInt && (o.cond == .eq || o.cond == .ne) else o.ty.isInt || o.ty.isFloat)
  && o.a.ok o.ty.is64 && o.b.ok o.ty o.ty.is64 o.rb

def SetOp.ok1 (o : SetOp) : Bool := o.kb == 0
def SetOp.ok0 (o : SetOp) : Bool := o.ka == 0 && o.kb == 0

def SetMem.ok (status : Bool) (o : SetMem) : Bool :=
  o.base.ok && (if status then sreg o.sd else o.sd == 0)

def footOk (pack : Bool) (foot : BitVec 5) : Bool :=
  foot.toNat ≤ 28 && (pack || foot == 0)

def ApplyOp.ok (frame : Bool) (o : ApplyOp) : Bool :=
  (if frame then o.n.toNat ≤ 160 else o.n == 0) && footOk o.pack o.foot

def ApplyKOp.ok (o : ApplyKOp) : Bool :=
  sreg o.skey && vreg o.vkey && sreg o.nkeys && o.n.toNat ≤ 160 && footOk o.pack o.foot

def UniSrcOp.ok (o : UniSrcOp) : Bool := o.a.ok

def BrcB.ok : BrcB → Bool
  | .uni u => u.ok
  | .imm _ => true

def BrcOp.ok (o : BrcOp) : Bool := o.a.ok && o.b.ok

/-- n of CALL and CALLV: even, 0 to 222 (R350, R88). -/
def windowStep (n : BitVec 8) : Bool := n.toNat ≤ 222 && n.toNat % 2 == 0

def CallOp.ok (o : CallOp) : Bool := windowStep o.n
def CallvOp.ok (o : CallvOp) : Bool := vpair o.va && windowStep o.n

def WaitOp.ok (o : WaitOp) : Bool :=
  sreg o.sd && o.sa.toNat + 2 * (o.n1.toNat + 1) ≤ 160
  && (match o.timeout with
      | .none => !o.rb
      | .uni u => u.ok
      | .imm _ => !o.rb)

def DescOp.ok (ov : Bool) (o : DescOp) : Bool := sreg o.sd && o.base.ok && (ov || !o.ov)

def SpawnOp.ok (o : SpawnOp) : Bool := vreg o.d && vpair o.a && o.b.toNat ≤ 0xDC

def ScntOp.ok (o : ScntOp) : Bool := sreg o.sd

def LaneOp.okMove (shfl : Bool) (o : LaneOp) : Bool :=
  (o.ty.isInt || o.ty.isFloat) && (shfl || o.mode == .idx)
  && (if o.ty.is64 then vpair o.d else vreg o.d) && o.a.ok o.ty.is64 && o.b.ok .int32 false o.rb

def LaneOp.okBcast (o : LaneOp) : Bool := o.okMove false && !o.b.isVec

def RedLaneOp.ok (scan : Bool) (o : RedLaneOp) : Bool :=
  (o.ty.isInt || (o.ty.isFloat && (o.op == .add || o.op == .min || o.op == .max)))
  && (scan || !o.excl)
  && (if o.ty.is64 then vpair o.d else vreg o.d) && o.b.ok o.ty.is64

/-- LD and ST (R373, R404). -/
def MemOp.ok (o : MemOp) : Bool :=
  o.ty.isInt && (o.strong || o.scope == .lg)
  && (if o.ty.is64 then vpair o.v else vreg o.v) && o.base.ok && idxOk o.idx o.rb

def resvTy : Ty → Bool
  | .int32 | .int64 | .uint32 | .uint64 => true
  | _ => false

/-- LR (R377). -/
def MemOp.okLr (o : MemOp) : Bool := o.ok && !o.strong && resvTy o.ty

def ScOp.ok (o : ScOp) : Bool :=
  resvTy o.ty && vreg o.d && (if o.ty.is64 then vpair o.s else vreg o.s) && o.base.ok && idxOk o.idx o.rb

def AtomTy.is64 : AtomTy → Bool
  | .int64 | .uint64 => true
  | _ => false

/-- The data register of ATOM (R336). -/
def AtomicOp.dataOk (o : AtomicOp) : Bool :=
  match o.op, o.ty.is64 with
  | .cas, true => o.v.toNat % 2 == 0 && o.v.toNat + 3 ≤ 223
  | .cas, false => vpair o.v
  | _, true => vpair o.v
  | _, false => vreg o.v

def AtomicOp.ok (o : AtomicOp) : Bool :=
  o.dataOk && o.base.ok && idxOk o.idx o.rb
  && !(o.ty == .fp32 && (o.op == .and || o.op == .or || o.op == .xor))

def TagOp.ok (o : TagOp) : Bool := o.base.ok && idxOk o.idx o.rb
def TaglOp.ok (o : TaglOp) : Bool := vreg o.d && o.toTagOp.ok
def TagsOp.ok (o : TagsOp) : Bool := o.way.ok false && o.toTagOp.ok

def PresOp.ok (o : PresOp) : Bool := o.base.ok
def StrmOp.ok (o : StrmOp) : Bool := o.base.ok

def GateOp.ok (o : GateOp) : Bool := o.base.ok && idxOk o.idx o.rb
def GmaxOp.ok (o : GmaxOp) : Bool := o.ve.ok false && o.vs.ok false && o.toGateOp.ok
def GnextOp.ok (o : GnextOp) : Bool := vreg o.d && vreg o.s && o.d != o.s && o.toGateOp.ok

def RouteOp.ok (o : RouteOp) : Bool := vreg o.d && o.base.ok && o.e.ok false && o.tag.ok false

def CpaOp.ok (o : CpaOp) : Bool :=
  o.db.ok && o.di.ok false && o.sb.ok && o.si.ok false
  && (match o.valid with
      | .imm n => n.toNat ≤ 32
      | .reg v => vreg v)

def CpwaitOp.ok (o : CpwaitOp) : Bool :=
  match o.sd with
  | some d => sreg d
  | none => true

def BcopyOp.ok (o : BcopyOp) : Bool := sreg o.sd && o.a.ok && o.b.ok && o.c.ok

def TlrdOp.ok (o : TlrdOp) : Bool := sreg o.sd && o.tl.toNat ≤ 4

def ChanOp.okSend (o : ChanOp) : Bool := o.sd == 0 && o.base.ok && o.count.ok
def ChanOp.okRecv (o : ChanOp) : Bool := sreg o.sd && o.base.ok && o.count == .reg 0 && !o.rb

def MldwOp.ok (o : MldwOp) : Bool := o.base.ok && 1 ≤ o.kq.toNat && o.kq.toNat ≤ 16
def MstrOp.ok (o : MstrOp) : Bool := o.base.ok && o.row.ok
/-- The register form passes v223 in no lane-group width only if it does not at W = 64; the width is
checked at issue, where it is known (R380). -/
def MdrnRegOp.ok (o : MdrnRegOp) : Bool := vreg o.d && o.row.ok
def MdrnSpadOp.ok (o : MdrnSpadOp) : Bool := o.base.ok && o.row.ok
def MacqOp.ok (o : MacqOp) : Bool := sreg o.sd
def MrelOp.ok (o : MrelOp) : Bool := o.row.ok

def pairOk (p : Option (BitVec 8 × BitVec 8)) : Bool :=
  match p with
  | some (s, v) => sreg s && vreg v
  | none => true

def DescentOp.ok (o : DescentOp) : Bool :=
  vreg o.d && sreg o.a && vreg o.va && sreg o.sdesc && pairOk o.dp

def AscentOp.ok (o : AscentOp) : Bool :=
  sreg o.sg && sreg o.a && vreg o.va && sreg o.sdesc && vreg o.vg && pairOk o.dx

def PmovOp.ok (o : PmovOp) : Bool := vpair o.v

def TswReadOp.ok (o : TswReadOp) : Bool := vreg o.d
def TswWriteOp.ok (o : TswWriteOp) : Bool := o.a.ok false
def CsrrOp.ok (o : CsrrOp) : Bool := sreg o.sd
def SlkOneOp.ok (o : SlkOneOp) : Bool := o.a.ok

/-! ### P words (R324 to R327) -/

def POp.isFloat : POp → Bool
  | .fadd | .fsub | .fmul | .fmin | .fmax => true
  | _ => false

def PSrc.ok : PSrc → Bool
  | .vec v => v.ok false
  | .imm _ => true

def PSrc.isImm : PSrc → Bool
  | .imm _ => true
  | _ => false

/-- A NOP slot has every other field 0 (R324); a floating slot takes no imm6 (R326). -/
def PSlot.ok (p : PSlot) : Bool :=
  match p.op with
  | .nop => p.args == ⟨0, .vec (.reg 0), false⟩
  | op => vreg p.args.d && p.args.s.ok && !(op.isFloat && p.args.s.isImm)

/-- The bank of a register field (R315). -/
def bank (n : BitVec 8) : BitVec 2 := n.setWidth 2

/-- The pairing rules of R327. -/
def PSlot.pairs (a b : PSlot) : Bool :=
  a.op == .nop || b.op == .nop
  || (bank a.args.d != bank b.args.d
      && (match a.args.s, b.args.s with
          | .vec (.reg x), .vec (.reg y) => bank x != bank y
          | _, _ => true))

/-- The NOP slot. -/
def PSlot.nopSlot : PSlot := ⟨.nop, ⟨0, .vec (.reg 0), false⟩⟩

def pWordOk (op : POp) (a : PArgs) (b : PSlot) : Bool :=
  PSlot.ok ⟨op, a⟩ && b.ok && PSlot.pairs ⟨op, a⟩ b

/-! ### Instructions -/

/-- The terms that stand for instructions. The steps of the other agents are no words and are well-formed. -/
def Instr.wf : Instr → Bool
  | .nop => true
  | .bra _ => true
  | .brs o => o.ok
  | .brc o => o.ok
  | .call o => o.ok
  | .callv o => o.ok
  | .ret => true
  | .exit _ => true
  | .wait o => o.ok
  | .bar _ => true
  | .trap => true
  | .rft => true
  | .brk => true
  | .launch o => o.ok false
  | .spawn o => o.ok
  | .test o => o.ok false
  | .testb o => o.ok true
  | .sand _ => true
  | .sor _ => true
  | .sxor _ => true
  | .sandn _ => true
  | .snot o => o.ok1
  | .smov o => o.ok1
  | .sclr o => o.ok0
  | .sall o => o.ok0
  | .sheld o => o.ok0
  | .sfirst o => o.ok1
  | .scnt o => o.ok
  | .suniF o => o.ok1
  | .sld o => o.ok false
  | .sst o => o.ok false
  | .sqpush o => o.ok true
  | .sqpop o => o.ok true
  | .applyG o => o.ok false
  | .applyF o => o.ok true
  | .applykF o => o.ok
  | .fork _ => true
  | .aend => true
  | .iadd o => o.ok Shape.int2
  | .isub o => o.ok Shape.int2
  | .imul o => o.ok Shape.int2
  | .imulh o => o.ok Shape.int2
  | .imad o => o.ok Shape.int3
  | .div o => o.ok Shape.int2
  | .rem o => o.ok Shape.int2
  | .imin o => o.ok Shape.int2
  | .imax o => o.ok Shape.int2
  | .iabs o => o.ok Shape.int1
  | .ineg o => o.ok Shape.int1
  | .lea o => o.ok Shape.lea
  | .sel o => o.ok Shape.int3
  | .mov o => o.ok Shape.mov
  | .movi o => o.ok Shape.movi
  | .and o => o.ok Shape.int2
  | .or o => o.ok Shape.int2
  | .xor o => o.ok Shape.int2
  | .not o => o.ok Shape.int1
  | .shl o => o.ok Shape.int2
  | .shr o => o.ok Shape.int2
  | .sar o => o.ok Shape.int2
  | .rol o => o.ok Shape.int2
  | .ror o => o.ok Shape.int2
  | .popc o => o.ok Shape.int1
  | .clz o => o.ok Shape.int1
  | .bfe o => o.ok Shape.int2
  | .bfi o => o.ok Shape.int3
  | .fadd o => o.ok Shape.flt2
  | .fsub o => o.ok Shape.flt2
  | .fmul o => o.ok Shape.flt2
  | .fma o => o.ok Shape.fma
  | .fmin o => o.ok Shape.fmin
  | .fmax o => o.ok Shape.fmin
  | .fldx o => o.ok Shape.fldx
  | .fsplit o => o.ok Shape.split
  | .frnd o => o.ok Shape.flt1
  | .frcp o => o.ok Shape.flt1
  | .frsq o => o.ok Shape.flt1
  | .fsqrt o => o.ok Shape.flt1
  | .exp2 o => o.ok Shape.approx
  | .exp2s o => o.ok Shape.split
  | .log2 o => o.ok Shape.flt1
  | .fsin o => o.ok Shape.approx
  | .fcos o => o.ok Shape.approx
  | .ftanh o => o.ok Shape.approx
  | .cvt o => o.ok
  | .qpack o => o.okPack
  | .qunp o => o.okUnpack
  | .gnorm o => o.ok
  | .shfl o => o.okMove true
  | .scat o => o.okMove false
  | .lred o => o.ok false
  | .lscan o => o.ok true
  | .bcast o => o.okBcast
  | .ld o => o.ok
  | .st o => o.ok
  | .lr o => o.okLr
  | .sc o => o.ok
  | .fence _ => true
  | .tagl o => o.ok
  | .tags o => o.ok
  | .tagi o => o.ok
  | .presSet o => o.ok
  | .presClr o => o.ok
  | .strm o => o.ok
  | .strmx _ => true
  | .atom o => o.ok
  | .gmax o => o.ok
  | .gnext o => o.ok
  | .route o => o.ok
  | .cpa o => o.ok
  | .cpwait o => o.ok
  | .bcopy o => o.ok
  | .gather o => o.ok true
  | .tlrd o => o.ok
  | .coll o => o.ok true
  | .chsnd o => o.okSend
  | .chrcv o => o.okRecv
  | .mldw o => o.ok
  | .mswp _ => true
  | .mstr o => o.ok
  | .mdrnRegisters o => o.ok
  | .mdrnScratchpad o => o.ok
  | .macq o => o.ok
  | .mrel o => o.ok
  | .desc o => o.ok
  | .ascd o => o.ok
  | .pmovToVector o => o.ok
  | .pmovToPath o => o.ok
  | .csrrTsw o => o.ok
  | .csrr o => o.ok
  | .csrwTsw o => o.ok
  | .csrwSlk o => o.ok
  | .csrwOvd o => o.ok
  | .csrwTstat o => o.ok
  | .rdclk sd => sd.toNat ≤ 0x9E
  | .tmark o => o.ok
  | .slkset o => o.ok
  | .slksetOne o => o.ok
  | .pNop b => b.ok
  | .pMov a b => pWordOk .mov a b
  | .pIadd a b => pWordOk .iadd a b
  | .pIsub a b => pWordOk .isub a b
  | .pAnd a b => pWordOk .and a b
  | .pOr a b => pWordOk .or a b
  | .pXor a b => pWordOk .xor a b
  | .pShl a b => pWordOk .shl a b
  | .pShr a b => pWordOk .shr a b
  | .pSar a b => pWordOk .sar a b
  | .pImin a b => pWordOk .imin a b
  | .pImax a b => pWordOk .imax a b
  | .pFadd a b => pWordOk .fadd a b
  | .pFsub a b => pWordOk .fsub a b
  | .pFmul a b => pWordOk .fmul a b
  | .pFmin a b => pWordOk .fmin a b
  | .pFmax a b => pWordOk .fmax a b
  | .pNot a b => pWordOk .not a b
  | .pIneg a b => pWordOk .ineg a b
  | .pIabs a b => pWordOk .iabs a b
  | .illegalWord => true
  | .instructionFetch _ => true
  | .frameRendezvousComplete _ _ => true
  | .appliedContextForm _ _ => true
  | .contextLend _ => true
  | .contextUnlend _ => true
  | .binTimerExpiry _ _ => true
  | .binFormOnSlot _ => true
  | .binPlacementResume _ => true
  | .fairnessTimer _ => true
  | .quarterIssue _ _ => true
  | .scoreboardWake _ => true
  | .loadReply _ _ => true
  | .storeAck _ => true
  | .atomicReply _ => true
  | .scOutcome _ => true
  | .longLatencyResult _ => true
  | .sldComplete _ => true
  | .setQueueComplete _ => true
  | .gnextComplete _ => true
  | .routeComplete _ => true
  | .tlrdValue _ => true
  | .launchAccepted _ => true
  | .translationComplete _ => true
  | .faultServiceComplete _ => true
  | .faultUnservable _ _ => true
  | .heldTrapRaise _ => true
  | .pageInvalidation _ _ => true
  | .cpaCopyComplete _ => true
  | .cpwaitComplete _ => true
  | .waitComplete _ => true
  | .waitTimeout _ => true
  | .waitWordReread _ => true
  | .streamLineIssue _ _ => true
  | .streamLineFilled _ => true
  | .bcopyComplete _ => true
  | .gatherRowComplete _ _ => true
  | .gatherComplete _ => true
  | .matrixPassGrant _ => true
  | .matrixPassComplete _ => true
  | .mldwComplete _ => true
  | .mswpTakesEffect _ => true
  | .mdrnComplete _ => true
  | .mrelRowsFreed _ => true
  | .descThreadComplete _ _ => true
  | .descLevel _ => true
  | .descComplete _ => true
  | .ascdComplete _ => true
  | .chsndSlotFree _ => true
  | .chsndSlotFilled _ => true
  | .chrcvDataReady _ => true
  | .chrcvCopyComplete _ => true
  | .channelDeadTrap _ => true
  | .collDescriptorRead _ => true
  | .collStep _ _ => true
  | .collPeerTimeout _ => true
  | .collComplete _ => true
  | .xbarGrant _ _ => true
  | .slackEpoch _ => true
  | .overdueTrap _ => true
  | .mireProbeLaunch _ _ => true
  | .mireProbeHop _ => true
  | .recoveryStep _ => true
  | .flitReceived _ => true
  | .peerAccessServe => true
  | .negativeResponse _ => true
  | .remoteTimeout _ => true
  | .lrReservationExpiry _ _ => true
  | .launchDoorbell _ _ => true
  | .launchRecordCheck _ => true
  | .dependenceRead _ => true
  | .dependencesMet _ => true
  | .bandPlacement _ => true
  | .teamMigration _ _ => true
  | .preemptionTimer _ => true
  | .preemptionStop _ => true
  | .loadDrainTimeout _ => true
  | .teamRestore _ _ => true
  | .launchComplete _ => true
  | .teamFree _ => true
  | .launchKill _ => true
  | .trapEntry _ => true
  | .dieHold _ => true
  | .dieArm _ => true
  | .dieDisarm _ => true
  | .preciseStop _ => true
  | .dieResume _ => true
  | .captureEnable _ => true
  | .captureDisable _ => true
  | .checkpointIntervalStart _ => true
  | .intervalEarlyEnd _ => true
  | .samplingEnable _ => true
  | .garnetTag _ => true
  | .garnetRecord _ => true
  | .setTraceEnable _ _ => true
  | .traceSync _ => true
  | .traceLoss _ => true
  | .tracePageDrop _ => true
  | .traceReadPageMove _ _ => true
  | .deviceReset => true
  | .firmwareVerify => true
  | .mgmtKernelStart _ => true
  | .reducedServiceBegin => true
  | .stackCalibration => true
  | .fullServiceBegin => true
  | .recoveryDoorbell _ => true
  | .firmwareNvmeWrite => true
  | .getVersion => true
  | .getCapabilities => true
  | .negotiateAlgorithms _ => true
  | .getDigests => true
  | .getCertificate => true
  | .challenge _ => true
  | .getMeasurements => true
  | .spdmUnsupported _ => true
  | .dstatRead => true
  | .columnLoss _ => true
  | .stripeRebuild _ => true
  | .busWireRemap _ _ _ => true
  | .busCalibration _ _ _ => true
  | .remapTableReload _ => true
  | .patrolScrub _ => true
  | .parityError _ => true
  | .telemetry _ => true
  | .clockStep _ _ => true
  | .stackShutdown _ => true
  | .mgmtConfigWrite _ => true
  | .nymnexPortDown _ => true
  | .nymnexPortRestored _ => true
  | .hostWriteIntoDieMemory _ _ => true
  | .debuggerRegisterChange _ _ => true

/-- The instruction words among the steps: everything that a decoded word stands for. -/
def Instr.isWord : Instr → Bool
  | .nop => true
  | .bra _ => true
  | .brs _ => true
  | .brc _ => true
  | .call _ => true
  | .callv _ => true
  | .ret => true
  | .exit _ => true
  | .wait _ => true
  | .bar _ => true
  | .trap => true
  | .rft => true
  | .brk => true
  | .launch _ => true
  | .spawn _ => true
  | .test _ => true
  | .testb _ => true
  | .sand _ => true
  | .sor _ => true
  | .sxor _ => true
  | .sandn _ => true
  | .snot _ => true
  | .smov _ => true
  | .sclr _ => true
  | .sall _ => true
  | .sheld _ => true
  | .sfirst _ => true
  | .scnt _ => true
  | .suniF _ => true
  | .sld _ => true
  | .sst _ => true
  | .sqpush _ => true
  | .sqpop _ => true
  | .applyG _ => true
  | .applyF _ => true
  | .applykF _ => true
  | .fork _ => true
  | .aend => true
  | .iadd _ => true
  | .isub _ => true
  | .imul _ => true
  | .imulh _ => true
  | .imad _ => true
  | .div _ => true
  | .rem _ => true
  | .imin _ => true
  | .imax _ => true
  | .iabs _ => true
  | .ineg _ => true
  | .lea _ => true
  | .sel _ => true
  | .mov _ => true
  | .movi _ => true
  | .and _ => true
  | .or _ => true
  | .xor _ => true
  | .not _ => true
  | .shl _ => true
  | .shr _ => true
  | .sar _ => true
  | .rol _ => true
  | .ror _ => true
  | .popc _ => true
  | .clz _ => true
  | .bfe _ => true
  | .bfi _ => true
  | .fadd _ => true
  | .fsub _ => true
  | .fmul _ => true
  | .fma _ => true
  | .fmin _ => true
  | .fmax _ => true
  | .fldx _ => true
  | .fsplit _ => true
  | .frnd _ => true
  | .frcp _ => true
  | .frsq _ => true
  | .fsqrt _ => true
  | .exp2 _ => true
  | .exp2s _ => true
  | .log2 _ => true
  | .fsin _ => true
  | .fcos _ => true
  | .ftanh _ => true
  | .cvt _ => true
  | .qpack _ => true
  | .qunp _ => true
  | .gnorm _ => true
  | .shfl _ => true
  | .scat _ => true
  | .lred _ => true
  | .lscan _ => true
  | .bcast _ => true
  | .ld _ => true
  | .st _ => true
  | .lr _ => true
  | .sc _ => true
  | .fence _ => true
  | .tagl _ => true
  | .tags _ => true
  | .tagi _ => true
  | .presSet _ => true
  | .presClr _ => true
  | .strm _ => true
  | .strmx _ => true
  | .atom _ => true
  | .gmax _ => true
  | .gnext _ => true
  | .route _ => true
  | .cpa _ => true
  | .cpwait _ => true
  | .bcopy _ => true
  | .gather _ => true
  | .tlrd _ => true
  | .coll _ => true
  | .chsnd _ => true
  | .chrcv _ => true
  | .mldw _ => true
  | .mswp _ => true
  | .mstr _ => true
  | .mdrnRegisters _ => true
  | .mdrnScratchpad _ => true
  | .macq _ => true
  | .mrel _ => true
  | .desc _ => true
  | .ascd _ => true
  | .pmovToVector _ => true
  | .pmovToPath _ => true
  | .csrrTsw _ => true
  | .csrr _ => true
  | .csrwTsw _ => true
  | .csrwSlk _ => true
  | .csrwOvd _ => true
  | .csrwTstat _ => true
  | .rdclk _ => true
  | .tmark _ => true
  | .slkset _ => true
  | .slksetOne _ => true
  | .pNop _ => true
  | .pMov _ _ => true
  | .pIadd _ _ => true
  | .pIsub _ _ => true
  | .pAnd _ _ => true
  | .pOr _ _ => true
  | .pXor _ _ => true
  | .pShl _ _ => true
  | .pShr _ _ => true
  | .pSar _ _ => true
  | .pImin _ _ => true
  | .pImax _ _ => true
  | .pFadd _ _ => true
  | .pFsub _ _ => true
  | .pFmul _ _ => true
  | .pFmin _ _ => true
  | .pFmax _ _ => true
  | .pNot _ _ => true
  | .pIneg _ _ => true
  | .pIabs _ _ => true
  | .illegalWord => false
  | .instructionFetch _ => false
  | .frameRendezvousComplete _ _ => false
  | .appliedContextForm _ _ => false
  | .contextLend _ => false
  | .contextUnlend _ => false
  | .binTimerExpiry _ _ => false
  | .binFormOnSlot _ => false
  | .binPlacementResume _ => false
  | .fairnessTimer _ => false
  | .quarterIssue _ _ => false
  | .scoreboardWake _ => false
  | .loadReply _ _ => false
  | .storeAck _ => false
  | .atomicReply _ => false
  | .scOutcome _ => false
  | .longLatencyResult _ => false
  | .sldComplete _ => false
  | .setQueueComplete _ => false
  | .gnextComplete _ => false
  | .routeComplete _ => false
  | .tlrdValue _ => false
  | .launchAccepted _ => false
  | .translationComplete _ => false
  | .faultServiceComplete _ => false
  | .faultUnservable _ _ => false
  | .heldTrapRaise _ => false
  | .pageInvalidation _ _ => false
  | .cpaCopyComplete _ => false
  | .cpwaitComplete _ => false
  | .waitComplete _ => false
  | .waitTimeout _ => false
  | .waitWordReread _ => false
  | .streamLineIssue _ _ => false
  | .streamLineFilled _ => false
  | .bcopyComplete _ => false
  | .gatherRowComplete _ _ => false
  | .gatherComplete _ => false
  | .matrixPassGrant _ => false
  | .matrixPassComplete _ => false
  | .mldwComplete _ => false
  | .mswpTakesEffect _ => false
  | .mdrnComplete _ => false
  | .mrelRowsFreed _ => false
  | .descThreadComplete _ _ => false
  | .descLevel _ => false
  | .descComplete _ => false
  | .ascdComplete _ => false
  | .chsndSlotFree _ => false
  | .chsndSlotFilled _ => false
  | .chrcvDataReady _ => false
  | .chrcvCopyComplete _ => false
  | .channelDeadTrap _ => false
  | .collDescriptorRead _ => false
  | .collStep _ _ => false
  | .collPeerTimeout _ => false
  | .collComplete _ => false
  | .xbarGrant _ _ => false
  | .slackEpoch _ => false
  | .overdueTrap _ => false
  | .mireProbeLaunch _ _ => false
  | .mireProbeHop _ => false
  | .recoveryStep _ => false
  | .flitReceived _ => false
  | .peerAccessServe => false
  | .negativeResponse _ => false
  | .remoteTimeout _ => false
  | .lrReservationExpiry _ _ => false
  | .launchDoorbell _ _ => false
  | .launchRecordCheck _ => false
  | .dependenceRead _ => false
  | .dependencesMet _ => false
  | .bandPlacement _ => false
  | .teamMigration _ _ => false
  | .preemptionTimer _ => false
  | .preemptionStop _ => false
  | .loadDrainTimeout _ => false
  | .teamRestore _ _ => false
  | .launchComplete _ => false
  | .teamFree _ => false
  | .launchKill _ => false
  | .trapEntry _ => false
  | .dieHold _ => false
  | .dieArm _ => false
  | .dieDisarm _ => false
  | .preciseStop _ => false
  | .dieResume _ => false
  | .captureEnable _ => false
  | .captureDisable _ => false
  | .checkpointIntervalStart _ => false
  | .intervalEarlyEnd _ => false
  | .samplingEnable _ => false
  | .garnetTag _ => false
  | .garnetRecord _ => false
  | .setTraceEnable _ _ => false
  | .traceSync _ => false
  | .traceLoss _ => false
  | .tracePageDrop _ => false
  | .traceReadPageMove _ _ => false
  | .deviceReset => false
  | .firmwareVerify => false
  | .mgmtKernelStart _ => false
  | .reducedServiceBegin => false
  | .stackCalibration => false
  | .fullServiceBegin => false
  | .recoveryDoorbell _ => false
  | .firmwareNvmeWrite => false
  | .getVersion => false
  | .getCapabilities => false
  | .negotiateAlgorithms _ => false
  | .getDigests => false
  | .getCertificate => false
  | .challenge _ => false
  | .getMeasurements => false
  | .spdmUnsupported _ => false
  | .dstatRead => false
  | .columnLoss _ => false
  | .stripeRebuild _ => false
  | .busWireRemap _ _ _ => false
  | .busCalibration _ _ _ => false
  | .remapTableReload _ => false
  | .patrolScrub _ => false
  | .parityError _ => false
  | .telemetry _ => false
  | .clockStep _ _ => false
  | .stackShutdown _ => false
  | .mgmtConfigWrite _ => false
  | .nymnexPortDown _ => false
  | .nymnexPortRestored _ => false
  | .hostWriteIntoDieMemory _ _ => false
  | .debuggerRegisterChange _ _ => false

/-- The P words. -/
def Instr.isPWord : Instr → Bool
  | .nop => false
  | .bra _ => false
  | .brs _ => false
  | .brc _ => false
  | .call _ => false
  | .callv _ => false
  | .ret => false
  | .exit _ => false
  | .wait _ => false
  | .bar _ => false
  | .trap => false
  | .rft => false
  | .brk => false
  | .launch _ => false
  | .spawn _ => false
  | .test _ => false
  | .testb _ => false
  | .sand _ => false
  | .sor _ => false
  | .sxor _ => false
  | .sandn _ => false
  | .snot _ => false
  | .smov _ => false
  | .sclr _ => false
  | .sall _ => false
  | .sheld _ => false
  | .sfirst _ => false
  | .scnt _ => false
  | .suniF _ => false
  | .sld _ => false
  | .sst _ => false
  | .sqpush _ => false
  | .sqpop _ => false
  | .applyG _ => false
  | .applyF _ => false
  | .applykF _ => false
  | .fork _ => false
  | .aend => false
  | .iadd _ => false
  | .isub _ => false
  | .imul _ => false
  | .imulh _ => false
  | .imad _ => false
  | .div _ => false
  | .rem _ => false
  | .imin _ => false
  | .imax _ => false
  | .iabs _ => false
  | .ineg _ => false
  | .lea _ => false
  | .sel _ => false
  | .mov _ => false
  | .movi _ => false
  | .and _ => false
  | .or _ => false
  | .xor _ => false
  | .not _ => false
  | .shl _ => false
  | .shr _ => false
  | .sar _ => false
  | .rol _ => false
  | .ror _ => false
  | .popc _ => false
  | .clz _ => false
  | .bfe _ => false
  | .bfi _ => false
  | .fadd _ => false
  | .fsub _ => false
  | .fmul _ => false
  | .fma _ => false
  | .fmin _ => false
  | .fmax _ => false
  | .fldx _ => false
  | .fsplit _ => false
  | .frnd _ => false
  | .frcp _ => false
  | .frsq _ => false
  | .fsqrt _ => false
  | .exp2 _ => false
  | .exp2s _ => false
  | .log2 _ => false
  | .fsin _ => false
  | .fcos _ => false
  | .ftanh _ => false
  | .cvt _ => false
  | .qpack _ => false
  | .qunp _ => false
  | .gnorm _ => false
  | .shfl _ => false
  | .scat _ => false
  | .lred _ => false
  | .lscan _ => false
  | .bcast _ => false
  | .ld _ => false
  | .st _ => false
  | .lr _ => false
  | .sc _ => false
  | .fence _ => false
  | .tagl _ => false
  | .tags _ => false
  | .tagi _ => false
  | .presSet _ => false
  | .presClr _ => false
  | .strm _ => false
  | .strmx _ => false
  | .atom _ => false
  | .gmax _ => false
  | .gnext _ => false
  | .route _ => false
  | .cpa _ => false
  | .cpwait _ => false
  | .bcopy _ => false
  | .gather _ => false
  | .tlrd _ => false
  | .coll _ => false
  | .chsnd _ => false
  | .chrcv _ => false
  | .mldw _ => false
  | .mswp _ => false
  | .mstr _ => false
  | .mdrnRegisters _ => false
  | .mdrnScratchpad _ => false
  | .macq _ => false
  | .mrel _ => false
  | .desc _ => false
  | .ascd _ => false
  | .pmovToVector _ => false
  | .pmovToPath _ => false
  | .csrrTsw _ => false
  | .csrr _ => false
  | .csrwTsw _ => false
  | .csrwSlk _ => false
  | .csrwOvd _ => false
  | .csrwTstat _ => false
  | .rdclk _ => false
  | .tmark _ => false
  | .slkset _ => false
  | .slksetOne _ => false
  | .pNop _ => true
  | .pMov _ _ => true
  | .pIadd _ _ => true
  | .pIsub _ _ => true
  | .pAnd _ _ => true
  | .pOr _ _ => true
  | .pXor _ _ => true
  | .pShl _ _ => true
  | .pShr _ _ => true
  | .pSar _ _ => true
  | .pImin _ _ => true
  | .pImax _ _ => true
  | .pFadd _ _ => true
  | .pFsub _ _ => true
  | .pFmul _ _ => true
  | .pFmin _ _ => true
  | .pFmax _ _ => true
  | .pNot _ _ => true
  | .pIneg _ _ => true
  | .pIabs _ _ => true
  | .illegalWord => false
  | .instructionFetch _ => false
  | .frameRendezvousComplete _ _ => false
  | .appliedContextForm _ _ => false
  | .contextLend _ => false
  | .contextUnlend _ => false
  | .binTimerExpiry _ _ => false
  | .binFormOnSlot _ => false
  | .binPlacementResume _ => false
  | .fairnessTimer _ => false
  | .quarterIssue _ _ => false
  | .scoreboardWake _ => false
  | .loadReply _ _ => false
  | .storeAck _ => false
  | .atomicReply _ => false
  | .scOutcome _ => false
  | .longLatencyResult _ => false
  | .sldComplete _ => false
  | .setQueueComplete _ => false
  | .gnextComplete _ => false
  | .routeComplete _ => false
  | .tlrdValue _ => false
  | .launchAccepted _ => false
  | .translationComplete _ => false
  | .faultServiceComplete _ => false
  | .faultUnservable _ _ => false
  | .heldTrapRaise _ => false
  | .pageInvalidation _ _ => false
  | .cpaCopyComplete _ => false
  | .cpwaitComplete _ => false
  | .waitComplete _ => false
  | .waitTimeout _ => false
  | .waitWordReread _ => false
  | .streamLineIssue _ _ => false
  | .streamLineFilled _ => false
  | .bcopyComplete _ => false
  | .gatherRowComplete _ _ => false
  | .gatherComplete _ => false
  | .matrixPassGrant _ => false
  | .matrixPassComplete _ => false
  | .mldwComplete _ => false
  | .mswpTakesEffect _ => false
  | .mdrnComplete _ => false
  | .mrelRowsFreed _ => false
  | .descThreadComplete _ _ => false
  | .descLevel _ => false
  | .descComplete _ => false
  | .ascdComplete _ => false
  | .chsndSlotFree _ => false
  | .chsndSlotFilled _ => false
  | .chrcvDataReady _ => false
  | .chrcvCopyComplete _ => false
  | .channelDeadTrap _ => false
  | .collDescriptorRead _ => false
  | .collStep _ _ => false
  | .collPeerTimeout _ => false
  | .collComplete _ => false
  | .xbarGrant _ _ => false
  | .slackEpoch _ => false
  | .overdueTrap _ => false
  | .mireProbeLaunch _ _ => false
  | .mireProbeHop _ => false
  | .recoveryStep _ => false
  | .flitReceived _ => false
  | .peerAccessServe => false
  | .negativeResponse _ => false
  | .remoteTimeout _ => false
  | .lrReservationExpiry _ _ => false
  | .launchDoorbell _ _ => false
  | .launchRecordCheck _ => false
  | .dependenceRead _ => false
  | .dependencesMet _ => false
  | .bandPlacement _ => false
  | .teamMigration _ _ => false
  | .preemptionTimer _ => false
  | .preemptionStop _ => false
  | .loadDrainTimeout _ => false
  | .teamRestore _ _ => false
  | .launchComplete _ => false
  | .teamFree _ => false
  | .launchKill _ => false
  | .trapEntry _ => false
  | .dieHold _ => false
  | .dieArm _ => false
  | .dieDisarm _ => false
  | .preciseStop _ => false
  | .dieResume _ => false
  | .captureEnable _ => false
  | .captureDisable _ => false
  | .checkpointIntervalStart _ => false
  | .intervalEarlyEnd _ => false
  | .samplingEnable _ => false
  | .garnetTag _ => false
  | .garnetRecord _ => false
  | .setTraceEnable _ _ => false
  | .traceSync _ => false
  | .traceLoss _ => false
  | .tracePageDrop _ => false
  | .traceReadPageMove _ _ => false
  | .deviceReset => false
  | .firmwareVerify => false
  | .mgmtKernelStart _ => false
  | .reducedServiceBegin => false
  | .stackCalibration => false
  | .fullServiceBegin => false
  | .recoveryDoorbell _ => false
  | .firmwareNvmeWrite => false
  | .getVersion => false
  | .getCapabilities => false
  | .negotiateAlgorithms _ => false
  | .getDigests => false
  | .getCertificate => false
  | .challenge _ => false
  | .getMeasurements => false
  | .spdmUnsupported _ => false
  | .dstatRead => false
  | .columnLoss _ => false
  | .stripeRebuild _ => false
  | .busWireRemap _ _ _ => false
  | .busCalibration _ _ _ => false
  | .remapTableReload _ => false
  | .patrolScrub _ => false
  | .parityError _ => false
  | .telemetry _ => false
  | .clockStep _ _ => false
  | .stackShutdown _ => false
  | .mgmtConfigWrite _ => false
  | .nymnexPortDown _ => false
  | .nymnexPortRestored _ => false
  | .hostWriteIntoDieMemory _ _ => false
  | .debuggerRegisterChange _ _ => false

end Sys2Proof
end

