-- ==== Sys2Proof/Machine/Operands.lean ====
section
/-!
DEFINITION. Reading the operand forms of R315 to R323 and R52, and writing results as R109 gives.
-/

namespace Sys2Proof.Machine

/-! ### Constants (R316) -/

/-- The integer column of R316. -/
def constInt (i : BitVec 4) : Int :=
  [0, 1, 2, -1, 3, 4, 8, 16, 31, 32, 63, 64, 127, 128, 255, 65535].getD i.toNat 0

/-- The floating column of R316 in FP32. -/
def constFp32 : List Nat :=
  [0x00000000, 0x3F800000, 0x40000000, 0xBF800000, 0x3F000000, 0x3E800000, 0xBF000000, 0x40400000,
   0x40800000, 0x80000000, 0x7F800000, 0xFF800000, 0x7F7FFFFF, 0x7FC00000, 0x3FB8AA3B, 0x3F317218]
def constFp16 : List Nat :=
  [0x0000, 0x3C00, 0x4000, 0xBC00, 0x3800, 0x3400, 0xB800, 0x4200,
   0x4400, 0x8000, 0x7C00, 0xFC00, 0x7BFF, 0x7E00, 0x3DC5, 0x398C]
def constBf16 : List Nat :=
  [0x0000, 0x3F80, 0x4000, 0xBF80, 0x3F00, 0x3E80, 0xBF00, 0x4040,
   0x4080, 0x8000, 0x7F80, 0xFF80, 0x7F7F, 0x7FC0, 0x3FB9, 0x3F31]
/-- E4M3 has no infinities: the decoder rejects those two fields. -/
def constE4m3 : List Nat :=
  [0x00, 0x38, 0x40, 0xB8, 0x30, 0x28, 0xB0, 0x44, 0x48, 0x80, 0, 0, 0x7E, 0x7F, 0x3C, 0x33]
def constE5m2 : List Nat :=
  [0x00, 0x3C, 0x40, 0xBC, 0x38, 0x34, 0xB8, 0x42, 0x44, 0x80, 0x7C, 0xFC, 0x7B, 0x7E, 0x3E, 0x3A]

/-- A 16-bit element in both halves of a lane (R113). -/
def dup16 (x : Nat) : Nat := x % 2 ^ 16 + 2 ^ 16 * (x % 2 ^ 16)

/-- A constant field under a type, as the 64 bits that the type reads (R316). -/
def constOf (ty : Ty) (i : BitVec 4) : Word :=
  match ty with
  | .fp32 => BitVec.ofNat 64 (constFp32.getD i.toNat 0)
  | .fp16 => BitVec.ofNat 64 (dup16 (constFp16.getD i.toNat 0))
  | .bf16 => BitVec.ofNat 64 (dup16 (constBf16.getD i.toNat 0))
  | .e4m3 => BitVec.ofNat 64 (constE4m3.getD i.toNat 0)
  | .e5m2 => BitVec.ofNat 64 (constE5m2.getD i.toNat 0)
  | _ => BitVec.ofInt 64 (constInt i)

/-! ### Reading -/

/-- The 64 bits of a register pair (R109). -/
def Thread.pair (t : Thread) (n : Nat) : Word := (t.reg (n + 1)).val ++ (t.reg n).val

end Sys2Proof.Machine

namespace Sys2Proof

open Machine

/-- A vector source of a thread (R315, R52). -/
def VSrc.read (v : VSrc) (ty : Ty) (e : Env) (s : State) (t : Nat) : Word :=
  match v with
  | .reg n => if ty.is64 then (e.thread s t).pair n.toNat else ((e.thread s t).reg n.toNat).val.setWidth 64
  | .tid => BitVec.ofNat 64 t
  | .lane => BitVec.ofNat 64 (e.act.lanes.idxOf t)
  | .home => BitVec.ofNat 64 (t % e.rcd.w)
  | .core => BitVec.ofNat 64 e.ctx.core
  | .const i => constOf ty i

end Sys2Proof

namespace Sys2Proof.Machine

/-- `%fcard` (R52, R94): the innermost frame's members, 0 outside every frame. -/
def Env.fcard (e : Env) : Nat :=
  match e.ctx.frames with
  | [] => 0
  | f :: _ => ((e.team.frames.get? f).map (·.members.length)).getD 0

/-- The quad of a core within its die (R10). -/
def quadOf (core : Nat) : Nat := core % 384 / 4

end Sys2Proof.Machine

namespace Sys2Proof

open Machine

/-- A uniform source (R315, R52). -/
def USrc.read (u : USrc) (e : Env) : Word :=
  match u with
  | .reg n => (e.act.u n.toNat).val
  | .team => BitVec.ofNat 64 e.team.id
  | .nteams => BitVec.ofNat 64 e.launch.count
  | .tsize => BitVec.ofNat 64 e.team.size
  | .w => BitVec.ofNat 64 e.rcd.w
  | .launch => BitVec.ofNat 64 e.team.launch
  | .fcard => BitVec.ofNat 64 e.fcard
  | .die => BitVec.ofNat 64 (dieOf e.ctx.core)
  | .quad => BitVec.ofNat 64 (quadOf e.ctx.core)

/-- Source b under an integer type, whole (R322, R319): its low bits are the operand. -/
def BSrc.readInt (b : BSrc) (ty : Ty) (e : Env) (s : State) (t : Nat) : Word :=
  match b with
  | .vec v => v.read ty e s t
  | .uni u => u.read e
  | .imm i => i.signExtend 64
  | .lit l => l.signExtend 64

end Sys2Proof

namespace Sys2Proof.Machine

/-- An imm8 as a value of a floating format (R322). -/
def immFloat (f : Fmt) (i : BitVec 8) : Nat := (f.roundInt .rne i.toInt 0).bits

end Sys2Proof.Machine

namespace Sys2Proof

open Machine

/-- Source b under a floating type: a lane's 32 bits, 16-bit operands in both halves (R113, R364). -/
def BSrc.readFloat (b : BSrc) (ty : Ty) (e : Env) (s : State) (t : Nat) : Nat :=
  let both (x : Nat) : Nat := if ty.packed then dup16 x else x % 2 ^ 32
  match b with
  | .vec v => (v.read ty e s t).toNat % 2 ^ 32
  | .uni u => both (u.read e).toNat
  | .imm i => both (immFloat ty.fmt i)
  | .lit l => both l.toNat

/-- An operand that an entry reads as a 32-bit integer whatever the type (R316, R366, R397). -/
def BSrc.readIndex (b : BSrc) (e : Env) (s : State) (t : Nat) : BitVec 32 := (b.readInt .int32 e s t).setWidth 32

/-- Source a or c of an arithmetic word. -/
def ASrc.read (a : ASrc) (ty : Ty) (e : Env) (s : State) (t : Nat) : Word :=
  match a with
  | .none => 0
  | .vec v => v.read ty e s t
  | .uni u => u.read e

end Sys2Proof

namespace Sys2Proof.Machine

/-- The elements of a lane under a floating type (R113). -/
def elements (ty : Ty) (x : Nat) : List Nat := if ty.packed then [x % 2 ^ 16, x / 2 ^ 16 % 2 ^ 16] else [x % 2 ^ 32]

/-- A lane from its elements. -/
def fromElements (l : List Nat) : Nat :=
  match l with
  | [x] => x
  | x :: y :: _ => x + 2 ^ 16 * y
  | [] => 0

/-! ### Writing -/

/-- Write an integer result of a type to a thread (R109). -/
def Env.putV (e : Env) (s : State) (ty : Ty) (t d : Nat) (x : Word) : State :=
  if ty.is64 then e.setV64 s t d x else e.setV s t d ((extend ty.width ty.signed x).setWidth 32)

/-- Write an integer result of a type to a uniform register (R109). -/
def Env.putU (e : Env) (s : State) (ty : Ty) (d : Nat) (x : Word) : State :=
  e.setU s d (extend ty.width ty.signed x)

/-! ### What operands need (R317, R409) -/

end Sys2Proof.Machine

namespace Sys2Proof

open Machine

def VSrc.need (v : VSrc) (wide mode : Bool) : List (Nat × Bool) :=
  match v with
  | .reg n => if wide then [(n.toNat, mode), (n.toNat + 1, mode)] else [(n.toNat, mode)]
  | _ => []

def USrc.need (u : USrc) (mode : Bool) : List (Nat × Bool) :=
  match u with
  | .reg n => [(n.toNat, mode)]
  | _ => []

def BSrc.needV (b : BSrc) (wide mode : Bool) : List (Nat × Bool) :=
  match b with
  | .vec v => v.need wide mode
  | _ => []

def BSrc.needU (b : BSrc) (mode : Bool) : List (Nat × Bool) :=
  match b with
  | .uni u => u.need mode
  | _ => []

def ASrc.needV (a : ASrc) (wide mode : Bool) : List (Nat × Bool) :=
  match a with
  | .vec v => v.need wide mode
  | _ => []

def ASrc.needU (a : ASrc) (mode : Bool) : List (Nat × Bool) :=
  match a with
  | .uni u => u.need mode
  | _ => []

end Sys2Proof

namespace Sys2Proof.Machine

/-- A vector destination of a type. -/
def destV (d : Nat) (wide : Bool) : List Nat := if wide then [d, d + 1] else [d]

end Sys2Proof.Machine

namespace Sys2Proof

open Machine

/-- What an arithmetic word reads and writes; `span` vector destinations follow from d. -/
def Arith.needs (o : Arith) (pairD : Bool := false) : Needs :=
  let wide := o.ty.is64
  { u := o.a.needU o.ra ++ o.b.needU o.rb ++ o.c.needU o.rc
    v := o.a.needV wide o.ra ++ o.b.needV wide o.rb ++ o.c.needV wide o.rc
    du := if o.uform then [o.d.toNat] else []
    dv := if o.uform then [] else destV o.d.toNat (wide || pairD) }

end Sys2Proof

namespace Sys2Proof.Machine

/-- What a memory operand `[base + index + offset]` reads (R321). -/
def memNeedsU (base : USrc) (ra : Bool) : List (Nat × Bool) := base.need ra
def memNeedsV (idx : Option VSrc) (rb : Bool) : List (Nat × Bool) :=
  match idx with
  | some v => v.need false rb
  | none => []

end Sys2Proof.Machine

namespace Sys2Proof

open Machine

/-- The byte offset of a memory operand, imm8 × scale or the X word (R321, R229). -/
def Off.bytes (o : Off) (scale : Nat) : Word :=
  match o with
  | .imm i => i.signExtend 64 * BitVec.ofNat 64 scale
  | .wide l => l.signExtend 64

/-- A code target from the address of the instruction's first word (R320). -/
def Target.addr (t : Target) (at' : Nat) : Nat :=
  let o : Int := match t with
    | .near o => o.toInt
    | .far o => o.toInt
  (((at' : Int) + 8 * o) % 2 ^ 64).toNat

end Sys2Proof
end

