-- ==== Sys2Proof/Machine/Pend.lean ====
section
/-!
DEFINITION. Operations that are issued and not complete (R22): their names, the registers that wait for them, presence
(R156), timelines (R163), batch tags (R162), overdue completions (R207), traps held for a path (R179).
-/

namespace Sys2Proof.Machine

/-! ### Presence (R156) -/

/-- The key of a scratchpad line of a core. -/
def lineKey (core off : Nat) : Nat := core * 4096 + off / 128 % 4096

def State.linePresent (s : State) (k : Nat) : Bool := !(s.core (k / 4096)).absent.contains (k % 4096)

def State.clearLine (s : State) (k : Nat) : State :=
  s.modCore (k / 4096) fun c => { c with absent := insertNat (k % 4096) (c.absent.filter (· ≠ k % 4096)) }
def State.setLine (s : State) (k : Nat) : State :=
  s.modCore (k / 4096) fun c => { c with absent := c.absent.filter (· ≠ k % 4096) }

/-- The lines that a logged copy still fills. -/
def LogEntry.fills (l : LogEntry) (core : Nat) : List Nat :=
  match l.acc.kind with
  | .cpa _ => l.acc.items.map fun i => lineKey core i.dst
  | _ => []

/-- Whether some operation in flight fills a line. -/
def State.filling (s : State) (k : Nat) : Bool :=
  (s.pend.any fun p => p.2.fills.contains k) || s.ctxs.any fun p => p.2.log.any fun l => (l.fills p.2.core).contains k

/-- The bits of the lines that an operation filled are set where no other operation still fills them. -/
def State.filled (s : State) (lines : List Nat) : State :=
  forEach lines (fun s k => if s.filling k then s else s.setLine k) s

/-! ### Timelines (R163) and tags (R162) -/

/-- The number of the next operation of a timeline, and the context that has issued it. -/
def Ctx.number (c : Ctx) (tl : Nat) : Nat × Ctx :=
  let k := c.issued.getD tl 0 + 1
  (k, { c with issued := c.issued.set tl k })

/-- The counter moves over completed numbers. -/
def advanceFrom (done : List Nat) : Nat → Nat → Nat
  | 0, k => k
  | n + 1, k => if done.contains (k + 1) then advanceFrom done n (k + 1) else k

/-- Operation k of a timeline is complete. -/
def Ctx.completeTl (c : Ctx) (tl k : Nat) : Ctx :=
  let done := k :: c.doneOps.getD tl []
  let n := advanceFrom done done.length (c.tl.getD tl 0)
  { c with tl := c.tl.set tl n, doneOps := c.doneOps.set tl (done.filter (· > n)) }

def Ctx.tag (c : Ctx) (t : Nat) : Nat := c.tags.getD t 0

/-- A copy under a tag is complete. -/
def Ctx.lowerTag (c : Ctx) (t : Nat) : Ctx :=
  { c with tags := c.tags.set t (c.tag t - 1), tagDone := c.tagDone.set t (c.tagDone.getD t 0 + 1) }

/-! ### Held traps (R179, R207) -/

/-- OVD after an overdue `.ov` completion (R207). -/
def ovdBump (w : Word) (cls : BitVec 2) : Word :=
  let n := (w.extractLsb' 0 16).toNat
  0#46 ++ cls ++ BitVec.ofNat 16 (if n = 0xFFFF then n else n + 1)

/-- Hold a trap for a path until its next instruction boundary. -/
def Ctx.hold (c : Ctx) (uid : Nat) (t : TrapInfo) : Ctx :=
  if t.code = 0x0A && c.held.any (fun h => h.uid = uid && h.trap.code = 0x0A) then c
  else { c with held := c.held ++ [⟨uid, t⟩] }

/-- The launch record that a context runs under. -/
def State.launchRecord (s : State) (c : Ctx) : Option Record :=
  ((s.teams.get? c.team).bind fun t => s.launches.get? t.launch).bind (·.record)

/-- An overdue `.ov` completion: OVD, and OVERDUE for the issuing path if the launch record enables it (R207). -/
def State.overdueDone (s : State) (ctx uid : Nat) (cls : BitVec 2) : State :=
  let ovt := (((s.ctxs.get? ctx).bind s.launchRecord).map (·.ovt)).getD false
  s.modCtx ctx fun c =>
    let c := { c with ovd := ovdBump c.ovd cls }
    if ovt && (c.byUid uid).isSome then
      c.hold uid { code := 0x0A, pc := 0, uni := true, tids := [], entry := none, op := none, len := 0 }
    else c

/-! ### Results -/

/-- Fill a uniform register of an activation, and of a handler that started with its copy while it was empty. -/
def fillUni (uid : Nat) (f : Act → Act) (empty : Act → Bool) : List Act → List Act
  | [] => []
  | h :: rest =>
    let rest' := fillUni uid f empty rest
    if h.uid = uid then f h :: rest'
    else
      match h.kind, rest with
      | .handler _, p :: _ => if p.uid = uid && empty h then f h :: rest' else h :: rest'
      | _, _ => h :: rest'

def Ctx.fillAct (c : Ctx) (uid : Nat) (f : Act → Act) (empty : Act → Bool) : Ctx :=
  { c with p0 := fillUni uid f empty c.p0, p1 := fillUni uid f empty c.p1 }

/-- Write one result of an operation of a context's path; its register becomes full. -/
def State.deliver (s : State) (ctx team uid : Nat) (r : Res) : State :=
  match r with
  | .v t n x => s.modThread team t fun th => if th.done then th else th.setL n x
  | .h t n x => s.modThread team t fun th => if th.done then th else { th with h := th.h.set n ⟨x, true⟩ }
  | .flags t f => s.modThread team t fun th => if th.done then th else th.flag f
  | .u n x => s.modCtx ctx fun c => c.fillAct uid (fun a => a.setU n x) (fun a => !(a.u n).full)
  | .k n x => s.modCtx ctx fun c => c.fillAct uid (fun a => a.setK n x) (fun a => !(a.kr n).full)

/-- Mark the register of a result empty (R51). -/
def Env.emptyRes (e : Env) (s : State) (r : Res) : State :=
  match r with
  | .v t n _ => e.modThread s t (·.empty n)
  | .h t n _ => e.modThread s t fun th => { th with h := th.h.set n ⟨(th.path n).val, false⟩ }
  | .flags _ _ => s
  | .u n _ => e.modAct s (·.emptyU n)
  | .k n _ => e.modAct s (·.emptyK n)

/-- The results that an integer value of a type makes in a thread's window (R109). -/
def Env.resV (e : Env) (s : State) (ty : Ty) (t d : Nat) (x : Word) : List Res :=
  let b := (e.thread s t).base + d
  if ty.is64 then [.v t b (x.setWidth 32), .v t (b + 1) ((x >>> 32).setWidth 32)]
  else [.v t b ((extend ty.width ty.signed x).setWidth 32)]

/-- A result of one lane in a thread's window. -/
def Env.resL (e : Env) (s : State) (t d : Nat) (x : Lane) : Res := .v t ((e.thread s t).base + d) x

/-! ### Operations -/

/-- An operation of the instruction at issue. -/
def Env.newOp (e : Env) (s : State) (w : Work) : Op :=
  { ctx := e.ref.ctx, team := e.ctx.team, core := e.ctx.core, exited := false, uid := e.act.uid, pc := e.addr, work := w, res := [], tl := 5, num := 0, ov := false, cls := 0,
    late := false, leg := .arrived, since := s.cycOf e.ctx.core, peer := false, fills := [], srcs := [], tainted := false,
    faults := [], failed := none, acc := none, slack := 0, reqs := 0, sent := 0, away := 0, finished := false, seen := [], gone := [] }

/-- Post an operation; the registers of its results become empty. Answers its name. -/
def Env.post (e : Env) (s : State) (o : Op) : Nat × State :=
  let (id, s) := s.name
  (id, forEach o.res (fun s r => e.emptyRes s r) { s with pend := s.pend.set id o })

/-- Post an operation that only writes registers. -/
def Env.pending (e : Env) (s : State) (w : Work) (rs : List Res) : State :=
  (e.post s { e.newOp s w with res := rs }).2

/-- An operation of a context's timeline: its number, and the context that has issued it. -/
def Env.numbered (e : Env) (s : State) (tl : Nat) : Nat × State :=
  match s.ctxs.get? e.ref.ctx with
  | none => (0, s)
  | some c => ((c.number tl).1, s.modCtx e.ref.ctx fun c => (c.number tl).2)

def State.modOp (s : State) (id : Nat) (f : Op → Op) : State := { s with pend := s.pend.modify id f }
def State.teamOf (s : State) (ctx : Nat) : Nat := ((s.ctxs.get? ctx).map (·.team)).getD 0

/-- The epoch boundaries that have passed since a cycle (R204). -/
def boundaries (since now : Nat) : Nat := now / 16 - since / 16

/-- The slack that is left of an operation that an engine holds (R203). -/
def Op.slackNow (o : Op) (now : Nat) : Nat := o.slack - boundaries o.since now

/-- Whether an operation is held by an engine, or by an array's load or drain port, until it completes (R144, R203). -/
def Op.engine (o : Op) : Bool :=
  match o.work with
  | .mdrn _ _ _ _ _ => true
  | _ => decide (o.tl < 5)

/-- Whether a completion is overdue (R206, R207): a packet of it was, or its own slack is used up. -/
def Op.overdue (o : Op) (now : Nat) : Bool := o.late || (o.engine && o.slackNow now = 0)

/-- Note something of the instructions that garnet follows on a core, of that at an address of a path (R288, R289). -/
def State.note (s : State) (core uid pc : Nat) (f : Tagged → Tagged) : State :=
  if (s.core core).tagged.any fun t => t.uid = uid && t.pc = pc then
    s.modCore core fun c => { c with tagged := c.tagged.map fun t => if t.uid = uid && t.pc = pc then f t else t }
  else s

/-- The instruction at issue parks on absent lines (R156). -/
def Env.parkAbsent (e : Env) (s : State) : State :=
  e.park (s.note e.ctx.core e.act.uid e.addr fun t => { t with flags := t.flags ||| 4#4 }) (.again .presence)

/-- A result of an operation is written: its first write-back, if garnet follows it. -/
def State.noteResult (s : State) (o : Op) : State :=
  s.note o.core o.uid o.pc fun t => { t with
    result := if t.result.isSome then t.result else some (s.cycOf o.core) }

/-- A part of an `.ov` instruction has completed overdue: OVD changes once, when its last part completes; until then another
operation of it, its operand-log entry, or its stream holds that it was (R207). -/
def State.partLate (s : State) (ctx uid pc sent : Nat) (cls : BitVec 2) (stream : Option Nat) : State :=
  let mine (o : Op) : Bool := o.ov && o.ctx = ctx && o.uid = uid && o.pc = pc && o.sent = sent
  let logged (l : LogEntry) : Bool := l.acc.ov && l.acc.uid = uid && l.acc.pc = pc && l.acc.sent = sent
  let streams (q : Nat × Stream) : Bool := some q.2.id = stream
  match s.pend.find? fun p => mine p.2, s.ctxs.get? ctx with
  | some p, _ => s.modOp p.1 fun o => { o with late := true }
  | none, some c =>
    if c.log.any logged then
      s.modCtx ctx fun c => { c with log := c.log.map fun l => if logged l then { l with acc := { l.acc with late := true } } else l }
    else if c.streams.any streams then
      s.modCtx ctx fun c => { c with streams := c.streams.map fun q => if streams q then (q.1, { q.2 with tardy := true }) else q }
    else s.overdueDone ctx uid cls
  | none, none => s

/-- The stream of a line fill. -/
def Work.streamId (w : Work) : Option Nat :=
  match w with
  | .stream _ _ id => some id
  | _ => none

/-- An operation is complete: its results, its timeline number, the lines it filled, an overdue completion; its
context retires if nothing else keeps it (R164). -/
def State.finishOp (s : State) (id : Nat) : State :=
  match s.pend.get? id with
  | none => s
  | some o =>
    let team := o.team
    let s := { s with pend := s.pend.erase id }.noteResult o
    let s := forEach o.res (fun s r => s.deliver o.ctx team o.uid r) s
    let s := if o.tl < 5 then s.modCtx o.ctx (·.completeTl o.tl o.num) else s
    let s := s.filled o.fills
    let late := o.overdue (s.cycOf o.core)
    let s := if late then s.note o.core o.uid o.pc fun t => { t with flags := t.flags ||| 8#4 } else s
    let s := if o.ov && late then s.partLate o.ctx o.uid o.pc o.sent o.cls o.work.streamId else s
    s.settle team

/-- Whether an operation's packets have done their way, so that it can complete (R199, R205). -/
def Op.arrived? (o : Op) : Bool := o.leg = .arrived && o.faults = [] && o.failed.isNone

/-- The pending operations of a context of some kind. -/
def State.opsOf (s : State) (ctx : Nat) (p : Op → Bool) : List (Nat × Op) :=
  s.pend.filter fun q => q.2.ctx = ctx && p q.2

end Sys2Proof.Machine
end

