-- ==== Sys2Proof/Machine/Xlat.lean ====
section
/-!
DEFINITION. Translation (R169 to R175, R180): the table walk, the leaf's checks, the TLBs, and the place that a
translated address names.
-/

namespace Sys2Proof.Machine

/-- What an access needs of its leaf. -/
inductive Need where
  | read
  | write
  | both
  | fetch
deriving DecidableEq, Repr

/-- The outcomes of R175. -/
inductive XOut where
  | ok (leaf : Word) (big : Bool)
  | absent
  | prot
  | bad
deriving DecidableEq, Repr

/-! ### Leaf fields (R173) -/

def leafPeer (w : Word) : Nat := (w.extractLsb' 48 10).toNat
def leafDpl (w : Word) : Nat := (w.extractLsb' 58 2).toNat
def leafFrame (w : Word) : Nat := (w.extractLsb' 16 32).toNat
def leafK (w : Word) : Bool := w.getLsbD 6
def leafSc (w : Word) : Bool := w.getLsbD 5
def leafX (w : Word) : Bool := w.getLsbD 4
def leafW (w : Word) : Bool := w.getLsbD 3
def leafR (w : Word) : Bool := w.getLsbD 2

/-- A leaf that R173 allows; `big` says that it stands at level 3. -/
def leafOk (w : Word) (big : Bool) : Bool :=
  w.extractLsb' 60 4 = 0 && !w.getLsbD 1 && w.extractLsb' 8 8 = 0 && decide (leafDpl w ≤ 1)
  && (if 0 < leafPeer w && leafPeer w < 0x3FF then leafFrame w = 0
      else !big || w.extractLsb' 16 10 = 0)

/-- A non-leaf entry that R173 allows. -/
def nodeOk (w : Word) : Bool :=
  w.extractLsb' 48 16 = 0 && !w.getLsbD 1 && w.extractLsb' 8 5 = 0 && w.extractLsb' 2 5 = 0

/-- The walk from a table, with n levels left (R172). -/
def walkFrom (mem : List Host.Cell) (va : Nat) : Nat → Nat → XOut
  | 0, _ => .bad
  | n + 1, table =>
    let i := va / 2 ^ (16 + 10 * n) % 1024
    let w : Word := BitVec.ofNat 64 (memNat mem (dieKey (table + 8 * i)) 8)
    if !w.getLsbD 0 then .absent
    else if w.getLsbD 7 then
      if n ≥ 2 || !leafOk w (n = 1) then .bad else .ok w (n = 1)
    else if n = 0 || !nodeOk w then .bad
    else walkFrom mem va n ((w.extractLsb' 13 35).toNat * 2 ^ 13)

/-- The entries that a walk from a table reads, with n levels left, as keys of memory (R172). -/
def walkReads (mem : List Host.Cell) (va : Nat) : Nat → Nat → List Nat
  | 0, _ => []
  | n + 1, table =>
    let k := dieKey (table + 8 * (va / 2 ^ (16 + 10 * n) % 1024))
    let w : Word := BitVec.ofNat 64 (memNat mem k 8)
    if w.getLsbD 0 && !w.getLsbD 7 && nodeOk w then k :: walkReads mem va n ((w.extractLsb' 13 35).toNat * 2 ^ 13) else [k]

/-- The walk from a launch's translation root. -/
def walk (mem : List Host.Cell) (root va : Nat) : XOut := walkFrom mem va 4 root

/-- The page of an address. -/
def pageOf (big : Bool) (va : Nat) : Nat := if big then va / 2 ^ 26 * 2 ^ 26 else va / 2 ^ 16 * 2 ^ 16

/-- The entry of a TLB that holds an address. -/
def tlbHit (l : List TlbEntry) (root va : Nat) : Option TlbEntry :=
  l.find? fun t => t.root = root && t.page = pageOf t.big va

/-- What the leaf lets through (R174, R175). -/
def XOut.check (o : XOut) (n : Need) : XOut :=
  match o with
  | .ok w big =>
    let fine := match n with
      | .read => leafR w
      | .write => leafW w
      | .both => leafR w && leafW w
      | .fetch => leafX w
    if fine && !leafK w then .ok w big else .prot
  | o => o

/-- The cached leaf of an address, in the core's TLB or the die's (R169, R170). -/
def State.cached (s : State) (core : Option Nat) (die root va : Nat) : Option TlbEntry :=
  match core.bind fun c => tlbHit (s.core c).tlb root va with
  | some t => some t
  | none => tlbHit (s.die die).tlb root va

/-- Put a leaf into the TLBs, dropping the oldest entries past their sizes (R170). -/
def State.fillTlb (s : State) (core : Option Nat) (die : Nat) (t : TlbEntry) : State :=
  let add (n : Nat) (l : List TlbEntry) : List TlbEntry := (t :: l.filter (· ≠ t)).take n
  let s := s.modDie die fun d => { d with tlb := add 6144 d.tlb }
  match core with
  | none => s
  | some c => s.modCore c fun k => { k with tlb := add 192 k.tlb }

/-- Translate an address for a core or a die's engine (R169 to R175). A cached leaf that the tables no longer
hold is used or not, as R180 leaves open. -/
def State.xlate (s : State) (core : Option Nat) (die root va : Nat) (n : Need) : XOut × State :=
  let w := walk s.mem root va
  match s.cached core die root va with
  | some t =>
    let old : XOut := .ok t.leaf t.big
    if old = w then (old.check n, s)
    else
      let (_, s') := s.free
      if Config.freeBool s.fresh then (old.check n, s') else (w.check n, s')
  | none =>
    match w with
    | .ok leaf big => (w.check n, s.fillTlb core die ⟨root, pageOf big va, big, leaf⟩)
    | o => (o, s)

/-- Translate an address for an agent of the hub, which has no TLB here. -/
def State.xlateHub (s : State) (root va : Nat) (n : Need) : XOut := (walk s.mem root va).check n

/-- The place that a leaf gives an address: a key of memory, or a peer device's memory (R173). `die` is the
accessing agent's die, none for the hub's agents. -/
def leafKey (leaf : Word) (big : Bool) (va : Nat) (die : Option Nat) : Option Nat :=
  let off := if big then va % 2 ^ 26 else va % 2 ^ 16
  let a := leafFrame leaf * 2 ^ 16 + off
  if leafPeer leaf = 0 then
    match die with
    | some d =>
      if leafDpl leaf = 1 then some (dieKey (a / 2 ^ 42 * 2 ^ 42 + d % 4 * 2 ^ 40 + a % 2 ^ 40))
      else some (dieKey a)
    | none => some (dieKey a)
  else if leafPeer leaf = 0x3FF then some (hostKey a)
  else none

/-- Whether the column that holds a byte is poisoned (R307 to R309). -/
def State.columnBad (s : State) (k : Nat) : Bool :=
  (s.cores.any fun p => p.2.poisoned) &&
    (if k < 2 ^ 48 then (s.core (Config.columnOf k)).poisoned
     else 2 ^ 50 ≤ k && (s.core ((k - 2 ^ 50) / 2 ^ 29)).poisoned)

/-- Whether a byte is poisoned: its sector (R305) or its column's traffic (R309). -/
def State.poisonAt (s : State) (k : Nat) : Bool := s.poison.contains (k / 64) || s.columnBad k

/-- Whether some of n bytes are poisoned. -/
def State.poisonIn (s : State) (k n : Nat) : Bool :=
  (!s.poison.isEmpty || s.cores.any fun p => p.2.poisoned) && (List.range n).any fun i => s.poisonAt (k + i)

end Sys2Proof.Machine
end

