-- ==== Sys2Proof/Machine/Image.lean ====
section
/-!
DEFINITION. The spill and save areas of a team (R410): where its parts lie, the set store and the homes of set slots (R67), and the
image of a context that is lent or saved (R36, R64, R271): what is written, what a debugger may change there, and what its
restoration reads back.
-/

namespace Sys2Proof.Machine

/-! ### The areas (R25, R43, R410) -/

/-- The tids of a span (R43). -/
def Record.span (r : Record) : Nat := r.tsize + r.spare
/-- Whether its teams are pair teams (R25). -/
def Record.pair (r : Record) : Bool := decide (1024 < r.tsize)
/-- The tids of the span on each core of a team: spare tids of a pair lie on the follower (R25, R260). -/
def Record.tidsOn (r : Record) : List Nat := if r.pair then [1024, r.span - 1024] else [r.span]

/-- T of R410: the spill and save areas of n tids on one core. -/
def spillArea (n vregs : Nat) : Nat :=
  let t := 0x10000 + 0x400000 + n * ((4 * vregs + 64 + 255) / 256 * 256) + n * 4096
  (t + 0xFFFF) / 0x10000 * 0x10000

/-- What a team's global spill allocation holds: T of each core without a column window (R410). -/
def Record.spillNeed (r : Record) : Nat :=
  let l := r.tidsOn.map fun n => spillArea n r.vregs
  (if r.col = 0 then l else l.tail).sum

/-- The bytes of a thread record (R410). -/
def Record.threadRecord (r : Record) : Nat := (4 * r.vregs + 64 + 255) / 256 * 256

/-- The key of memory of a byte of a team's block on one of its cores (R410): in its column allocation, else in its global spill
allocation, the leader core's block first there. None where the page is not present, and where the allocation comes from the
management kernel's reserve, whose address the manual does not state (log 41). -/
def State.areaKey (s : State) (t : Team) (side off : Nat) : Option Nat :=
  match s.launches.get? t.launch with
  | none => none
  | some l =>
    match l.record with
    | none => none
    | some r =>
      let core := t.cores.getD side 0
      if r.col ≠ 0 && side = 0 then some (colKey core (t.colBase + t.visible + off))
      else if r.gspill = 0 then none
      else
        let first := if r.col = 0 && side = 1 then spillArea (r.tidsOn.headD 0) r.vregs else 0
        let va := (t.spillBase + r.gspill - r.spillNeed + first + off) % 2 ^ 64
        match walk s.mem l.root va with
        | .ok leaf big => leafKey leaf big va (some (dieOf core))
        | _ => none

/-- The device writes bytes to a team's block. -/
def State.writeArea (s : State) (t : Team) (side off : Nat) (bs : List Byte) : State :=
  match s.areaKey t side off with
  | some k => { s with mem := memWrites s.mem k bs }
  | none => s

/-! ### The set store (R67) -/

/-- The bytes of a set slot: bit i of the bitmap is bit i mod 8 of byte i / 8 (log 41). -/
def SetSlot.bytes (x : SetSlot) : List Byte := natLE ((x.bits.getD 0).toNat) 256

/-- A slot of the set store of a core is written back to its home. -/
def State.writeHome (s : State) (core : Nat) (x : Nat × Nat) : State :=
  match s.teams.get? x.1 with
  | none => s
  | some t =>
    let side := t.side core
    match t.slots.get? (slotKey side x.2) with
    | none => s
    | some y =>
      (if y.dirty then s.writeArea t side (256 * x.2) y.bytes else s).modTeam x.1 fun t =>
        { t with slots := t.slots.set (slotKey side x.2) { y with dirty := false } }

/-- The set slots in use on a core, with whether each has been made since it was last written back. -/
def State.slotsOn (s : State) (core : Nat) : List ((Nat × Nat) × Bool) :=
  s.teams.flatMap fun p =>
    if p.2.freed || !p.2.cores.contains core then []
    else p.2.slots.filterMap fun q =>
      if q.1 % 2 = p.2.side core && q.2.bits.isSome then some ((p.1, q.1 / 2), q.2.dirty) else none

/-- The set store of a core after it was used: the slots named come first, then those that are new, then the others by their last
use; those past 256 are written back, the least recently used first. -/
def State.useStore (s : State) (core : Nat) (named : List (Nat × Nat)) : State :=
  let live := s.slotsOn core
  let old := (s.core core).store.filter fun x => live.any (·.1 = x)
  let new := (live.filter fun p => p.2 && !old.contains p.1).map Prod.fst
  let first := named.eraseDups.filter fun x => live.any (·.1 = x)
  let all := first ++ (new ++ old).filter (!first.contains ·)
  if all = (s.core core).store then s
  else (forEach (all.drop 256).reverse (fun s x => s.writeHome core x) s).modCore core fun c => { c with store := all.take 256 }

/-- The slots of a team that are in the set stores of its cores return to their homes. -/
def State.flushStore (s : State) (key : Nat) : State :=
  match s.teams.get? key with
  | none => s
  | some t => forEach t.cores (fun s core =>
      (forEach (((s.useStore core []).core core).store.filter (·.1 = key)) (fun s x => s.writeHome core x) (s.useStore core [])).modCore
        core fun c => { c with store := c.store.filter (·.1 ≠ key) }) s

/-! ### The layout of an image -/

/-- The layout of a set register (R64). -/
def SetForm.image (f : SetForm) : BitVec 128 :=
  match f with
  | .empty => 0
  | .inline base mask => 1#2 ++ 0#57 ++ BitVec.ofNat 5 base ++ mask
  | .handle slot gen card => 2#2 ++ 0#26 ++ BitVec.ofNat 12 card ++ BitVec.ofNat 16 gen ++ BitVec.ofNat 8 slot ++ 0#64
  | .raw b => b

/-- The form that 128 bits hold, or the bits themselves where they break R64. -/
def formOf (b : BitVec 128) : SetForm :=
  let f := (b.extractLsb' 126 2).toNat
  if f = 0 && b = 0 then .empty
  else if f = 1 && b.extractLsb' 69 57 = 0 && b.extractLsb' 0 64 ≠ 0 then
    .inline (b.extractLsb' 64 5).toNat (b.extractLsb' 0 64)
  else if f = 2 && b.extractLsb' 100 26 = 0 && b.extractLsb' 0 64 = 0 then
    .handle (b.extractLsb' 64 8).toNat (b.extractLsb' 72 16).toNat (b.extractLsb' 88 12).toNat
  else .raw b

def zeroBytes (n : Nat) : List Byte := List.replicate n 0

/-- The header of a context's image (R271). -/
def Ctx.imageHead (c : Ctx) : List Byte :=
  natLE 0x43540001 4 ++ natLE (if c.p1 = [] then 1 else 3) 1 ++ zeroBytes 3 ++ natLE c.tstat.toNat 8 ++ natLE c.ovd.toNat 8
    ++ natLE c.slk.toNat 8 ++ ((List.range 8).flatMap fun i => natLE (c.tags.getD i 0) 2)
    ++ ((List.range 5).flatMap fun i => natLE (c.tl.getD i 0) 8) ++ zeroBytes 40

/-- The section of a path (R271). -/
def Act.image (a : Act) : List Byte :=
  let fulls := ((List.range 160).map fun i => if (a.u i).full then 2 ^ i else 0).sum
  natLE a.pc 8 ++ natLE a.lanes.length 2 ++ zeroBytes 6
    ++ ((List.range 64).flatMap fun i => natLE (a.lanes.getD i 0xFFFF) 2)
    ++ ((List.range 160).flatMap fun i => natLE (a.u i).val.toNat 8) ++ natLE fulls 20 ++ zeroBytes 4
    ++ ((List.range 16).flatMap fun i => natLE (a.kr i).form.image.toNat 16) ++ zeroBytes 88

/-- The documented sections of a context's image (R271): its header and its path slots. -/
def Ctx.imageBytes (c : Ctx) : List Byte :=
  c.imageHead ++ (c.p0.take 1 ++ c.p1.take 1).flatMap Act.image

/-- Where the section of a path slot lies in an image. -/
def sectionAt (slot : Nat) : Nat := 128 + 1792 * slot

/-! ### Its place (R271, R410) -/

/-- The images of a team's save area on a core that are in use, beside that of a context. -/
def State.imagesUsed (s : State) (id : Nat) (c : Ctx) : List Nat :=
  (s.ctxs.filter fun p => p.1 ≠ id && p.2.team = c.team && p.2.core = c.core && p.2.image ≠ []).map fun p => p.2.imageAt

/-- The image that a context takes: that of its slot, or the lowest that is free (log 41). -/
def State.imageFor (s : State) (id : Nat) (c : Ctx) : Option Nat :=
  let used := s.imagesUsed id c
  (c.slot :: List.range 128).find? fun i => !used.contains i

/-- The key of memory of a context's image, if its page is present in memory. -/
def State.imageKey (s : State) (c : Ctx) : Option Nat :=
  (s.teams.get? c.team).bind fun t => s.areaKey t (t.side c.core) (0x10000 + 0x8000 * c.imageAt)

/-! ### Saving and restoring -/

/-- Free bytes of the device's own: how many there are is free too, up to a limit (R271: device-private sections). -/
def State.ownBytes (s : State) (limit : Nat) : List Byte × State :=
  let n := (Config.freeWord s.fresh).toNat % (limit + 1)
  ((List.range n).map fun i => (Config.freeWord (s.fresh + 1 + i)).setWidth 8, { s with fresh := s.fresh + 1 + n })

/-- A context's image is written as its registers leave the core (R36, R271): the header, the path slots, and the sections that are
the device's own, whose bytes the manual does not give. -/
def State.saveImage (s : State) (id : Nat) : State :=
  match s.ctxs.get? id with
  | none => s
  | some c =>
    match s.imageFor id c, s.teams.get? c.team with
    | some i, some t =>
      let (own, s) := s.ownBytes (0x8000 - c.imageBytes.length)
      let bs := c.imageBytes ++ own
      (s.writeArea t (t.side c.core) (0x10000 + 0x8000 * i) bs).modCtx id fun c => { c with image := bs, imageAt := i }
    | _, _ => s

/-- The record of a thread is written as its context is saved (R271): its place and size are the manual's (R410), its bytes are
free (log 41). -/
def State.saveThread (s : State) (t : Team) (r : Record) (tid : Nat) (th : Thread) : State :=
  let side := t.side th.core
  let i := if t.cores.length = 2 && side = 1 then tid - 1024 else tid
  let n := 4 * r.vregs + 64
  { s.writeArea t side (0x410000 + r.threadRecord * i) ((List.range n).map fun j => (Config.freeWord (s.fresh + j)).setWidth 8) with
    fresh := s.fresh + n }

/-- The contexts of a team are about to be saved: their images, the records of its threads, its set slots (R67, R270, R271). -/
def State.saveImages (s : State) (key : Nat) : State :=
  let ids := (s.ctxs.filter fun p => p.2.team = key && decide (p.2.phase = .resident)).map Prod.fst
  let s := (forEach ids (fun s id => s.saveImage id) s).flushStore key
  match s.teams.get? key, (s.teams.get? key).bind fun t => (s.launches.get? t.launch).bind (·.record) with
  | some t, some r =>
    forEach (s.threads.filter fun p => p.1 / 2048 = key && !p.2.done)
      (fun s p => s.saveThread t r (p.1 % 2048) p.2) s
  | _, _ => s

/-- The registers of a path as its section holds them: those whose bytes differ from what was written (R271). -/
def Act.readImage (a : Act) (old new : List Byte) : Act :=
  let num (l : List Byte) (i n : Nat) : Nat := leNat ((l.drop i).take n)
  let us := (List.range 160).filter fun i => num old (144 + 8 * i) 8 ≠ num new (144 + 8 * i) 8
  let ks := (List.range 16).filter fun i => num old (1448 + 16 * i) 16 ≠ num new (1448 + 16 * i) 16
  { a with
    s := us.foldl (fun m i => m.set i ⟨BitVec.ofNat 64 (num new (144 + 8 * i) 8), (a.u i).full⟩) a.s,
    k := ks.foldl (fun m i => m.set i ⟨formOf (BitVec.ofNat 128 (num new (1448 + 16 * i) 16)), (a.kr i).full⟩) a.k }

/-- The path slots' bytes of an image. -/
def Ctx.pathBytes (c : Ctx) : Nat := 1792 * (c.p0.take 1 ++ c.p1.take 1).length

/-- Whether the header and the device's own sections of an image are as they were written. -/
def Ctx.sameOwn (c : Ctx) (new : List Byte) : Bool :=
  new.take 128 = c.image.take 128 && new.drop (128 + c.pathBytes) = c.image.drop (128 + c.pathBytes)

/-- A context's image is read back: changed registers are taken over, and a changed header or section of the device's own
traps ILLOP as a uniform cause of its path (R271). -/
def State.loadImage (s : State) (id : Nat) : State :=
  match s.ctxs.get? id with
  | none => s
  | some c =>
    if c.image = [] then s
    else
      let s := s.modCtx id fun c => { c with image := [] }
      match s.imageKey c with
      | none => s
      | some k =>
        let new := memReads s.mem k c.image.length
        if new = c.image then s
        else
          let read (slot : Nat) (l : List Act) : List Act :=
            modHead (fun a => a.readImage (c.image.drop (sectionAt slot)) (new.drop (sectionAt slot))) l
          let s := s.modCtx id fun c => { c with p0 := read 0 c.p0, p1 := read 1 c.p1 }
          if c.sameOwn new then s
          else match c.p0.head? with
            | none => s
            | some a => s.modCtx id (·.hold a.uid
                { code := 0x01, pc := a.pc, uni := true, tids := [], entry := none, op := none, len := 0 })

/-- Whether a set register's bits break the forms, or name a generation that its slot no longer has (R64, R68). -/
def Team.formBad (t : Team) (side : Nat) (f : SetForm) : Bool :=
  match f with
  | .raw _ => true
  | .handle i g _ => ((t.slots.get? (slotKey side i)).map fun x => decide (x.gen ≠ g) || x.bits.isNone).getD true
  | _ => false

/-- A context resumes: a path with a set register that breaks the forms traps SETSPACE (R64, R68). -/
def State.checkSets (s : State) (id : Nat) : State :=
  match s.ctxs.get? id with
  | none => s
  | some c =>
    match s.teams.get? c.team with
    | none => s
    | some t =>
      let bad := (c.p0.take 1 ++ c.p1.take 1).filter fun a => a.k.any fun p => t.formBad (t.side c.core) p.2.form
      forEach bad (fun s a => s.modCtx id (·.hold a.uid
        { code := 0x09, pc := a.pc, uni := true, tids := [], entry := none, op := none, len := 0 })) s

/-- A debugger's change of a register of a lent or saved context stands in its image (R271). -/
def State.changeImage (s : State) (c : Ctx) (slot at' : Nat) (bs : List Byte) : State :=
  if c.image = [] || c.phase = .resident then s
  else match s.imageKey c with
    | none => s
    | some k => { s with mem := memWrites s.mem (k + sectionAt slot + at') bs }

end Sys2Proof.Machine
end

