-- ==== Sys2Proof/Machine/Bins.lean ====
section
/-!
DEFINITION. Context slots and lending (R36), spawn bins and their contexts (R42, R107), windows (R351).
-/

namespace Sys2Proof.Machine

/-! ### Lending (R36) -/

/-- Whether a path can lend its slot: suspended by an application, waiting on returns or at a rendezvous. -/
def Status.lends (s : Status) : Bool :=
  match s with
  | .applied _ | .returns | .arrived _ _ _ => true
  | _ => false

/-- Whether a context can lend its slot. -/
def Ctx.lends (c : Ctx) : Bool :=
  decide (c.phase = .resident) && (c.p0 ≠ [] || c.p1 ≠ [])
    && c.p0.head?.all (·.status.lends) && c.p1.head?.all (·.status.lends)

/-- A context lends its slot; its registers and trap state move to the save area. -/
def State.lend (s : State) (id : Nat) : State := (s.saveImage id).modCtx id fun c => { c with phase := .lent }

/-- A slot of a core for a new context: a free one, or one that a context lends. -/
def State.slotFor (s : State) (core : Nat) : Option (Nat × State) :=
  match s.freeSlot core with
  | some i => some (i, s)
  | none =>
    match s.ctxs.find? fun p => p.2.core = core && p.2.lends with
    | some p => let s := s.lend p.1; (s.freeSlot core).map fun i => (i, s)
    | none => none

/-- A lent or saved context takes a slot of its core again. It keeps its serial (R279); in a slot that it did not hold it counts
among those that have held it, so that a context formed there later has a serial of its own. -/
def State.unlend (s : State) (id slot : Nat) : State :=
  match s.ctxs.get? id with
  | none => s
  | some c =>
    let s := if c.slot = slot then s
      else
        let s := s.roomForSerial c.core slot
        s.modCore c.core fun k => { k with serials := k.serials.set slot (k.serials.getD slot 0 + 1) }
    (s.loadImage id).modCtx id fun c => { c with phase := .resident, slot := slot }

/-- Whether an application waits for a slot of a core: it goes before bins and new teams (R96). -/
def State.appWaits (s : State) (core : Nat) : Bool :=
  s.teams.any fun p => s.teamRuns p.1 && p.2.apps.vals.any fun a =>
    match a.todo with
    | q :: _ => q.core = core
    | [] => false

/-! ### Bins (R42) -/

/-- The cycles after which a bin forms a context whatever it holds. -/
def binTimer : Nat := 256

/-- The width of a team's lane groups. -/
def State.width (s : State) (team : Nat) : Nat :=
  ((((s.teams.get? team).bind fun t => s.launches.get? t.launch).bind (·.record)).map (·.w)).getD 16

/-- The cycle at which a bin must form: when it became full, or when its timer expires. -/
def Bin.dueAt (b : Bin) : Nat := match b.fullAt with
  | some x => min x (b.since + binTimer)
  | none => b.since + binTimer

/-- Whether a bin of a core must form. -/
def State.binDue (s : State) (core : Nat) (b : Bin) : Bool := decide (b.dueAt ≤ s.cycOf core)

/-- The bin of a core that must form first, of those that are due. -/
def State.firstDue (s : State) (core : Nat) : Option (Nat × Bin) :=
  ((s.core core).bins.filter fun p => s.binDue core p.2 && s.teamRuns p.2.team).foldl (fun (b : Option (Nat × Bin)) p =>
    match b with
    | none => some p
    | some q => if p.2.dueAt < q.2.dueAt then some p else some q) none

/-- Form a bin's context in a slot: its threads in ascending tid, s0 the entry, outside every frame (R42, R107). -/
def State.formBinIn (s : State) (core key : Nat) (b : Bin) (slot : Nat) : State :=
  let s := s.modCore core fun k => { k with bins := k.bins.erase key }
  let lanes := sortNat b.tids
  match s.teams.get? b.team with
  | none => s
  | some t =>
    let slk := (((s.launches.get? t.launch).bind (·.record)).map (·.slk)).getD 0
    let mk (ser uid : Nat) : Ctx :=
      let a : Act := (newAct uid b.entry lanes (.bin b.spawn) (s.cycOf core)).setU 0 (BitVec.ofNat 64 b.entry)
      { newCtx b.team core slot ser a [] slk with bin := true }
    (s.addCtx core slot mk t.launch 2).2

/-- Form a bin's context if a slot is free or lendable and no application waits for it (R42, R96). -/
def State.formBin (s : State) (core key : Nat) : State :=
  match (s.core core).bins.get? key with
  | none => s
  | some b =>
    if s.appWaits core || !s.teamRuns b.team then s
    else
      match s.slotFor core with
      | none => s
      | some (slot, s) => s.formBinIn core key b slot

/-- Form the due bins of a core, each in its turn, while slots are there: at most n of them. -/
def State.formDue (core : Nat) : Nat → State → State
  | 0, s => s
  | n + 1, s =>
    match s.firstDue core with
    | none => s
    | some (k, _) => State.formDue core n (s.formBin core k)

/-- The bin that a thread enters: the one whose key matches, while it has room; where none matches, a free one of the 64. -/
def State.binFor (s : State) (core team entry : Nat) (spawn : Bool) : Option Nat :=
  let bins := (s.core core).bins
  match bins.find? fun p => p.2.team = team && p.2.entry = entry && p.2.spawn = spawn with
  | some p => if p.2.tids.length < s.width team then some p.1 else none
  | none => (List.range 64).find? fun i => (bins.get? i).isNone

/-- Place threads in bins in order, stopping at the first that finds none; a full bin forms at once, after those that were due
before it. Answers those that are left. -/
def State.place (core team : Nat) (spawn : Bool) : List (Nat × Nat) → State → List (Nat × Nat) × State
  | [], s => ([], s)
  | (t, e) :: rest, s =>
    match s.binFor core team e spawn with
    | none => ((t, e) :: rest, s)
    | some i =>
      let b := ((s.core core).bins.get? i).getD ⟨team, e, spawn, [], s.cycOf core, none⟩
      let b : Bin := { b with tids := b.tids ++ [t] }
      let full := decide (s.width team ≤ b.tids.length)
      let b : Bin := if full then { b with fullAt := some (s.cycOf core) } else b
      let s := s.modCore core fun k => { k with bins := k.bins.set i b }
      State.place core team spawn rest (if full then State.formDue core (s.core core).bins.length s else s)

/-- Go on placing the threads of a path's CALLV or SPAWN; the path then waits for returns, or runs on (R42). -/
def State.placeFor (s : State) (r : PathRef) (core team : Nat) (spawn : Bool) (todo : List (Nat × Nat)) : State :=
  match State.place core team spawn todo s with
  | ([], s) =>
    (s.modAct r fun a => { a with status := if spawn then .ready else .returns, since := s.cycOf core }).settle team
  | (rest, s) => s.modAct r fun a => { a with status := .placing spawn rest }

/-! ### What teams take -/

/-- What a team takes of one core: thread slots, vector registers, contexts at its start, scratchpad and column blocks. -/
structure Slice where
  core : Nat
  tids : Nat
  regs : Nat
  ctxs : Nat
  spadBase : Nat
  spad : Nat
  colBase : Nat
  col : Nat
deriving DecidableEq, Repr

/-- The tids of a span that lie on one side of a team. -/
def Team.tidsOn (t : Team) (side : Nat) : List Nat :=
  if t.cores.length = 2 then
    (List.range t.span).filter fun i => decide (1024 ≤ i) = decide (side = 1)
  else List.range t.span

/-- The slice of a placed team on a core: its tids, the registers of those that have not exited and of its spare tids
(R35, R43), its blocks. A saved team keeps its scratchpad alone (R270). -/
def State.slice (s : State) (key : Nat) (t : Team) (core : Nat) : Slice :=
  let vregs := (((s.launches.get? t.launch).bind (·.record)).map (·.vregs)).getD 0
  let tids := t.tidsOn (t.side core)
  let live := tids.filter fun i => decide (t.size ≤ i) || !(((s.thread key i).map (·.done)).getD true)
  let lead := t.cores.head? = some core
  { core := core, tids := if t.saved then 0 else tids.length, regs := if t.saved then 0 else vregs * live.length, ctxs := 0,
    spadBase := t.spadBase, spad := t.spadBytes, colBase := t.colBase, col := if lead then t.colBytes else 0 }

/-- The slices of the teams on a core. -/
def State.slices (s : State) (core : Nat) : List Slice :=
  s.teams.filterMap fun p => if !p.2.freed && p.2.cores.contains core then some (s.slice p.1 p.2 core) else none

/-- The teams that run on a core. -/
def State.teamsOn (s : State) (core : Nat) : List Team :=
  s.teams.vals.filter fun t => !t.freed && t.cores.contains core

/-- The registers of a core's pool that packed contexts have taken (R102). -/
def State.packedRegs (s : State) (core : Nat) : Nat :=
  ((s.ctxs.vals.filter fun c => c.core = core && decide (c.phase = .resident)).map fun c =>
    ((c.p0 ++ c.p1).map fun a => (a.foot.getD 0) * a.lanes.length).sum).sum

/-- A footprint for n threads on a core: none, and so `.map`, where the pool lacks the rows (R102). -/
def State.footFor (s : State) (core n : Nat) (foot : Option Nat) : Option Nat :=
  match foot with
  | none => none
  | some f => if ((s.slices core).map (·.regs)).sum + s.packedRegs core + f * n ≤ 65536 then some f else none

/-- Whether the registers that `.pack` copies are full for the threads. -/
def State.packEmpty (s : State) (team : Nat) (foot : Option Nat) (ts : List Nat) : List RegRef :=
  match foot with
  | none => []
  | some n => ts.flatMap fun i =>
      match s.thread team i with
      | none => []
      | some th => (th.v.filter fun p => !p.2.full && decide (th.base ≤ p.1) && decide (p.1 < th.base + n)).map
          fun p => RegRef.v i p.1

/-! ### Windows (R351) -/

/-- The threads for which a slide by n breaks R351. -/
def Env.windowMarks (e : Env) (s : State) (ts : List Nat) (n : Nat) : List Nat × State :=
  let hard := ts.filter fun t =>
    let th := e.thread s t
    decide (th.base + n + 224 > 1024) || decide (64 ≤ th.calls.length)
  if hard ≠ [] then (hard, s)
  else
    match s.poolFree e.ctx.team e.ctx.core e.team ts n 1 with
    | (true, s) => ([], s)
    | (false, s) => (ts, s)

/-- Slide the windows of threads and push a call record (R351). -/
def Env.slide (e : Env) (s : State) (ts : List Nat) (n : Nat) : State :=
  forEach ts (fun s t => e.modThread s t fun th =>
    { th with calls := ⟨e.next, n⟩ :: th.calls, base := th.slid n }) s

/-- Pop a thread's call record (R391). -/
def Thread.pop (th : Thread) : Thread :=
  match th.calls with
  | [] => th
  | c :: r => { th with calls := r, base := th.base - c.n }

end Sys2Proof.Machine
end

