-- ==== Sys2Proof/Machine/Log.lean ====
section
/-!
DEFINITION. The operand log (R176 to R179): what an entry's threads await, completing it as a skip, entries whose
threads are done or whose path has ended (R361), the traps that a failed entry raises.
-/

namespace Sys2Proof.Machine

/-- The registers that a memory instruction writes for one of its items; the values are placeholders. -/
def Access.dests (a : Access) (i : Item) : List Res :=
  let v (wide : Bool) : List Res :=
    if i.dst = noDst then [] else if wide then [.v i.tid i.dst 0, .v i.tid (i.dst + 1) 0] else [.v i.tid i.dst 0]
  match a.kind with
  | .ld ty => v ty.is64
  | .lr ty => v ty.is64
  | .sc _ => v false
  | .atom _ ty ret => if ret then v (ty = .int64 || ty = .uint64) else []
  | .route _ _ => v false
  | .sld k => [.k k .empty]
  | .sqpush sd _ => [.u sd 0]
  | .sqpop k sd => [.k k .empty, .u sd 0]
  | .desc _ hn => if i.dst = noDst then [] else [.v i.tid i.dst 0, .h i.tid hn 0]
  | _ => []

/-- Put an entry into a context's operand log. -/
def State.addEntry (s : State) (ctx : Nat) (l : LogEntry) : State :=
  let s := s.note (s.ctxCore ctx) l.acc.uid l.acc.pc fun t => { t with flags := t.flags ||| 1#4 }
  let a : Access := { l.acc with sent := if l.acc.sent = 0 then s.tick else l.acc.sent }
  s.modCtx ctx fun c => { c with log := c.log ++ [{ l with acc := a }] }

/-- A free set of a team's span (R277). -/
def State.freeSet (s : State) (span : Nat) : Tids × State :=
  let b := (List.range 32).foldl (fun (b : Tids) i =>
    b ||| ((Config.freeWord (s.fresh + i)).setWidth 2048 <<< (64 * i))) 0
  (b &&& spanMask span, { s with fresh := s.fresh + 32 })

/-- A register becomes full with an indeterminate value (R6, R277): a set register with some set of the span. -/
def State.freeRes (s : State) (ctx uid : Nat) (r : Res) : State :=
  let team := s.teamOf ctx
  match r with
  | .v t n _ => let (x, s) := s.free; s.deliver ctx team uid (.v t n (x.setWidth 32))
  | .u n _ => let (x, s) := s.free; s.deliver ctx team uid (.u n x)
  | .h t n _ => let (x, s) := s.free; s.deliver ctx team uid (.h t n x)
  | .flags _ _ => s
  | .k n _ =>
    match s.teams.get? team, s.ctxs.get? ctx with
    | some t, some c =>
      let (b, s) := s.freeSet t.span
      match s.canon team (t.side c.core) b with
      | some (f, s) => s.deliver ctx team uid (.k n f)
      | none => s.deliver ctx team uid (.k n .empty)
    | _, _ => s

/-- Remove items of a log entry; an entry with none left goes. -/
def Ctx.dropItems (c : Ctx) (id : Nat) (gone : Item → Bool) : Ctx :=
  let cut (l : LogEntry) : LogEntry :=
    if l.id = id then { l with acc := { l.acc with items := l.acc.items.filter fun i => !gone i } } else l
  { c with log := (c.log.map cut).filter fun l => !l.acc.items.isEmpty }

/-- Walkers of a descent are completed by a skip: their dot products are indeterminate (R255). -/
def State.loseWalkers (s : State) (op : Nat) (ts : List Nat) : State :=
  let lose (x : Walker) : Walker := if ts.contains x.tid then { x with complete := true, lost := true, held := false } else x
  s.modOp op fun o => match o.work with
    | .desc a d h p w n => { o with work := .desc a d h p (w.map lose) n }
    | _ => o

/-- Complete an entry for some of its items as a skip (R179): destinations full with indeterminate values, stores
and atomics not performed, copies complete. -/
def State.skipItems (s : State) (ctx : Nat) (l : LogEntry) (gone : Item → Bool) : State :=
  match s.ctxs.get? ctx with
  | none => s
  | some c =>
    let its := l.acc.items.filter gone
    let s := s.modCtx ctx fun c =>
      { c.dropItems l.id gone with queue := c.queue.filter fun q => !(q.entry = l.id && its.any (·.tid = q.tid)) }
    let s := forEach its (fun s i => forEach (l.acc.dests i) (fun s r => s.freeRes ctx l.acc.uid r) s) s
    let s := if l.acc.ov && l.acc.late && its ≠ [] then s.partLate ctx l.acc.uid l.acc.pc l.acc.sent l.acc.cls none else s
    match l.acc.kind with
    | .cpa tag =>
      (forEach its (fun s _ => s.modCtx ctx (·.lowerTag tag)) s).filled (its.map fun i => lineKey c.core i.dst)
    | .desc op _ => s.loseWalkers op (its.map (·.tid))
    | _ => s

/-- The context and the entry of a name. -/
def State.entry? (s : State) (id : Nat) : Option (Nat × LogEntry) :=
  s.ctxs.findSome? fun p => (p.2.log.find? (·.id = id)).map fun l => (p.1, l)

/-- Whether a path of a context is still there. -/
def Ctx.alive (c : Ctx) (uid : Nat) : Bool := (c.byUid uid).isSome

/-- Failed entries of a team complete as skips for threads that are done, and entries issued once per path when
that path has ended (R179, R361). -/
def State.sweepLog (s : State) (team : Nat) : State :=
  let dead (t : Nat) : Bool := ((s.thread team t).map (·.done)).getD true
  let s := forEach (s.teamCtxs team) (fun s id =>
    match s.ctxs.get? id with
    | none => s
    | some c => forEach (c.log.filter fun l => l.failed.isSome) (fun s l =>
        if l.acc.once then (if c.alive l.acc.uid then s else s.skipItems id l fun _ => true)
        else s.skipItems id l fun i => dead i.tid) s) s
  s.settle team

/-- The same for every team. -/
def State.sweepLogs (s : State) : State := forEach s.teams.keys (fun s t => s.sweepLog t) s

/-- Threads become done, and what that ends is ended (R35, R361). -/
def State.endThreads (s : State) (team : Nat) (ts : List Nat) : State := (s.exitThreads team ts).sweepLog team

/-! ### Traps of failed entries (R179) -/

/-- The activations of a stack, each with the lanes of those above it. -/
def withAbove (up : List Nat) : List Act → List (Act × List Nat)
  | [] => []
  | a :: r => (a, up) :: withAbove (up ++ a.lanes) r

/-- The paths of a team that hold some of the threads, a suspended path those that nothing above it or in its place holds
(R34, R179). -/
def State.holders (s : State) (team : Nat) (ts : List Nat) : List (Nat × Nat × List Nat) :=
  s.ctxs.flatMap fun p =>
    if p.2.team ≠ team then []
    else
      (withAbove [] p.2.p0 ++ withAbove [] p.2.p1).filterMap fun x =>
        let a := x.1
        let mine := a.lanes.filter fun t => ts.contains t && !x.2.contains t
        let out (t : Nat) : Bool :=
          (((s.thread team t).map Thread.bins).getD []).any fun b => b.ctx = p.1 && b.uid = a.uid
        let l : List Nat := match a.status with
          | .applied app =>
            let run := s.ctxs.vals.filter fun c => c.app = some app && c.team = team
            mine.filter fun t => !(run.any fun c => (c.p0 ++ c.p1).any fun x => x.lanes.contains t)
          | .returns | .placing false _ => mine.filter fun t => !out t
          | .join _ _ _ _ => mine.filter fun t => !(p.2.p1.any fun x => x.lanes.contains t)
          | _ => mine
        if l.isEmpty then none else some (p.1, a.uid, l)

/-- The trap of a failed entry over some threads. -/
def entryTrap (l : LogEntry) (tids : List Nat) : TrapInfo :=
  { code := l.failed.getD 0x04, pc := l.acc.pc, uni := l.acc.once, tids := tids, entry := some l.id, op := none, len := 0 }

/-- Give the PAGE trap of a failed entry to the paths that hold its threads, each over its share; an entry issued
once per path traps as a uniform cause of that path (R179). -/
def State.holdEntry (s : State) (ctx : Nat) (l : LogEntry) : State :=
  match s.ctxs.get? ctx with
  | none => s
  | some c =>
    if l.acc.once then s.modCtx ctx (·.hold l.acc.uid (entryTrap l []))
    else forEach (s.holders c.team (l.acc.items.map (·.tid))) (fun s h =>
      s.modCtx h.1 (·.hold h.2.1 (entryTrap l h.2.2))) s

/-- An instruction boundary at which a path takes a trap that is held for it. -/
def Status.boundary (s : Status) : Bool :=
  match s with
  | .ready | .source _ | .again _ | .fetch _ | .wait _ | .cpwait _ _ => true
  | _ => false

/-- A path whose instruction has issued and waits: OVERDUE is raised only where the path next issues (R207). -/
def Status.waits (s : Status) : Bool :=
  match s with
  | .wait _ | .cpwait _ _ => true
  | _ => false

/-- Raise the first trap that is held for the running activation of a path (R179, R207); its threads are those that
the path still holds and that the entry still names. -/
def State.raiseHeld (s : State) (r : PathRef) : Option State :=
  match s.ctxs.get? r.ctx with
  | none => none
  | some c =>
    match (c.stack r.slot).head? with
    | none => none
    | some a =>
      match c.held.find? (·.uid = a.uid) with
      | none => none
      | some h =>
        if !a.status.boundary || (h.trap.code = 0x0A && a.status.waits) then none
        else
          let s := s.modCtx r.ctx fun c => { c with held := c.held.erase h }
          let named : List Nat := match h.trap.entry with
            | some id => ((s.entry? id).map fun p => p.2.acc.items.map (·.tid)).getD []
            | none => a.lanes
          let tids := if h.trap.uni then a.lanes else a.lanes.filter fun t => h.trap.tids.contains t && named.contains t
          if tids = [] then some s
          else some (s.trap r { h.trap with tids := tids, pc := if h.trap.code = 0x0A then a.pc else h.trap.pc })

end Sys2Proof.Machine
end

