-- ==== Sys2Proof/Machine/SetAlu.lean ====
section
/-!
DEFINITION. Building and combining sets: TEST, TESTB, the set algebra, SCNT (R73 to R76, R393).
-/

namespace Sys2Proof.Machine

/-- Write a set register in canonical form (R63); a result that needs a slot when all are referenced traps
SETSPACE with no effect (R68). The slot of an earlier handle that nothing else names is freed (R66). `note` is
the trace record that the instruction writes when it completes. -/
def Env.writeSetNote (e : Env) (s : State) (kd : Nat) (b : Tids) (note : State → State) : State :=
  match s.canon e.ctx.team (e.team.side e.ctx.core) b with
  | none => e.trapAll s 0x09
  | some (f, s) => note ((e.retire (e.modAct s fun a => a.setK kd f)).freeSlots e.ctx.team)

/-- Write a set register. -/
def Env.writeSet (e : Env) (s : State) (kd : Nat) (b : Tids) : State := e.writeSetNote s kd b id

/-- A condition on two ordered integers (R72). -/
def condInt (c : Cond) (x y : Int) : Bool :=
  match c with
  | .eq => x = y
  | .ne => x ≠ y
  | .lt => x < y
  | .le => x ≤ y
  | .gt => x > y
  | .ge => x ≥ y

/-- A condition on two floating values: −0 equals +0, a NaN makes only `ne` true (R73). -/
def condFloat (c : Cond) (x y : FVal) : Bool :=
  if x.isNan || y.isNan then c = .ne
  else
    let eq := (x.isZero && y.isZero) || (!x.less y && !y.less x)
    let lt := x.less y && !eq
    match c with
    | .eq => eq
    | .ne => !eq
    | .lt => lt
    | .le => lt || eq
    | .gt => !lt && !eq
    | .ge => !lt

/-- TEST's comparison for a thread (R73): 16-bit floating types compare element 0. -/
def testHolds (o : TestOp) (e : Env) (s : State) (t : Nat) : Bool :=
  if o.ty.isInt then
    let w := o.ty.width
    condInt o.cond (intOf w o.ty.signed (o.a.read o.ty e s t)) (intOf w o.ty.signed (o.b.readInt o.ty e s t))
  else
    let el (x : Nat) : FVal := o.ty.fmt.value (x % 2 ^ o.ty.width)
    condFloat o.cond (el (o.a.read o.ty e s t).toNat) (el (o.b.readFloat o.ty e s t))

/-- TESTB's comparison for a thread (R74). -/
def testbHolds (o : TestOp) (e : Env) (s : State) (t : Nat) : Bool :=
  let x := lowBits o.ty.width (o.a.read o.ty e s t &&& o.b.readInt o.ty e s t)
  if o.cond = .eq then x = 0 else x ≠ 0

def testNeeds (o : TestOp) : Needs :=
  { u := o.b.needU o.rb, v := o.a.need o.ty.is64 o.ra ++ o.b.needV o.ty.is64 o.rb, dk := [o.kd.toNat] }

/-- The TEST form: the set of executing threads for which a comparison holds, with a TEST record of R292 over the
lanes placed in kd. -/
def execCompare (o : TestOp) (holds : Env → State → Nat → Bool) (s : State) : Host.Outcome State Fault Refusal :=
  issueThreads s o.guard (testNeeds o) fun e ts s =>
    let l := ts.filter (holds e s)
    e.writeSetNote s o.kd.toNat (tidSet l) fun s' => e.record s' 1 (laneMask e.held l)

/-- TEST (R73). -/
def execTest (o : TestOp) (s : State) : Host.Outcome State Fault Refusal := execCompare o (testHolds o) s
/-- TESTB (R74). -/
def execTestb (o : TestOp) (s : State) : Host.Outcome State Fault Refusal := execCompare o (testbHolds o) s

/-! ### Set algebra (R75, R393) -/

/-- A set instruction: its sources and destination must be complete (R79), then kd is written. -/
def execSet (o : SetOp) (srcs : List Nat) (f : Env → State → Tids) (s : State) : Host.Outcome State Fault Refusal :=
  issuePath s { k := srcs, dk := [o.kd.toNat] } fun e s => e.writeSet s o.kd.toNat (f e s)

/-- SAND. -/
def execSand (o : SetOp) (s : State) : Host.Outcome State Fault Refusal :=
  execSet o [o.ka.toNat, o.kb.toNat] (fun e s => e.set s o.ka &&& e.set s o.kb) s
/-- SOR. -/
def execSor (o : SetOp) (s : State) : Host.Outcome State Fault Refusal :=
  execSet o [o.ka.toNat, o.kb.toNat] (fun e s => e.set s o.ka ||| e.set s o.kb) s
/-- SXOR. -/
def execSxor (o : SetOp) (s : State) : Host.Outcome State Fault Refusal :=
  execSet o [o.ka.toNat, o.kb.toNat] (fun e s => e.set s o.ka ^^^ e.set s o.kb) s
/-- SANDN. -/
def execSandn (o : SetOp) (s : State) : Host.Outcome State Fault Refusal :=
  execSet o [o.ka.toNat, o.kb.toNat] (fun e s => e.set s o.ka &&& ~~~(e.set s o.kb)) s
/-- SNOT: within the whole tid span. -/
def execSnot (o : SetOp) (s : State) : Host.Outcome State Fault Refusal :=
  execSet o [o.ka.toNat] (fun e s => spanMask e.team.span &&& ~~~(e.set s o.ka)) s
/-- SMOV: the form is copied, so that a handle shares its slot (R66). -/
def execSmov (o : SetOp) (s : State) : Host.Outcome State Fault Refusal :=
  issuePath s { k := [o.ka.toNat], dk := [o.kd.toNat] } fun e s =>
    (e.retire (e.modAct s fun a => a.setK o.kd.toNat (a.kr o.ka.toNat).form)).freeSlots e.ctx.team
/-- SCLR. -/
def execSclr (o : SetOp) (s : State) : Host.Outcome State Fault Refusal := execSet o [] (fun _ _ => 0) s
/-- SALL: the team's whole tid span. -/
def execSall (o : SetOp) (s : State) : Host.Outcome State Fault Refusal :=
  execSet o [] (fun e _ => spanMask e.team.span) s
/-- SHELD: the lane map as it stands at issue. -/
def execSheld (o : SetOp) (s : State) : Host.Outcome State Fault Refusal :=
  execSet o [] (fun e _ => tidSet e.held) s
/-- SFIRST: the lowest tid of ka. -/
def execSfirst (o : SetOp) (s : State) : Host.Outcome State Fault Refusal :=
  execSet o [o.ka.toNat] (fun e s => tidSet ((tidList (e.set s o.ka) 2048).take 1)) s

/-- SCNT (R76). -/
def execScnt (o : ScntOp) (s : State) : Host.Outcome State Fault Refusal :=
  issuePath s { k := [o.ka.toNat], du := [o.sd.toNat] } fun e s =>
    e.retire (e.setU s o.sd.toNat (BitVec.ofNat 64 (tidCount (e.set s o.ka))))

end Sys2Proof.Machine
end

