-- ==== Sys2Proof/Machine/Control.lean ====
section
/-!
DEFINITION. Control flow: NOP, branches, CALL, CALLV, RET, EXIT, BAR, TRAP, BRK, SPAWN, and the word that is none
(R38, R107, R108, R331, R340, R347 to R352, R360, R391, R402, R406).
-/

namespace Sys2Proof.Machine

/-- NOP (R384). -/
def execNop (s : State) : Host.Outcome State Fault Refusal := issuePath s {} fun e s => e.retire s

/-- ILLEGAL_WORD (R331): the trap is decided at decode, before any operand. -/
def execIllegalWord (s : State) : Host.Outcome State Fault Refusal := issuePath s {} fun e s => e.trapAll s 0x01

/-- BRA (R347). -/
def execBra (t : Target) (s : State) : Host.Outcome State Fault Refusal :=
  issuePath s {} fun e s => e.retireTo s (t.addr e.addr)

/-- BRS (R349). -/
def execBrs (o : UniSrcOp) (s : State) : Host.Outcome State Fault Refusal :=
  issuePath s { u := o.a.need o.ra } fun e s =>
    let x := (o.a.read e).toNat
    if x % 8 ≠ 0 then e.trapAll s 0x03
    else if x ≥ 2 ^ 56 then e.trapAll s 0x05
    else e.retireTo s x

/-- Source b of BRC. -/
def brcB (b : BrcB) (e : Env) : Word :=
  match b with
  | .uni u => u.read e
  | .imm i => i.signExtend 64

/-- BRC (R348): the full 64 bits, signed. -/
def execBrc (o : BrcOp) (s : State) : Host.Outcome State Fault Refusal :=
  let nb : List (Nat × Bool) := match o.b with
    | .uni u => u.need false
    | .imm _ => []
  issuePath s { u := o.a.need o.ra ++ nb } fun e s =>
    e.retireTo s (if condInt o.cond (o.a.read e).toInt (brcB o.b e).toInt then o.t.addr e.addr else e.next)

/-- A path whose window has slid past its `.pack` footprint goes on under `.map` (R102); that the slide is past it once no
register of it is in the window is a reading (DEDUCED, log 68). -/
def Env.unpack (e : Env) (s : State) : State :=
  match e.act.foot with
  | none => s
  | some f =>
    if e.held.any fun t => decide (e.act.footAt.getD t 0 + f ≤ (e.thread s t).base) then
      e.modAct s fun a => { a with foot := none, footAt := [] }
    else s

/-- CALL (R351). -/
def execCall (o : CallOp) (s : State) : Host.Outcome State Fault Refusal :=
  issuePath s {} fun e s =>
    match e.windowMarks s e.held o.n.toNat with
    | ([], s) => e.unpack (e.retireTo (e.slide s e.held o.n.toNat) (o.t.addr e.addr))
    | (ts, s) => e.trap s 0x0F ts false

/-- CALLV (R107): the path waits for returns; its code position is the continuation. -/
def execCallv (o : CallvOp) (s : State) : Host.Outcome State Fault Refusal :=
  let va := o.va.toNat
  issuePath s { v := [(va, o.ra), (va + 1, o.ra)] } fun e s =>
    let target (t : Nat) : Nat := ((e.thread s t).pair va).toNat
    let bad := e.held.filter fun t => target t % 8 ≠ 0
    if bad ≠ [] then e.trap s 0x03 bad false
    else
      let n := o.n.toNat
      match e.windowMarks s e.held n with
      | ([], s) =>
        let todo := (sortNat e.held).map fun t => (t, target t)
        let s := forEach e.held (fun s t => e.modThread s t fun th =>
          { th with bins := ⟨e.ref.ctx, e.act.uid, th.calls.length⟩ :: th.bins }) (e.slide s e.held n)
        (e.retire s).placeFor e.ref e.ctx.core e.ctx.team false todo
      | (ts, s) => e.trap s 0x0F ts false

/-- The threads of a path that stand at the depth at which they entered a CALLV bin context (R391). -/
def Env.backs (e : Env) (s : State) : List Nat :=
  match e.act.kind with
  | .bin false => e.held.filter fun t =>
      let th := e.thread s t
      match th.bins with
      | b :: _ => decide (th.calls.length = b.depth)
      | [] => false
  | _ => []

/-- Return threads to their callers: pop, leave the bin context's lane map (R108). -/
def Env.giveBack (e : Env) (s : State) (ts : List Nat) : State :=
  let s := forEach ts (fun s t => e.modThread s t fun th => { th.pop with bins := th.bins.tail }) s
  e.modAct s fun a => { a with lanes := a.lanes.filter fun t => !ts.contains t }

/-- RET (R391). -/
def execRet (s : State) : Host.Outcome State Fault Refusal :=
  issuePath s {} fun e s =>
    let back := e.backs s
    let ord := e.held.filter fun t => !back.contains t
    let top (t : Nat) : Option Nat :=
      let th := e.thread s t
      if th.calls.length ≤ th.floor then none else th.calls.head?.map (·.cont)
    let c0 := (ord.head?.bind top).getD e.next
    let bad := ord.filter fun t => top t ≠ some c0
    if bad ≠ [] then e.trap s 0x0F bad false
    else
      let s := forEach ord (fun s t => e.modThread s t Thread.pop) (e.retireTo s c0)
      (e.giveBack s back).settle e.ctx.team

/-- EXIT (R360, R361). -/
def execExit (g : Guard) (s : State) : Host.Outcome State Fault Refusal :=
  issueThreads s g {} fun e ts s =>
    (e.record (e.retire s) 6 (laneMask e.held ts)).endThreads e.ctx.team ts

/-- Whether the context's earlier stores are all visible (R189, R192). -/
def Env.drained (e : Env) : Bool := e.ctx.queue.isEmpty

/-- Whether a logged access writes memory when it is performed. -/
def AccKind.writes (k : AccKind) : Bool :=
  match k with
  | .ld _ | .lr _ | .sld _ | .cpa _ | .strm _ | .word | .desc _ _ => false
  | _ => true

/-- Whether an operation is of an access that writes at a peer device and has not been acknowledged. -/
def Op.writesAway (o : Op) : Bool :=
  o.peer && (match o.work with
    | .atomic | .queue | .route => true
    | _ => false)

/-- Why a release waits: stores of the context are not yet visible, or atomics of it wait in the operand log or for a peer. -/
def Env.unreleased (e : Env) (s : State) : Option Why :=
  if !e.drained then some .drain
  else if e.ctx.log.any (·.acc.kind.writes) then some .log
  else if s.pend.vals.any fun o => o.ctx = e.ref.ctx && o.writesAway then some .drain
  else none

/-- A release: the instruction issues once the context's earlier stores are visible (R192, R218, R263, R341, R403). -/
def Env.release (e : Env) (s : State) (go : State → State) : State :=
  match e.unreleased s with
  | none => go s
  | some y => e.park s (.again y)

/-- The paths that wait at a barrier resume (R340). -/
def State.barrierOpen (s : State) (team id : Nat) : State :=
  let go (now : Nat) (l : List Act) : List Act := l.map fun a =>
    if a.status = .barrier id then { a with status := .ready, since := now } else a
  { s with ctxs := s.ctxs.map fun p =>
      if p.2.team = team then (p.1, { p.2 with p0 := go (s.cycOf p.2.core) p.2.p0, p1 := go (s.cycOf p.2.core) p.2.p1 }) else p }

/-- BAR (R340): an arrival. -/
def execBar (o : BarOp) (s : State) : Host.Outcome State Fault Refusal :=
  issuePath s {} fun e s => e.release s fun s =>
    let id := o.id.toNat
    let b := e.team.bars.getD id ⟨0, 0⟩
    let target := if b.count = 0 then o.n1.toNat + 1 else b.target
    let s := e.modAct (e.retire s) fun a => { a with status := .barrier id }
    if b.count + 1 = target then
      (e.modTeam s fun t => { t with bars := t.bars.set id ⟨0, target⟩ }).barrierOpen e.ctx.team id
    else e.modTeam s fun t => { t with bars := t.bars.set id ⟨b.count + 1, target⟩ }

/-- TRAP (R406). -/
def execTrap (s : State) : Host.Outcome State Fault Refusal := issuePath s {} fun e s => e.trapAll s 0x0D

/-- BRK (R285): on an armed die it holds the die, stopped before the BRK; otherwise it traps BREAK. -/
def execBrk (s : State) : Host.Outcome State Fault Refusal :=
  issuePath s {} fun e s =>
    let d := dieOf e.ctx.core
    if (s.die d).armed then
      e.park (s.modDie d fun x => { x with held := true }) (.again .held)
    else e.trapAll s 0x0E

/-- The free spare tids of a team, lowest first (R43). -/
def State.spares (s : State) (team : Nat) (t : Team) : List Nat :=
  (List.range (t.span - t.size)).filterMap fun i =>
    if ((s.thread team (t.size + i)).map (·.done)).getD true then some (t.size + i) else none

/-- SPAWN (R402). -/
def execSpawn (o : SpawnOp) (s : State) : Host.Outcome State Fault Refusal :=
  let va := o.a.toNat
  let vb := o.b.toNat
  let args := [vb, vb + 1, vb + 2, vb + 3]
  issueThreads s o.guard
    { v := [(va, o.ra), (va + 1, o.ra)] ++ args.map (·, o.rb), dv := [o.d.toNat] } fun e ts s =>
    let entry (t : Nat) : Nat := ((e.thread s t).pair va).toNat
    let al := ts.filter fun t => entry t % 8 ≠ 0
    let pr := ts.filter fun t => entry t ≥ 2 ^ 56
    if al ≠ [] then e.trap s 0x03 al false
    else if pr ≠ [] then e.trap s 0x05 pr false
    else e.release s fun s =>
      let core := if e.team.cores.length = 2 then e.team.cores.getD 1 e.ctx.core else e.ctx.core
      let pairs := List.zip (sortNat ts) (s.spares e.ctx.team e.team)
      let new (t : Nat) : Thread :=
        (List.range 4).foldl (fun th i => th.setL i ((e.thread s t).reg (vb + i)).val) (Thread.start core)
      let make (s' : State) (p : Nat × Nat) : State :=
        let s' := { s' with threads := s'.threads.set (tkey e.ctx.team p.2) (new p.1) }
        e.setV s' p.1 o.d.toNat (BitVec.ofNat 32 p.2)
      let fail := (sortNat ts).drop pairs.length
      let s' := forEach fail (fun s' t => e.setV s' t o.d.toNat 0xFFFFFFFF) (forEach pairs make s)
      (e.retire s').placeFor e.ref core e.ctx.team true (pairs.map fun p => (p.2, entry p.1))

end Sys2Proof.Machine
end

