-- ==== Sys2Proof/Machine/Apply.lean ====
section
/-!
DEFINITION. Applying code to sets: SUNI.f, APPLY, APPLYK.f, FORK, AEND, the rendezvous and the forming of applied
contexts (R77, R86 to R106).
-/

namespace Sys2Proof.Machine

/-! ### Participants (R40, R90) -/

/-- Whether a path waits and so is no participant: suspended by an application, at a join, for CALLV returns. -/
def Status.absent (s : Status) : Bool :=
  match s with
  | .applied _ | .atJoin | .join _ _ _ _ | .returns | .under => true
  | _ => false

/-- The participants of a frame: in each path slot of a context whose innermost frame it is, the running path, or the
path that a handler has suspended. -/
def State.parts (s : State) (team frame : Nat) : List (PathRef × Act) :=
  s.ctxs.flatMap fun p =>
    if p.2.team = team && p.2.frames.head? = some frame then
      [0, 1].filterMap fun slot =>
        let st := p.2.stack slot
        match st.find? fun a => !a.inTrap with
        | none => none
        | some a =>
          let trapped := (st.head?.map (·.inTrap)).getD false
          if a.lanes ≠ [] && (trapped || !a.status.absent) then some (⟨p.1, slot⟩, a) else none
    else []

/-- The address at which a path has arrived. -/
def Act.arrivedAt (a : Act) : Option Nat :=
  match a.status with
  | .arrived x _ _ => some x
  | _ => none

/-- The lowest tid of a path. -/
def Act.minTid (a : Act) : Nat := a.lanes.foldl min 2048

/-- The threads of a path for which its instruction executes: all, or those that RFT left (R277). -/
def Act.acting (a : Act) : List Nat :=
  match a.only with
  | none => a.lanes
  | some o => a.lanes.filter o.contains

/-- The carrying path (R92): the participant that holds the lowest tid. -/
def carrier (ps : List (PathRef × Act)) : Option (PathRef × Act) :=
  ps.foldl (fun (b : Option (PathRef × Act)) p =>
    match b with
    | none => some p
    | some b => if p.2.minTid < b.2.minTid then some p else some b) none

/-- A path at a rendezvous traps (R91, R93, R95). -/
def State.trapArrived (s : State) (p : PathRef × Act) (code : Nat) (tids : List Nat) (uni : Bool) : State :=
  match p.2.status with
  | .arrived addr len _ =>
    s.trap p.1 { code := code, pc := addr, uni := uni, tids := tids, entry := none, op := none, len := len }
  | _ => s

/-- All participants trap a uniform cause. -/
def State.trapAllArrived (s : State) (ps : List (PathRef × Act)) (code : Nat) : State :=
  forEach ps (fun s p => s.trapArrived p code p.2.lanes true) s

/-- Arrived participants of one frame that stand at different addresses trap FRAME (R91). -/
def State.mismatch (s : State) (team frame : Nat) : State :=
  let ps := (s.parts team frame).filter fun p => p.2.arrivedAt.isSome
  match ps with
  | [] => s
  | p :: rest => if rest.all fun q => q.2.arrivedAt = p.2.arrivedAt then s else s.trapAllArrived ps 0x08

/-- A frame-collective instruction is issued (R39, R41, R91, R276): the path arrives. -/
def Env.arrive (e : Env) (s : State) (c : Collective) (opens : Bool) : State :=
  match e.ctx.frames with
  | [] => e.trapAll s 0x08
  | f :: _ =>
    if e.act.inTrap then e.trapAll s 0x08
    else if opens && 15 ≤ ((e.team.frames.get? f).map (·.depth)).getD 0 then e.trapAll s 0x08
    else (e.park s (.arrived e.addr e.len c)).mismatch e.ctx.team f

/-- SUNI.f (R77). -/
def execSuniF (o : SetOp) (s : State) : Host.Outcome State Fault Refusal :=
  issuePath s { k := [o.ka.toNat], dk := [o.kd.toNat] } fun e s => e.arrive s (.suni o) false

/-- APPLY.f (R93). -/
def execApplyF (o : ApplyOp) (s : State) : Host.Outcome State Fault Refusal :=
  issuePath s { k := [o.ka.toNat] } fun e s => e.arrive s (.apply o) true

/-- APPLYK.f (R95); its registers are read when the rendezvous completes. -/
def execApplykF (o : ApplyKOp) (s : State) : Host.Outcome State Fault Refusal :=
  issuePath s {} fun e s => e.arrive s (.applyK o) true

/-! ### The rendezvous completes -/

/-- A path retires an instruction and goes on at an address (R280). -/
def State.retireAt (s : State) (r : PathRef) (pc : Nat) : State :=
  (s.modAct r fun a => { a with pc := pc, status := .ready, only := none, since := s.cycAt r.ctx }).modCtx r.ctx fun c =>
    { c with count := (c.count + 1) % 2 ^ 32 }

/-- The continuation of an arrived path (R87). -/
def Act.contOf (a : Act) : Nat :=
  match a.status with
  | .arrived addr len _ => addr + 8 * len
  | _ => a.pc

/-- Every participant retires and goes on. -/
def State.allRetire (s : State) (ps : List (PathRef × Act)) : State :=
  forEach ps (fun s p => s.retireAt p.1 p.2.contOf) s

/-- The core of a path. -/
def State.coreOf (s : State) (r : PathRef) : Nat := ((s.ctxs.get? r.ctx).map (·.core)).getD 0

/-- The members of a set register of a path. -/
def State.setOf (s : State) (t : Team) (p : PathRef × Act) (k : Nat) : Tids :=
  (p.2.kr k).form.members t (t.side (s.coreOf p.1))

/-- SUNI.f completes: the union goes to kd of every participant; each core's copy takes one slot (R66, R77). -/
def State.suniDone (s : State) (team : Nat) (t : Team) (ps : List (PathRef × Act)) : State :=
  let part (p : PathRef × Act) : Tids :=
    match p.2.status with
    | .arrived _ _ (.suni o) => s.setOf t p o.ka.toNat &&& tidSet p.2.acting
    | _ => 0
  let u := ps.foldl (fun (b : Tids) p => b ||| part p) 0
  let give (side : Nat) (s : State) : Option State :=
    let mine := ps.filter fun p => t.side (s.coreOf p.1) = side
    if mine = [] then some s
    else
      match s.canon team side u with
      | none => none
      | some (f, s) => some (forEach mine (fun s p =>
          match p.2.status with
          | .arrived _ _ (.suni o) => s.modAct p.1 fun a => a.setK o.kd.toNat f
          | _ => s) s)
  match (give 0 s).bind (give 1) with
  | none => s.trapAllArrived ps 0x09
  | some s => (s.allRetire ps).freeSlots team

/-- Runs of at most w consecutive entries. -/
def runsOf (w : Nat) : Nat → List Nat → List (List Nat)
  | 0, _ => []
  | _ + 1, [] => []
  | n + 1, l => l.take w :: runsOf w n (l.drop w)

/-- The contexts to form over members, for each core of the team, leader first (R93, R95, R105). -/
def State.formList (s : State) (team : Nat) (t : Team) (w : Nat) (members : List Nat) (key : Option Nat) : List FormReq :=
  t.cores.flatMap fun core =>
    let q := members.filter fun i => ((s.thread team i).map (·.core)).getD 0 = core
    (runsOf w 2049 q).map fun l => ⟨core, l, key⟩

/-- Whether every register that an application carries is full (R92). -/
def Act.carryFull (a : Act) (n : Nat) : Bool :=
  (a.s.all fun p => n ≤ p.1 || p.2.full) && a.k.all fun p => p.2.full

/-- The carried handles take slots on the other core of a pair (R66, R93), one after another. Two registers that share a handle
take a slot each there, which decides when SETSPACE traps (DESIGN CHOICE, log 10). -/
def State.carryOther (team side app : Nat) (t : Team) (from' : Nat) : List (Nat × KReg) → State → Option State
  | [], s => some s
  | (n, r) :: rest, s =>
    match s.canon team side (r.form.members t from') with
    | none => none
    | some (f, s) =>
      let s := s.modTeam team fun t => { t with apps := t.apps.modify app fun a => { a with kOther := a.kOther.set n ⟨f, true⟩ } }
      State.carryOther team side app t from' rest s

/-- What an application is opened with; `high` holds the threads whose key reaches nkeys (R95). -/
structure Opening where
  members : List Nat
  high : List Nat
  todo : List FormReq
  carry : Nat
  skey : Nat
  target : Nat
  foot : Option Nat
deriving DecidableEq, Repr

/-- Open an application: a frame of the members, what its contexts start with, the contexts to form; every participant
suspends (R93). None when a carried handle finds no slot on the other core. -/
def State.openApp (s : State) (team : Nat) (t : Team) (ps : List (PathRef × Act)) (c : PathRef × Act) (o : Opening) :
    Option State :=
  let (frame, s) := s.name
  let (app, s) := s.name
  let core := s.coreOf c.1
  let frames := ((s.ctxs.get? c.1.ctx).map (·.frames)).getD []
  let depth := (frames.head?.bind fun f => (t.frames.get? f).map (·.depth)).getD 0
  let a : App :=
    { issuers := ps.map fun p => (p.1.ctx, p.2.uid), frame := frame, parents := frames, skey := o.skey,
      s := c.2.s.filter fun p => p.1 < o.carry, k := c.2.k, lead := core, kOther := [], target := o.target,
      foot := o.foot, todo := o.todo, live := [] }
  let s := s.modTeam team fun t =>
    { t with frames := t.frames.set frame ⟨depth + 1, o.members⟩, apps := t.apps.set app a }
  let side := t.side core
  let s' := if o.todo.any fun q => q.core ≠ core then State.carryOther team (1 - side) app t side c.2.k s else some s
  s'.map fun s => forEach ps (fun s p => (s.retireAt p.1 p.2.contOf).modAct p.1 fun a => { a with status := .applied app }) s

/-- The APPLY records of a completed application, one for each participant (R293). -/
def State.applyRecords (s : State) (t : Team) (ps : List (PathRef × Act)) (members : List Nat) : State :=
  forEach ps (fun s p =>
    match s.ctxs.get? p.1.ctx with
    | none => s
    | some c => s.record c.core t.launch 3 c.slot p.1.slot
        (iaddr ((p.2.arrivedAt).getD 0) ++ laneMask p.2.lanes members)) s

/-- Set KEY for threads (R95). -/
def State.flagKeys (s : State) (team : Nat) (ts : List Nat) : State :=
  forEach ts (fun s t => s.modThread team t (·.flag fKEY)) s

/-- Finish an application: with no members every participant goes on, else it opens once the registers that it carries are full
(R92); where a carried handle finds no slot it traps before any effect. -/
def State.applyOver (s : State) (team : Nat) (t : Team) (ps : List (PathRef × Act)) (c : PathRef × Act) (o : Opening) : State :=
  if o.members = [] then ((s.flagKeys team o.high).applyRecords t ps []).allRetire ps
  else if !c.2.carryFull o.carry then s
  else
    match s.openApp team t ps c o with
    | none => s.trapAllArrived ps 0x09
    | some s' => (s'.flagKeys team o.high).applyRecords t ps o.members

/-- The footprint of a `.pack` form in registers (R102). -/
def footOf (pack : Bool) (foot : BitVec 5) (vregs : Nat) : Option Nat :=
  if pack then some (if foot = 0 then vregs else 8 * foot.toNat) else none

/-- The held threads of all participants, ascending. -/
def allHeld (ps : List (PathRef × Act)) : List Nat := sortNat (ps.flatMap fun p => p.2.acting)

/-- APPLY.f completes (R93). -/
def State.applyDone (s : State) (team : Nat) (t : Team) (rcd : Record) (ps : List (PathRef × Act)) (c : PathRef × Act)
    (o : ApplyOp) (addr : Nat) : State :=
  let set := s.setOf t c o.ka.toNat
  if ps.any fun p => s.setOf t p o.ka.toNat ≠ set then s.trapAllArrived ps 0x08
  else
    let m := (allHeld ps).filter fun i => set.getLsbD i
    s.applyOver team t ps c
      { members := m, high := [], todo := s.formList team t rcd.w m none, carry := o.n.toNat, skey := 0,
        target := o.t.addr addr, foot := footOf o.pack o.foot rcd.vregs }

/-- The environment of a path at a rendezvous. -/
def State.envOf (s : State) (p : PathRef × Act) : Option Env :=
  match p.2.status with
  | .arrived addr len _ => s.envAt ⟨p.1, addr, len⟩
  | _ => none

/-- The threads of a path whose key register is empty (R95). -/
def State.keyEmpty (s : State) (p : PathRef × Act) (o : ApplyKOp) : List Nat :=
  match s.envOf p with
  | some e => p.2.acting.filter fun i => !((e.thread s i).reg o.vkey.toNat).full
  | none => []

/-- The key of each held thread of a path: the unsigned 32-bit low word of v_key. -/
def State.keysOf (s : State) (p : PathRef × Act) (o : ApplyKOp) : List (Nat × Nat) :=
  match s.envOf p with
  | some e => p.2.acting.map fun i => (i, ((e.thread s i).reg o.vkey.toNat).val.toNat)
  | none => []

/-- Whether a key names an expert of the routing table whose kind is not dispatch (R95, R232). -/
def nullKey (l : Launch) (key : Nat) : Bool :=
  match l.rtab with
  | none => false
  | some t => decide (key < t.length) && (t.getD key 0).extractLsb' 30 2 ≠ 0

/-- APPLYK.f completes (R95). -/
def State.applyKDone (s : State) (team : Nat) (t : Team) (l : Launch) (rcd : Record) (ps : List (PathRef × Act))
    (c : PathRef × Act) (o : ApplyKOp) (addr : Nat) : State :=
  let noKeys := !(c.2.u o.nkeys.toNat).full
  let empties := ps.filter fun p => s.keyEmpty p o ≠ []
  if (!o.ra && empties ≠ []) || (!o.rb && noKeys) then s
  else if (o.rb && noKeys) || (o.ra && empties ≠ []) then
    forEach ps (fun s' p =>
      if o.rb && noKeys && p.1 = c.1 then s'.trapArrived p 0x02 p.2.lanes true
      else if o.ra && s.keyEmpty p o ≠ [] then s'.trapArrived p 0x02 (s.keyEmpty p o) false
      else s') s
  else
    let nkeys := (c.2.u o.nkeys.toNat).val.toNat
    let keys := ps.flatMap fun p => s.keysOf p o
    let high := keys.filter fun q => q.2 ≥ nkeys
    let g := keys.filter fun q => q.2 < nkeys && !nullKey l q.2
    let ks := sortNat ((g.map Prod.snd).eraseDups)
    let of (k : Nat) : List Nat := sortNat ((g.filter fun q => q.2 = k).map Prod.fst)
    s.applyOver team t ps c
      { members := sortNat (g.map Prod.fst), high := high.map Prod.fst, todo := ks.flatMap fun k => s.formList team t rcd.w (of k) (some k),
        carry := o.n.toNat, skey := o.skey.toNat,
        target := (Target.far o.off).addr addr, foot := footOf o.pack o.foot rcd.vregs }

/-- Whether a frame's participants have all arrived at one address. -/
def rendezvous (ps : List (PathRef × Act)) : Bool :=
  match ps with
  | [] => false
  | p :: rest => p.2.arrivedAt.isSome && rest.all fun q => q.2.arrivedAt = p.2.arrivedAt

/-- FRAME_RENDEZVOUS_COMPLETE (R91). -/
def execFrameRendezvousComplete (team frame : Nat) (s : State) : Host.Outcome State Fault Refusal :=
  let ps := s.parts team frame
  if !rendezvous ps || !s.teamRuns team then .next s
  else
    match s.teams.get? team, carrier ps with
    | some t, some c =>
      match s.launches.get? t.launch, c.2.status with
      | some l, .arrived addr _ col =>
        match l.record, col with
        | some _, .suni _ => .next (s.suniDone team t ps)
        | some rcd, .apply o => .next (s.applyDone team t rcd ps c o addr)
        | some rcd, .applyK o => .next (s.applyKDone team t l rcd ps c o addr)
        | none, _ => .next s
      | _, _ => .next s
    | _, _ => .next s

/-! ### Forming applied contexts (R93, R94, R96, R102) -/

/-- Whether an application that opened earlier waits with a context for a core: its context goes first (R96). -/
def State.earlierWaits (s : State) (core app : Nat) : Bool :=
  s.teams.any fun p => s.teamRuns p.1 && p.2.apps.any fun q => decide (q.1 < app) &&
    match q.2.todo with
    | x :: _ => x.core = core && s.packEmpty p.1 q.2.foot x.lanes = []
    | [] => false

/-- Form one applied context in a slot. -/
def State.formApplied (s : State) (team app : Nat) (t : Team) (a : App) (q : FormReq) (lanes : List Nat) (slot : Nat) : State :=
  let slk := (((s.launches.get? t.launch).bind (·.record)).map (·.slk)).getD 0
  let foot := s.footFor q.core lanes.length a.foot
  let mk (ser uid : Nat) : Ctx :=
    let x : Act := newAct uid a.target lanes (.applied app) (s.cycOf q.core)
    let x : Act := { x with s := a.s, k := if q.core = a.lead then a.k else a.kOther, foot := foot,
                            footAt := if foot.isSome then s.bases team lanes else [] }
    let x : Act := match q.key with
      | some key => x.setU a.skey (BitVec.ofNat 64 key)
      | none => x
    { newCtx team q.core slot ser x (a.frame :: a.parents) slk with app := some app }
  let (id, s) := s.addCtx q.core slot mk t.launch 1
  s.modTeam team fun t => { t with apps := t.apps.modify app fun a => { a with live := a.live ++ [id] } }

/-- APPLIED_CONTEXT_FORM (R96): the next context of an application, when a slot of its core is free or lendable. -/
def execAppliedContextForm (team app : Nat) (s : State) : Host.Outcome State Fault Refusal :=
  match s.teams.get? team with
  | none => .next s
  | some t =>
    match t.apps.get? app with
    | none => .next s
    | some a =>
      match a.todo with
      | [] => .next s
      | q :: rest =>
        let lanes := q.lanes.filter fun i => !((s.thread team i).map (·.done)).getD true
        let later (s : State) : State :=
          s.modTeam team fun t => { t with apps := t.apps.modify app fun a => { a with todo := rest } }
        if !s.teamRuns team then .next s
        else if lanes = [] then .next ((later s).appRetire team app 0)
        else if s.packEmpty team a.foot lanes ≠ [] || s.earlierWaits q.core app then .next s
        else
          match s.slotFor q.core with
          | none => .next s
          | some (slot, s) => .next (((later s).formApplied team app t a q lanes slot).freeSlots team)

/-! ### APPLY.g, FORK, AEND -/

/-- APPLY.g (R89). -/
def execApplyG (o : ApplyOp) (s : State) : Host.Outcome State Fault Refusal :=
  issuePath s { k := [o.ka.toNat] } fun e s =>
    let set := e.set s o.ka
    let m := e.held.filter fun t => set.getLsbD t
    let foot := footOf o.pack o.foot e.rcd.vregs
    let wait := if m = [] then [] else e.act.emptyRefs ++ s.packEmpty e.ctx.team foot m
    if wait ≠ [] then e.park s (.source wait)
    else
      let s := e.record s 3 (laneMask e.held m)
      if m = [] then e.retire s
      else (e.retire s).pushChild e.ref m (o.t.addr e.addr) .child (s.footFor e.ctx.core m.length foot)

/-- FORK in two path slots (R97). -/
def Env.forkBoth (e : Env) (s : State) (a b : List Nat) (la lb : Nat) : State :=
  let bOnly := b.filter fun t => !a.contains t
  let ov := e.held.filter fun t => a.contains t && b.contains t
  let s := e.retire s
  let s := if a = [] then s else s.pushChild e.ref a la .forkA
  let wait (x : Act) : Act := { x with status := .join (a = []) (bOnly = []) lb ov }
  let s := s.modCtx e.ref.ctx fun c =>
    if a = [] then c.modTop 0 wait
    else { c with p0 := c.p0.take 1 ++ modHead wait c.p0.tail }
  if bOnly = [] then s
  else
    let (uid, s) := s.name
    let x : Act := { newAct uid lb bOnly .forkB (s.cycOf e.ctx.core) with s := e.act.s, k := e.act.k, inTrap := e.act.inTrap }
    s.modCtx e.ref.ctx fun c => { c with p1 := [x] }

/-- FORK in sequential form (R98). -/
def Env.forkOne (e : Env) (s : State) (a b : List Nat) (la lb : Nat) : State :=
  let s := e.retire s
  if a = [] then s.pushChild e.ref b lb .child else s.pushChild e.ref a la (.forkSeq lb b)

/-- A word offset from an instruction's address (R87). -/
def offAddr (addr : Nat) (o : BitVec 31) : Nat := (((addr : Int) + 8 * o.toInt) % 2 ^ 64).toNat

/-- FORK (R97, R98). -/
def execFork (o : ForkOp) (s : State) : Host.Outcome State Fault Refusal :=
  issuePath s { k := [o.ka.toNat, o.kb.toNat] } fun e s =>
    let ka := e.set s o.ka
    let kb := e.set s o.kb
    let a := e.held.filter fun t => ka.getLsbD t
    let b := e.held.filter fun t => kb.getLsbD t
    if (a ≠ [] || b ≠ []) && e.act.emptyRefs ≠ [] then e.park s (.source e.act.emptyRefs)
    else
      let s := e.record s 2 (laneMask e.held a ++ laneMask e.held b)
      let la := offAddr e.addr o.la
      let lb := offAddr e.addr o.lb
      if a = [] && b = [] then e.retire s
      else if e.ref.slot = 0 && e.ctx.p1 = [] then e.forkBoth s a b la lb
      else e.forkOne s a b la lb

/-- The footprint registers of a path's threads that are empty (R99). -/
def Env.footEmpty (e : Env) (s : State) : List RegRef :=
  match e.act.foot with
  | none => []
  | some n => e.held.flatMap fun t =>
      let b := e.act.footAt.getD t 0
      let x := (e.thread s t).v.filter fun p => !p.2.full && decide (b ≤ p.1) && decide (p.1 < b + n)
      x.map fun p => RegRef.v t p.1

/-- Whether the operand log holds something of a path: an entry, or an engine operation that awaits a page (R99, R176). -/
def Env.logs (e : Env) (s : State) : Bool :=
  (e.ctx.log.any fun l => l.acc.uid = e.act.uid)
    || s.pend.vals.any fun o => o.uid = e.act.uid && !o.faults.isEmpty

/-- Whether AEND ends something of this kind (R99). -/
def Kind.ends (k : Kind) : Bool :=
  match k with
  | .applied _ | .child | .forkA | .forkB | .forkSeq _ _ => true
  | _ => false

/-- AEND (R99). -/
def execAend (s : State) : Host.Outcome State Fault Refusal :=
  issuePath s {} fun e s =>
    if !e.act.kind.ends then e.trapAll s 0x08
    else if e.logs s then e.park s (.again .log)
    else if e.footEmpty s ≠ [] then e.park s (.source (e.footEmpty s))
    else
      let s := e.retire (e.record s 4 [])
      (s.finishTop e.ref).sweepLog e.ctx.team

end Sys2Proof.Machine
end

