-- ==== Sys2Proof/Machine/Reach.lean ====
section
/-!
DEFINITION. What a memory access reaches (R147 to R151, R169 to R175), reading with a context's own stores (R186,
R193), writing (R196), poisoned bytes (R309).
-/

namespace Sys2Proof.Machine

/-! ### Places -/

/-- Where an access lies: pieces of memory by key and length, or a peer device. -/
inductive Place where
  | mem (segs : List (Nat × Nat)) (sc host : Bool)
  | peer (id : Nat) (sc : Bool)
deriving DecidableEq, Repr

/-- What an access comes to (R175). -/
inductive Reach where
  | go (p : Place)
  | absent (ps : List PageRef)
  | prot
  | bad
deriving DecidableEq, Repr

/-- The key of n bytes at a shared offset, for a context on a core of a team (R149). -/
def sharedKey (core : Nat) (t : Team) (off n : Nat) : Option Nat :=
  if off < 0x80000 then
    if off + n ≤ t.spadBytes then some (spadKey core (t.spadBase + off)) else none
  else if off < 0x100000 then
    match t.cores with
    | [a, b] => if off - 0x80000 + n ≤ t.spadBytes then
        some (spadKey (if core = a then b else a) (t.spadBase + (off - 0x80000))) else none
    | _ => none
  else if 0x10000000 ≤ off && off < 0x20000000 then
    if t.cores.head? = some core && decide (off - 0x10000000 + n ≤ t.visible) then
      some (colKey core (t.colBase + (off - 0x10000000))) else none
  else none

/-- The scratchpad lines that a piece of memory touches. -/
def linesOf (key n : Nat) : List Nat :=
  if 2 ^ 49 ≤ key && key < 2 ^ 50 then
    let off := key - 2 ^ 49
    let core := off / 2 ^ 19
    let o := off % 2 ^ 19
    (List.range ((o + n - 1) / 128 - o / 128 + 1)).map fun i => lineKey core (128 * (o / 128 + i))
  else []

/-- The 64 KiB pieces of a range of addresses. -/
def pagePieces (va n : Nat) : List (Nat × Nat) :=
  if n = 0 then []
  else (List.range ((va + n - 1) / 65536 - va / 65536 + 1)).map fun i =>
    let p := 65536 * (va / 65536 + i)
    let lo := max va p
    (lo, min (va + n) (p + 65536) - lo)

/-- Join what the pieces of a range come to: protection before malformed before absent (R175). -/
def Reach.join (a b : Reach) : Reach :=
  match a, b with
  | .prot, _ => .prot
  | _, .prot => .prot
  | .bad, _ => .bad
  | _, .bad => .bad
  | .absent p, .absent q => .absent (p ++ q)
  | .absent p, _ => .absent p
  | _, .absent q => .absent q
  | .go (.mem x sc h), .go (.mem y sc' h') => .go (.mem (x ++ y) (sc || sc') (h || h'))
  | .go (.peer i sc), _ => .go (.peer i sc)
  | _, .go (.peer i sc) => .go (.peer i sc)

/-- One piece under its leaf. -/
def pieceReach (o : XOut) (root va n : Nat) (die : Option Nat) : Reach :=
  match o with
  | .prot => .prot
  | .bad => .bad
  | .absent => .absent [⟨root, pageOf false va⟩]
  | .ok leaf big =>
    match leafKey leaf big va die with
    | some k => .go (.mem [(k, n)] (leafSc leaf) (leafPeer leaf = 0x3FF))
    | none => .go (.peer (leafPeer leaf) (leafSc leaf))

/-- Whether a range lies in the global space (R148). -/
def inSpace (va n : Nat) : Bool := decide (va < 2 ^ 56) && decide (va + n ≤ 2 ^ 56)

/-- The distinct pages of 64 KiB that ranges touch, as addresses. -/
def pagesIn (l : List (Nat × Nat)) : List Nat :=
  ((l.filter fun p => inSpace p.1 p.2).flatMap fun p => (pagePieces p.1 p.2).map fun q => pageOf false q.1).eraseDups

/-- Translate pages, each once (R169). -/
def State.xlateAll (core : Option Nat) (die root : Nat) (need : Need) : List Nat → State → List (Nat × XOut) × State
  | [], s => ([], s)
  | p :: rest, s =>
    let (o, s) := s.xlate core die root p need
    let (l, s) := State.xlateAll core die root need rest s
    ((p, o) :: l, s)

/-- What a global range comes to under the translations of its pages (R148, R169, R175). -/
def reachBy (t : List (Nat × XOut)) (root va n : Nat) (die : Option Nat) : Reach :=
  if !inSpace va n then .prot
  else (pagePieces va n).foldl (fun a p =>
    a.join (pieceReach ((t.lookup (pageOf false p.1)).getD .absent) root p.1 p.2 die)) (.go (.mem [] false false))

/-- What a global range comes to for a core or an engine of a die (R148, R169 to R175). -/
def State.reach (s : State) (core : Option Nat) (die root va n : Nat) (need : Need) : Reach × State :=
  let (t, s) := State.xlateAll core die root need (pagesIn [(va, n)]) s
  (reachBy t root va n (some die), s)

/-- What a global range comes to for an agent of the hub. -/
def State.reachHub (s : State) (root va n : Nat) (need : Need) : Reach :=
  reachBy ((pagesIn [(va, n)]).map fun p => (p, s.xlateHub root p need)) root va n none

/-- Whether every page of a range is in the TLBs (R170). -/
def State.allCached (s : State) (core die root va n : Nat) : Bool :=
  (pagePieces va n).all fun p => (s.cached (some core) die root p.1).isSome

/-! ### Reading -/

/-- The bytes of pieces of memory. -/
def State.readSegs (s : State) (segs : List (Nat × Nat)) : List Byte :=
  segs.flatMap fun p => memReads s.mem p.1 p.2

/-- The pseudo-thread of the stores of an instruction issued once per path. -/
def noTid : Nat := 4096

/-- The stores that a thread's loads see before they are visible: its context's, and its own in other contexts of
its team (R186, R193). -/
def State.ownStores (s : State) (ctx team tid : Nat) : List Store :=
  s.ctxs.flatMap fun p =>
    if p.1 = ctx then p.2.queue
    else if p.2.team = team && tid ≠ noTid then p.2.queue.filter (·.tid = tid) else []

/-- The newest store to a byte. -/
def newest (l : List Store) (k : Nat) : Option Store :=
  l.foldl (fun (b : Option Store) q =>
    if !q.faulted && !q.peer && decide (q.at' ≤ k) && decide (k < q.at' + q.bytes.length) then
      match b with
      | none => some q
      | some x => if x.op ≤ q.op then some q else some x
    else b) none

/-- A byte as a thread sees it. -/
def State.seen (s : State) (own : List Store) (k : Nat) : Byte :=
  match newest own k with
  | some q => q.bytes.getD (k - q.at') 0
  | none => memRead s.mem k

/-- The bytes of pieces as a thread sees them. -/
def State.seenSegs (s : State) (own : List Store) (segs : List (Nat × Nat)) : List Byte :=
  if own = [] then s.readSegs segs
  else segs.flatMap fun p => (List.range p.2).map fun i => s.seen own (p.1 + i)

/-- Whether a load must wait for a store that is faulted or on its way to a peer (R178). -/
def waitsFor (own : List Store) (va n : Nat) : Bool :=
  own.any fun q => (q.faulted || q.peer) && decide (q.at' < va + n) && decide (va < q.at' + q.bytes.length)

/-- Whether pieces overlap a store that is not yet visible. -/
def overlaps (own : List Store) (segs : List (Nat × Nat)) : Bool :=
  own.any fun q => !q.faulted && !q.peer && segs.any fun p => decide (q.at' < p.1 + p.2) && decide (p.1 < q.at' + q.bytes.length)

/-! ### Writing -/

/-- A store to bytes ends every reservation on their granules (R196). -/
def State.endResv (s : State) (k n : Nat) : State :=
  if n = 0 || !(s.threads.any fun p => p.2.resv.isSome) then s
  else
    let hit (r : Resv) : Bool := decide (k / 64 ≤ r.granule) && decide (r.granule ≤ (k + n - 1) / 64)
    { s with threads := s.threads.map fun p =>
        match p.2.resv with
        | some r => if hit r then (p.1, { p.2 with resv := none }) else p
        | none => p }

/-- Whether a write reaches a source where an operation may read it already: on absent lines the operation waits for the
write that fills them (R156). -/
def State.reaches (s : State) (k n : Nat) (p : Nat × Nat) : Bool :=
  let lo := max k p.1
  let hi := min (k + n) (p.1 + p.2)
  let ls := linesOf lo (hi - lo)
  decide (lo < hi) && (ls = [] || ls.any s.linePresent)

/-- Whether an operation has not read its descriptor, so that where its sources lie is not known. -/
def Work.blind (w : Work) : Bool :=
  match w with
  | .gather _ none _ | .desc _ none _ _ _ _ | .ascd _ none _ _ _ | .coll _ none _ _ _ => true
  | _ => false

/-- A write to a source that an operation has not yet read makes its input indeterminate (R192); one that does not know its sources
yet remembers it. -/
def Op.hit (o : Op) (s : State) (k n : Nat) : Op :=
  if o.srcs.any (s.reaches k n) then { o with tainted := true }
  else if o.work.blind && s.reaches k n (k, n) then { o with seen := o.seen ++ [(k, n)] }
  else o

def State.taint (s : State) (k n : Nat) : State :=
  if s.pend.any fun p => p.2.work.blind || p.2.srcs.any (s.reaches k n) then
    { s with pend := s.pend.map fun (p : Nat × Op) => (p.1, p.2.hit s k n) }
  else s

/-- An operation knows its sources: what has been written to them since its issue makes its input indeterminate (R192). -/
def Op.watch (o : Op) (srcs : List (Nat × Nat)) : Op :=
  { o with srcs := srcs, seen := [],
           tainted := o.tainted || o.seen.any fun q => srcs.any fun p => decide (q.1 < p.1 + p.2) && decide (p.1 < q.1 + q.2) }

/-- The present pieces of a global range that an engine of a die reads. -/
def State.readable (s : State) (die : Option Nat) (root va n : Nat) : List (Nat × Nat) :=
  (pagePieces va n).flatMap fun p =>
    match pieceReach ((walk s.mem root p.1).check .read) root p.1 p.2 die with
    | .go (.mem segs _ _) => segs
    | _ => []

/-- Write bytes at a key. -/
def State.put (s : State) (k : Nat) (bs : List Byte) : State :=
  let s := (s.endResv k bs.length).taint k bs.length
  { s with mem := memWrites s.mem k bs }

/-- The K bits that boot set stay set (R174). -/
def State.relock (s : State) : State :=
  { s with mem := s.hub.kBits.foldl (fun m a => memWrite m (dieKey a) (memRead m (dieKey a) ||| 0x40)) s.mem }

/-- Write bytes over pieces. -/
def State.putSegs : List (Nat × Nat) → List Byte → State → State
  | [], _, s => s
  | (k, n) :: r, bs, s => State.putSegs r (bs.drop n) (s.put k (bs.take n))

/-! ### Poison (R309) -/

/-- Whether a read of pieces meets poison. -/
def State.segsPoisoned (s : State) (segs : List (Nat × Nat)) : Bool := segs.any fun p => s.poisonIn p.1 p.2

/-- The sectors that pieces touch. -/
def sectorsOf (segs : List (Nat × Nat)) : List Nat :=
  (segs.flatMap fun p => if p.2 = 0 then [] else
    (List.range ((p.1 + p.2 - 1) / 64 - p.1 / 64 + 1)).map (p.1 / 64 + ·)).eraseDups

/-- Whether pieces together cover a sector. -/
def covers (segs : List (Nat × Nat)) (sec : Nat) : Bool :=
  (List.range 64).all fun i => segs.any fun p => decide (p.1 ≤ 64 * sec + i) && decide (64 * sec + i < p.1 + p.2)

/-- Whether a write over pieces meets poison that it does not clear; `all` is all that its instruction writes. -/
def State.writePoisoned (s : State) (all segs : List (Nat × Nat)) : Bool :=
  (segs.any fun p => s.columnBad p.1) || (sectorsOf segs).any fun x => s.poison.contains x && !covers all x

/-- The poisoned sectors that a write clears. -/
def State.unpoison (s : State) (segs : List (Nat × Nat)) : State :=
  if s.poison = [] then s
  else { s with poison := s.poison.filter fun x => !covers segs x }

end Sys2Proof.Machine
end

