-- ==== Sys2Proof/Machine/Packets.lean ====
section
/-!
DEFINITION. The packets of an operation (R15, R19, R20, R199 to R206, R219) and the requests that go to peer devices (R220 to
R222).
-/

namespace Sys2Proof.Machine

/-! ### Slack (R202, R203, R206) -/

/-- The slack that a class of a context starts with (R202, R203). -/
def slackOf (slk : Word) (cls : BitVec 2) : Nat := (slk.extractLsb' (12 * cls.toNat) 12).toNat

/-- Count an overdue packet of a die (R206, R303). -/
def State.countOverdue (s : State) (d : Nat) : State :=
  (s.modDie d fun x => { x with overdue := (x.overdue + 1) % 2 ^ 48 }).modHub fun h => { h with ovChanged := true }

/-! ### Buffers of a crossbar (R199, R200) -/

/-- The beats of a packet: the first holds 32 bytes of its data, each further one 64 (R199). -/
def Packet.beats (p : Packet) : Nat := 1 + (p.data - 32 + 63) / 64

/-- The packets at an input port, those in its recovery slot first. Of the others the first sixteen stand in the port's buffer;
what a core, the hub or an engine has sent beyond them waits to enter it (R200). -/
def Xbar.buffer (x : Xbar) (port : Nat) : List Packet :=
  let l := x.pkts.filter (·.inp = port)
  l.filter (·.recov) ++ l.filter (!·.recov)

/-- The head packet of an input port. -/
def Xbar.head (x : Xbar) (port : Nat) : Option Packet := (x.buffer port).head?

/-- Whether a port's buffer of 16 packets has room; its recovery slot is not counted (R200). -/
def Xbar.room (x : Xbar) (port : Nat) : Bool := decide (((x.buffer port).filter (!·.recov)).length < 16)

/-- A packet enters an input buffer of a die's crossbar; one that is overdue is counted at the first die queue that takes it
(R206). -/
def State.enqueue (s : State) (d : Nat) (p : Packet) : State :=
  let s := if p.slack = 0 && !p.counted then s.countOverdue d else s
  let p : Packet := { p with counted := p.counted || p.slack = 0, since := s.cyc d, headAt := s.cyc d }
  s.modDie d fun x => { x with xbar := { x.xbar with pkts := x.xbar.pkts ++ [p] } }

/-! ### Where packets go (R15, R19, R20, R219) -/

/-- The bridge of a die through which an address is reached from another die or from the hub. -/
def bridgeOf (addr : Nat) : Nat := 192 + addr / 128 % 8

/-- The die that holds a place; 4 is what lies beyond the hub. -/
def dieOfKey (k : Nat) : Nat := if k < 2 ^ 48 then k / 2 ^ 40 % 4 else 4

/-- How far a place is from a core, as a garnet record counts it (R289). -/
def levelOf (core k : Nat) : Nat :=
  if k < 2 ^ 48 then (if dieOfKey k = dieOf core then 3 else 4)
  else if k < 2 ^ 49 then 6
  else if k < 2 ^ 50 then 1
  else 2

/-- Whether an operation is of the fen layer, whose packets enter at a service port (R15, R20). -/
def Work.fen (w : Work) : Bool :=
  match w with
  | .gather _ _ _ | .desc _ _ _ _ _ _ | .ascd _ _ _ _ _ => true
  | _ => false

/-- The port at which an operation's packets enter: its quad's, or for the fen layer a service port (log 15). -/
def Op.port (o : Op) : Nat := if o.work.fen then 200 + o.core % 8 else quadOf o.core

/-- The 256-byte blocks of memory beyond the core that pieces touch, each with the number of bytes (R199). -/
def blocksOf (segs : List (Nat × Nat)) : List (Nat × Nat) :=
  let far := segs.filter fun p => p.1 < 2 ^ 49 && decide (0 < p.2)
  far.foldl (fun l p =>
    ((List.range (min 64 ((p.1 + p.2 - 1) / 256 - p.1 / 256 + 1))).map fun i =>
      let b := p.1 / 256 + i
      (b, min (p.1 + p.2) (256 * b + 256) - max p.1 (256 * b))).foldl (fun l q =>
        if l.any (·.1 = q.1) then l.map fun x => if x.1 = q.1 then (x.1, min 256 (x.2 + q.2)) else x else l ++ [q]) l) []

/-- A request packet of an operation for an address of a die. -/
def Op.packet (o : Op) (id die toPort addr slack data back : Nat) (flit : Option Flit) : Packet :=
  let d := dieOf o.core
  { op := id, reply := false, fromDie := d, fromPort := o.port, toDie := die, toPort := toPort, bridge := bridgeOf addr,
    inp := o.port, out := if die = d then toPort else bridgeOf addr, slack := slack, data := data, back := back, flit := flit,
    counted := false, recov := false, since := 0, headAt := 0 }

/-- Note what a packet of an operation tells of the instruction that garnet follows. -/
def State.notePacket (s : State) (o : Op) (level slack : Nat) : State :=
  s.note o.core o.uid o.pc fun t => { t with
    level := max t.level level, slackOut := if t.slackOut.isSome then t.slackOut else some slack }

/-- Send packets of an operation for pieces of memory, those of `w` written and those of `r` read: to slices of the core's own
die, or through a bridge. At most 64 blocks of each are sent as packets of their own (log 15). -/
def State.sendBlocks (s : State) (id slack : Nat) (r w : List (Nat × Nat)) : State :=
  match s.pend.get? id with
  | none => s
  | some o =>
    let rs := (blocksOf r).take 64
    let ws := (blocksOf w).take 64
    let all : List (Nat × Nat × Nat) := rs.map (fun b => (b.1, if ws.contains b then b.2 else 0, b.2))
      ++ (ws.filter (!rs.contains ·)).map fun b => (b.1, b.2, 0)
    if all = [] then s
    else
      let s := { s with pend := s.pend.set id { o with leg := .request, away := o.away + all.length } }
      forEach all (fun s b =>
        let k := 256 * b.1
        (s.notePacket o (levelOf o.core k) slack).enqueue (dieOf o.core)
          (o.packet id (dieOfKey k) (96 + Config.sliceOf k % 96) k slack b.2.1 b.2.2 none)) s

/-- Send a packet of an operation to the hub (R20, R219). -/
def State.sendHub (s : State) (id slack addr : Nat) : State :=
  match s.pend.get? id with
  | none => s
  | some o =>
    let s := { s with pend := s.pend.set id { o with leg := .request, away := o.away + 1 } }
    (s.notePacket o 4 slack).enqueue (dieOf o.core) (o.packet id 4 0 addr slack 32 0 none)

/-- Send packets of an operation of the hub for pieces of memory: each enters a die at the bridge of its address (R203, R219). -/
def State.sendFromHub (s : State) (id slack : Nat) (r w : List (Nat × Nat)) : State :=
  match s.pend.get? id with
  | none => s
  | some o =>
    let onDie (b : Nat × Nat) : Bool := dieOfKey (256 * b.1) < 4
    let all : List (Nat × Nat × Nat) := (((blocksOf r).filter onDie).take 64).map (fun b => (b.1, 0, b.2))
      ++ (((blocksOf w).filter onDie).take 64).map fun b => (b.1, b.2, 0)
    if all = [] then s
    else
      let s := { s with pend := s.pend.set id { o with leg := .request, away := o.away + all.length } }
      forEach all (fun s b =>
        let k := 256 * b.1
        s.enqueue (dieOfKey k)
          { op := id, reply := false, fromDie := 4, fromPort := 0, toDie := dieOfKey k, toPort := 96 + Config.sliceOf k % 96,
            bridge := bridgeOf k, inp := bridgeOf k, out := 96 + Config.sliceOf k % 96, slack := slack, data := b.2.1, back := b.2.2,
            flit := none, counted := false, recov := false, since := 0, headAt := 0 }) s

/-- The requests that a core has outstanding (R181). -/
def State.requests (s : State) (core : Nat) : Nat := ((s.pend.vals.filter fun o => o.core = core).map (·.reqs)).sum

/-- The sectors of memory beyond the core in pieces, as R181 counts them. -/
def sectorsFar (segs : List (Nat × Nat)) : Nat := (sectorsOf (segs.filter fun p => p.1 < 2 ^ 49)).length

/-! ### Flits (R220) -/

/-- The Nymnex port of an access to a peer (R220): plane (VA / 4096) mod 18, or the next working one; none if none works. -/
def Hub.port (h : Hub) (va : Nat) : Option Nat :=
  ((List.range 18).map fun i => (va / 4096 + i) % 18).find? fun p => !h.down.contains p

/-- A flit of this device (log 13). -/
def flitTo (peer tag : Nat) (kind : BitVec 8) (va : Nat) (payload : List Byte) : Flit :=
  { src := Config.deviceId, dst := BitVec.ofNat 16 peer, slack := 0, kind := kind, va := BitVec.ofNat 64 va,
    tag := BitVec.ofNat 64 tag, payload := payload }

/-- A flit leaves through the port of its page; what it asks waits from now (R220, R222). With every port down it waits. -/
def Hub.send (h : Hub) (tick : Nat) (f : Flit) : Hub :=
  match h.port f.va.toNat with
  | none => { h with stuck := h.stuck ++ [(tick, f)] }
  | some p =>
    { h with outbox := h.outbox ++ [(p, f)],
             asks := h.asks.map fun a => if a.tag = f.tag.toNat && f.kind.toNat < 3 then { a with sent := some tick } else a }

/-- A flit departs with the slack that is left (R204). -/
def State.depart (s : State) (f : Flit) (slack : Nat) : State :=
  s.modHub fun h => h.send s.tick { f with slack := BitVec.ofNat 16 slack }

/-- The slack that a flit has left at the hub, whose epoch of 16 cycles is one tick long (R204; log 13). -/
def State.hubSlack (s : State) (since slack : Nat) : Nat := slack - (s.ticks - since / 720720)

/-! ### Asking a peer (R221, R222) -/

/-- Whether an owner still waits for a peer. -/
def State.asking (s : State) (owner : Nat) : Bool := s.hub.asks.any fun a => a.owner = owner && a.got.isNone

/-- An owner's requests are forgotten; a reply that comes later is discarded (R222). -/
def State.dropAsks (s : State) (owner : Nat) : State :=
  s.modHub fun h => { h with asks := h.asks.filter (·.owner ≠ owner) }

/-- The answers that an owner has used are forgotten. -/
def State.usedAsks (s : State) (owner : Nat) : State :=
  s.modHub fun h => { h with asks := h.asks.filter fun a => !(a.owner = owner && a.got.isSome) }

/-- Send one request of at most 224 bytes: from an operation's core through a bridge, for the hub's own agents at once. -/
def State.sendAsk (s : State) (owner step peer slack : Nat) (kind : BitVec 8) (va n : Nat) (payload : List Byte) : State :=
  let (tag, s) := s.name
  let s := s.modHub fun h => { h with asks := h.asks ++ [⟨owner, step, tag, kind, va, n, none, [], false, none⟩] }
  let f := flitTo peer tag kind va payload
  match s.pend.get? owner with
  | none => s.depart f slack
  | some o =>
    match o.work with
    | .coll _ _ _ _ _ => s.depart f slack
    | _ => (s.notePacket o 5 slack).enqueue (dieOf o.core) (o.packet owner 4 0 va slack payload.length n (some f))

/-- The parts of at most 224 bytes of a range (R220). -/
def flitParts (va n : Nat) : List (Nat × Nat) :=
  (List.range ((n + 223) / 224)).map fun i => (va + 224 * i, min 224 (n - 224 * i))

/-- An answer that has come. -/
def State.answerTo (s : State) (owner step : Nat) (kind : BitVec 8) (va n : Nat) : Option (Option (List Byte)) :=
  (s.hub.asks.find? fun a => a.owner = owner && a.step = step && a.kind = kind && a.va = va && a.n = n).map (·.got)

/-- Read bytes of a peer for an owner: none until they have come; what is not yet asked for is asked for now. A short answer is a
refusal that the hub has had (R222). -/
def State.askRead (s : State) (owner step peer slack va n : Nat) : Option (List Byte) × State :=
  let ps := flitParts va n
  let got := ps.map fun p => (s.answerTo owner step 0 p.1 p.2).join
  if got.all (·.isSome) then (some (got.flatMap fun x => x.getD []), s)
  else (none, forEach (ps.filter fun p => (s.answerTo owner step 0 p.1 p.2).isNone) (fun s p =>
    s.sendAsk owner step peer slack 0 p.1 p.2 (natLE p.2 2)) s)

/-- Write bytes of a peer for an owner; the acknowledgment is an answer. -/
def State.askWrite (s : State) (owner step peer slack va : Nat) (bs : List Byte) : State :=
  forEach (flitParts va bs.length) (fun s p =>
    s.sendAsk owner step peer slack 1 p.1 0 ((bs.drop (p.1 - va)).take p.2)) s

/-- Send an operation's one request to a peer: a read of n bytes, a write of a payload, or an atomic that n bytes answer. -/
def State.askPeer (s : State) (id peer slack : Nat) (kind : BitVec 8) (va n : Nat) (payload : List Byte) : State :=
  if kind = 0 then (s.askRead id 0 peer slack va n).2
  else if kind = 1 then s.askWrite id 0 peer slack va payload
  else
    let ps := flitParts va payload.length
    forEach ps (fun s p => s.sendAsk id 0 peer slack kind p.1 (if p.1 + p.2 = va + payload.length then n else 0)
      ((payload.drop (p.1 - va)).take p.2)) s

/-- What peers have answered an operation, once all of it has come. -/
def State.answered (s : State) (id : Nat) : Option (List Byte) :=
  let l := s.hub.asks.filter (·.owner = id)
  if l.all (·.got.isSome) then some (l.flatMap fun a => a.got.getD []) else none

end Sys2Proof.Machine
end

