-- ==== Sys2Proof/Machine/Access.lean ====
section
/-!
DEFINITION. Memory instructions from issue to completion (R151, R156, R169, R175 to R178, R184 to R191, R196, R221,
R309, R337, R374, R396, R405): checks, translation, what is performed, what is logged, and the replay of a log entry.
-/

namespace Sys2Proof.Machine

/-! ### Who accesses -/

/-- The path that a memory instruction belongs to, as its context stands. -/
structure Who where
  ctx : Nat
  uid : Nat
  core : Nat
  team : Nat
  t : Team
  root : Nat
  slk : Word
deriving DecidableEq, Repr

def State.who? (s : State) (ctx uid : Nat) : Option Who :=
  match s.ctxs.get? ctx with
  | none => none
  | some c =>
    match s.teams.get? c.team with
    | none => none
    | some t => (s.launches.get? t.launch).map fun l => ⟨ctx, uid, c.core, c.team, t, l.root, c.slk⟩

def Env.who (e : Env) : Who := ⟨e.ref.ctx, e.act.uid, e.ctx.core, e.ctx.team, e.team, e.launch.root, e.ctx.slk⟩

/-! ### Sizes and needs -/

/-- The length of a set image for a span (R69). -/
def imgLen (span : Nat) : Nat := 16 + 16 * ((span + 127) / 128)

end Sys2Proof.Machine

namespace Sys2Proof

def AtomTy.size (t : AtomTy) : Nat :=
  match t with
  | .int64 | .uint64 => 8
  | _ => 4

end Sys2Proof

namespace Sys2Proof.Machine

/-- The bytes that an item accesses. -/
def AccKind.size (k : AccKind) (span : Nat) : Nat :=
  match k with
  | .ld ty | .lr ty | .st ty | .sc ty => ty.width / 8
  | .atom _ ty _ => ty.size
  | .sld _ | .sst _ => imgLen span
  | .sqpush _ _ | .sqpop _ _ => 32
  | .cpa _ | .route _ false | .strm _ => 32
  | .desc _ _ => 64
  | .route _ true => 4
  | .word => 8

/-- The alignment that an item needs (R78, R82, R151, R161). -/
def AccKind.align (k : AccKind) : Nat :=
  match k with
  | .sld _ | .sst _ => 16
  | k => k.size 0

/-- What an item needs of its leaf (R174). -/
def AccKind.need (k : AccKind) : Need :=
  match k with
  | .ld _ | .lr _ | .sld _ | .cpa _ | .strm _ | .route _ false | .word | .desc _ _ => .read
  | .st _ | .sc _ | .sst _ | .route _ true => .write
  | .atom _ _ _ | .sqpush _ _ | .sqpop _ _ => .both

def AccKind.isStore (k : AccKind) : Bool :=
  match k with
  | .st _ | .sst _ => true
  | _ => false

/-- What an item of an access comes to under the translations of its pages. -/
def Access.itemReach (a : Access) (w : Who) (t : List (Nat × XOut)) (i : Item) : Reach :=
  let n := a.kind.size w.t.span
  if a.shared then
    match sharedKey w.core w.t i.addr n with
    | some k => .go (.mem [(k, n)] false false)
    | none => .prot
  else reachBy t w.root i.addr n (some (dieOf w.core))

/-- What the items of an instruction come to; each of their pages is translated once (R169). -/
def State.reachAll (w : Who) (a : Access) (l : List Item) (s : State) : List (Item × Reach) × State :=
  let n := a.kind.size w.t.span
  let (t, s) := State.xlateAll (some w.core) (dieOf w.core) w.root a.kind.need
    (if a.shared then [] else pagesIn (l.map fun i => (i.addr, n))) s
  (l.map fun i => (i, a.itemReach w t i), s)

/-- What an item of an access comes to. -/
def State.itemReach (s : State) (w : Who) (a : Access) (i : Item) : Reach × State :=
  let (l, s) := State.reachAll w a [i] s
  (((l.head?).map Prod.snd).getD .prot, s)

def Reach.segs (r : Reach) : List (Nat × Nat) :=
  match r with
  | .go (.mem l _ _) => l
  | _ => []

def Reach.isPeer (r : Reach) : Bool :=
  match r with
  | .go (.peer _ _) => true
  | _ => false

def Reach.isSc (r : Reach) : Bool :=
  match r with
  | .go (.mem _ sc _) => sc
  | .go (.peer _ sc) => sc
  | _ => false

def Reach.isHost (r : Reach) : Bool :=
  match r with
  | .go (.mem _ _ h) => h
  | _ => false

def Reach.pages (r : Reach) : List PageRef :=
  match r with
  | .absent l => l
  | _ => []

/-- Whether a peer or host leaf forbids the access (R338, R377, R396). -/
def leafForbids (k : AccKind) (r : Reach) : Bool :=
  match k with
  | .lr _ | .sc _ => r.isPeer || r.isHost
  | .atom op ty _ => r.isHost && !((op = .add || op = .exch || op = .cas) && ty ≠ .fp32)
  | _ => false

/-- The translation root of an operation. -/
def State.opRoot (s : State) (o : Op) : Option Nat := ((s.teams.get? o.team).bind fun t => s.launches.get? t.launch).map (·.root)

/-! ### Operations of an access -/

/-- Mark the register of a result of a context's path empty (R51, R176). -/
def State.emptyIn (s : State) (ctx team uid : Nat) (r : Res) : State :=
  match r with
  | .v t n _ => s.modThread team t (·.empty n)
  | .h t n _ => s.modThread team t fun th => { th with h := th.h.set n ⟨(th.path n).val, false⟩ }
  | .flags _ _ => s
  | .u n _ => s.modCtx ctx (·.modUid uid (·.emptyU n))
  | .k n _ => s.modCtx ctx (·.modUid uid (·.emptyK n))

/-- An operation of an access. -/
def opOf (w : Who) (a : Access) (s : State) (work : Work) : Op :=
  { ctx := w.ctx, team := w.team, core := w.core, exited := false, uid := w.uid, pc := a.pc, work := work, res := [], tl := 5, num := 0, ov := a.ov, cls := a.cls,
    late := a.late, leg := .arrived, since := s.cycOf w.core, peer := false, fills := [], srcs := [], tainted := false,
    faults := [], failed := none, acc := none, slack := slackOf w.slk a.cls, reqs := 0, sent := if a.sent = 0 then s.tick else a.sent, away := 0, finished := false, seen := [], gone := [] }

/-- Post an operation of an access over pieces of memory, those of `wr` written: its registers become empty, its packets leave. -/
def State.postOp (s : State) (w : Who) (o : Op) (segs : List (Nat × Nat)) (wr : List (Nat × Nat) := []) : Nat × State :=
  let (id, s) := s.name
  let s := forEach o.res (fun s r => s.emptyIn w.ctx w.team w.uid r) s
  let s := { s with pend := s.pend.set id { o with reqs := max o.reqs (sectorsFar (segs ++ wr)) } }
  let level := ((segs ++ wr).map fun p => levelOf w.core p.1).foldl max 0
  let s := if level = 1 || level = 2 then s.note w.core w.uid o.pc fun t => { t with level := max t.level level } else s
  (id, s.sendBlocks id o.slack segs wr)

/-- Post one item's access to a peer device and send its request: a read of n bytes, or a payload that n bytes answer. The
operation keeps the item for R222. -/
def State.postPeer (s : State) (w : Who) (a : Access) (i : Item) (peer : Nat) (work : Work) (res : List Res)
    (kind : BitVec 8) (n : Nat) (payload : List Byte := []) : State :=
  let o : Op := { opOf w a s work with
    res := res, peer := true, leg := .request, acc := some { a with items := [i] }, reqs := 1 }
  let (id, s) := s.name
  let s := forEach res (fun s r => s.emptyIn w.ctx w.team w.uid r) s
  { s with pend := s.pend.set id o }.askPeer id peer o.slack kind i.addr n payload

/-- The results of a value in a thread's logical registers. -/
def resAt (wide : Bool) (t n : Nat) (x : Word) : List Res :=
  if n = noDst then []
  else if wide then [.v t n (x.setWidth 32), .v t (n + 1) ((x >>> 32).setWidth 32)] else [.v t n (x.setWidth 32)]

/-- What a load of a type writes (R109, R374). -/
def loadRes (ty : Ty) (t n : Nat) (bs : List Byte) : List Res :=
  resAt ty.is64 t n (extend ty.width ty.signed (BitVec.ofNat 64 (leNat bs)))

/-! ### ATOM (R337) -/

/-- The new value of an atomic operation. -/
def atomNew (op : AtomOp) (ty : AtomTy) (old d d2 : Word) : Word :=
  let w := 8 * ty.size
  let sg : Bool := ty = .int32 || ty = .int64
  let x := lowBits w old
  let y := lowBits w d
  match op with
  | .add => if ty = .fp32 then BitVec.ofNat 64 (Fmt.fp32.add .rne x.toNat y.toNat).bits else lowBits w (x + y)
  | .and => x &&& y
  | .or => x ||| y
  | .xor => x ^^^ y
  | .min => if ty = .fp32 then BitVec.ofNat 64 (Fmt.fp32.minMax false x.toNat y.toNat).bits
      else if intOf w sg x ≤ intOf w sg y then x else y
  | .max => if ty = .fp32 then BitVec.ofNat 64 (Fmt.fp32.minMax true x.toNat y.toNat).bits
      else if intOf w sg x ≥ intOf w sg y then x else y
  | .exch => y
  | .cas => if x = y then lowBits w d2 else x

/-! ### What is performed -/

/-- An item with the pieces that it reaches. -/
abbrev Got := Item × Reach

/-- Insert an item by ascending tid. -/
def insItem (x : Got) : List Got → List Got
  | [] => [x]
  | y :: r => if x.1.tid ≤ y.1.tid then x :: y :: r else y :: insItem x r

def byTid (l : List Got) : List Got := l.foldr insItem []

/-- Marks an item of a load that was performed before its team was pre-empted: `data` holds its value, which the replay
delivers (R185, R270). -/
def performed : Word := 1

/-- Loads: each thread's value is fixed now (R185, R186), and written when its reply arrives; a load of scratchpad
only is written at once (R375). -/
def State.doLoad (s : State) (w : Who) (a : Access) (ty : Ty) (before : Nat) (atOnce : Bool) (l : List Got) : State :=
  let val (g : Got) : List Res :=
    let own := (s.ownStores w.ctx w.team g.1.tid).filter (·.op < before)
    loadRes ty g.1.tid g.1.dst (if g.1.data2 = performed then natLE g.1.data.toNat (ty.width / 8) else s.seenSegs own g.2.segs)
  let res := (l.filter fun g => !g.2.isPeer).flatMap val
  let s := if res = [] then s
    else if atOnce then forEach res (fun s r => s.deliver w.ctx w.team w.uid r) s
    else (s.postOp w { opOf w a s .load with
      res := res, acc := some { a with strong := l.any (·.2.isSc), items := (l.filter fun g => !g.2.isPeer).map Prod.fst } }
      (l.flatMap (·.2.segs))).2
  forEach (l.filter (·.2.isPeer)) (fun s g =>
    match g.2 with
    | .go (.peer p sc) => s.postPeer w { a with strong := a.strong || sc } g.1 p .load (loadRes ty g.1.tid g.1.dst []) 0 (ty.width / 8)
    | _ => s) s

/-- LR: the load, and a reservation on the granule (R196, R377). -/
def State.doLr (s : State) (w : Who) (a : Access) (ty : Ty) (l : List Got) : State :=
  let s := forEach l (fun s g => s.modThread w.team g.1.tid fun th =>
    { th with resv := (g.2.segs.head?).map fun p => ⟨p.1 / 64, s.cycOf w.core⟩ }) s
  s.doLoad w a ty s.nextId false l

/-- Whether a thread's reservation is on the granule of a key and still valid (R196: 4096 cycles). -/
def State.reserved (s : State) (team tid key : Nat) : Bool :=
  match s.thread team tid with
  | some th => th.resv.any fun r => decide (r.granule = key / 64) && decide (s.cycOf th.core - r.since < 4096)
  | none => false

/-- SC by ascending tid (R197, R396): the outcomes, and the stores that succeed. -/
def State.doSc (s : State) (w : Who) (a : Access) (ty : Ty) (l : List Got) : State :=
  let step (p : List Res × State) (g : Got) : List Res × State :=
    let key := ((g.2.segs.head?).map Prod.fst).getD 0
    let ok := p.2.reserved w.team g.1.tid key
    let s := if ok then p.2.put key (natLE g.1.data.toNat (ty.width / 8)) else p.2
    let s := s.modThread w.team g.1.tid fun th => { th with resv := none }
    (p.1 ++ resAt false g.1.tid g.1.dst (if ok then 0 else 1), s)
  let (res, s) := (byTid l).foldl step ([], s)
  let segs := l.flatMap (·.2.segs)
  (s.postOp w { opOf w a s .sc with res := res } segs segs).2

/-- The operation and the type of an atomic request, as R336 numbers them (log 13). -/
def atomOps : List AtomOp := [.add, .and, .or, .xor, .min, .max, .exch, .cas]
def atomTys : List AtomTy := [.int32, .uint32, .int64, .uint64, .fp32]
def atomCode (op : AtomOp) : Nat := atomOps.idxOf op
def atomTyCode (ty : AtomTy) : Nat := atomTys.idxOf ty

/-- ATOM by ascending tid (R337): performed now, its old values returned with the reply. -/
def State.doAtom (s : State) (w : Who) (a : Access) (op : AtomOp) (ty : AtomTy) (ret : Bool) (l : List Got) : State :=
  let wide := ty.size = 8
  let step (p : List Res × State) (g : Got) : List Res × State :=
    let old : Word := BitVec.ofNat 64 (leNat (p.2.readSegs g.2.segs))
    let s := State.putSegs g.2.segs (natLE (atomNew op ty old g.1.data g.1.data2).toNat ty.size) p.2
    (p.1 ++ (if ret then resAt wide g.1.tid g.1.dst old else []), s)
  let here := byTid (l.filter fun g => !g.2.isPeer)
  let (res, s) := here.foldl step ([], s)
  let s := if here = [] then s else (s.postOp w { opOf w a s .atomic with res := res } (here.flatMap (·.2.segs)) (here.flatMap (·.2.segs))).2
  forEach (byTid (l.filter (·.2.isPeer))) (fun s g =>
    match g.2 with
    | .go (.peer p sc) => s.postPeer w { a with strong := a.strong || sc } g.1 p .atomic (if ret then resAt wide g.1.tid g.1.dst 0 else []) 2
        (if ret then ty.size else 0) (natLE (atomCode op) 1 ++ natLE (atomTyCode ty) 1 ++ natLE g.1.data.toNat ty.size ++ natLE g.1.data2.toNat ty.size)
    | _ => s) s

/-- The bytes that an item stores. -/
def Access.storeBytes (a : Access) (w : Who) (img : List Byte) (i : Item) : List Byte :=
  match a.kind with
  | .st ty => natLE i.data.toNat (ty.width / 8)
  | _ => img.take (imgLen w.t.span)

/-- The parts of a piece of memory that are each single-copy atomic: 16-byte blocks of an image, else all of it (R80, R184). -/
def atomicParts (n : Nat) : List (Nat × Nat) :=
  (List.range ((n + 15) / 16)).map fun i => (16 * i, min 16 (n - 16 * i))

/-- The stores of pieces. -/
def storePieces (i : Item) (strong : Bool) (entry op : Nat) : List (Nat × Nat) → List Byte → List Store
  | [], _ => []
  | (k, n) :: r, bs =>
    ((atomicParts n).map fun p =>
      { tid := i.tid, at' := k + p.1, bytes := ((bs.take n).drop p.1).take p.2, faulted := false, entry := entry,
        strong := strong, peer := false, op := op }) ++ storePieces i strong entry op r (bs.drop n)

/-- Stores enter the context's queue by ascending tid (R405); those whose page is absent hold their place (R178). -/
def State.doStores (s : State) (w : Who) (a : Access) (img : List Byte) (entry : Nat) (l : List Got) : State :=
  let (id, s) := s.postOp w { opOf w a s .store with acc := none } [] (l.flatMap (·.2.segs))
  let step (s : State) (g : Got) : State :=
    let bs := a.storeBytes w img g.1
    match g.2 with
    | .go (.mem segs sc _) =>
      s.modCtx w.ctx fun c => { c with queue := c.queue ++ storePieces g.1 (a.strong || sc) entry id segs bs }
    | .go (.peer p sc) =>
      let (pid, s) := s.name
      let o : Op := { opOf w a s .store with peer := true, leg := .request, acc := some { a with items := [g.1] }, reqs := 1, num := p }
      let s := { s with pend := s.pend.set pid o }
      s.modCtx w.ctx fun c => { c with queue := c.queue ++
        [{ tid := g.1.tid, at' := g.1.addr, bytes := bs, faulted := false, entry := entry, strong := a.strong || sc,
           peer := true, op := pid }] }
    | .absent _ =>
      s.modCtx w.ctx fun c => { c with queue := c.queue ++
        [{ tid := g.1.tid, at' := g.1.addr, bytes := bs, faulted := true, entry := entry, strong := a.strong,
           peer := false, op := id }] }
    | _ => s
  forEach (byTid l) step s

/-- Stores performed at once: strong ones (R187), those to SC pages (R191), those that clear poison (R309). -/
def State.doStoresNow (s : State) (w : Who) (a : Access) (img : List Byte) (l : List Got) : State :=
  let s := forEach (byTid l) (fun s g => State.putSegs g.2.segs (a.storeBytes w img g.1) s) s
  let s := s.unpoison (l.flatMap (·.2.segs))
  (s.postOp w (opOf w a s .store) [] (l.flatMap (·.2.segs))).2

/-! ### Set images (R69, R70) -/

def imgFmt : Nat := 0x53450001

/-- The image of a set for a span. -/
def imgBytes (span : Nat) (b : Tids) : List Byte :=
  natLE imgFmt 4 ++ natLE span 4 ++ natLE (tidCount b) 4 ++ natLE 0 4 ++ natLE b.toNat (imgLen span - 16)

/-- The set of an image that is valid for a span. -/
def imgSet (span : Nat) (bs : List Byte) : Option Tids :=
  let f (i n : Nat) : Nat := leNat ((bs.drop i).take n)
  let b := BitVec.ofNat 2048 (leNat (bs.drop 16))
  if f 0 4 = imgFmt && f 4 4 = span && f 12 4 = 0 && f 8 4 = tidCount b && leNat (bs.drop 16) < 2 ^ span then some b
  else none

/-- SLD: the image is read and checked now; kd is written at completion (R78, R79). -/
def State.doSld (s : State) (w : Who) (a : Access) (k : Nat) (before : Nat) (g : Got) : Option State :=
  match g.2 with
  | .go (.peer p _) => some (s.postPeer w a g.1 p (.sld k) [.k k .empty] 0 (imgLen w.t.span))
  | _ =>
    let own := (s.ownStores w.ctx w.team noTid).filter (·.op < before)
    match imgSet w.t.span (s.seenSegs own g.2.segs) with
    | none => none
    | some b =>
      match s.canon w.team (w.t.side w.core) b with
      | none => none
      | some (f, s) => some (s.postOp w { opOf w a s (.sld k) with res := [.k k f] } g.2.segs).2

/-! ### From checks to effects -/

/-- Trap over some items' threads, or uniformly for an instruction issued once per path (R273). -/
def Env.trapItems (e : Env) (s : State) (a : Access) (code : Nat) (l : List Item) : State :=
  if a.once then e.trapAll s code else e.trap s code (l.map (·.tid)) false

/-- The items of a list that satisfy a test. -/
def itemsOf (l : List Got) (p : Got → Bool) : List Item := (l.filter p).map Prod.fst

/-- Whether an item meets poison (R309). -/
def State.gotPoison (s : State) (a : Access) (l : List Got) (g : Got) : Bool :=
  if a.kind.isStore then s.writePoisoned (l.flatMap (·.2.segs)) g.2.segs else s.segsPoisoned g.2.segs

/-- Whether the stores of an access clear poison, so that they are performed at once. -/
def State.clearsPoison (s : State) (a : Access) (l : List Got) : Bool :=
  a.kind.isStore && (sectorsOf (l.flatMap (·.2.segs))).any fun x => s.poison.contains x

/-- The absent lines that an access touches (R156); a failing SC parks on none (R396). -/
def State.absentLines (s : State) (w : Who) (a : Access) (l : List Got) : List Nat :=
  let counts (g : Got) : Bool := match a.kind with
    | .sc _ => s.reserved w.team g.1.tid (((g.2.segs.head?).map Prod.fst).getD 0)
    | _ => true
  ((l.filter counts).flatMap fun g => g.2.segs.flatMap fun p => linesOf p.1 p.2).filter fun k => !s.linePresent k

/-- Whether stores of an access are performed at once. -/
def State.storesNow (s : State) (a : Access) (l : List Got) : Bool :=
  a.kind.isStore && (a.strong || l.any (·.2.isSc) || s.clearsPoison a l)

/-- Whether a thread has a store to some bytes that is not yet visible, by its pieces or by its address where it is faulted or
goes to a peer. -/
def stillStored (own : List Store) (shared : Bool) (va n : Nat) (segs : List (Nat × Nat)) : Bool :=
  overlaps own segs || (!shared && waitsFor own va n)

/-- Whether a load or an atomic of a context, or of one of its paths, has not returned from a peer device. -/
def State.awayAt (s : State) (ctx : Nat) (uid : Option Nat) : Bool :=
  s.pend.vals.any fun o => o.ctx = ctx && o.peer && uid.all (o.uid = ·) && (match o.work with
    | .store | .cpa _ _ _ _ _ | .code _ => false
    | _ => true)

/-- Why an access must wait for earlier accesses of its path, its context and its threads: stores of the same thread to the
same bytes, wherever they wait (R185, R193); faulted stores before any store (R178); loads in program order (R186); stores that
clear poison after the queue; an SC page after everything of its path (R191). A strong access waits for no weak access to
other bytes (R188); an SC instruction waits for its context's stores to its granule, which end the reservation (R377). Only stores that are older than `before` count. -/
def State.mustDrain (s : State) (w : Who) (a : Access) (before : Nat) (l : List Got) : Option Why :=
  let q := (((s.ctxs.get? w.ctx).map (·.queue)).getD []).filter (·.op < before)
  let log := ((s.ctxs.get? w.ctx).map (·.log)).getD []
  let n := a.kind.size w.t.span
  let sc := l.any (·.2.isSc)
  let own (g : Got) : List Store := (s.ownStores w.ctx w.team (if a.once then noTid else g.1.tid)).filter (·.op < before)
  let stored (g : Got) : Bool := stillStored (own g) a.shared g.1.addr n g.2.segs
  let waitItem (g : Got) : Bool :=
    match a.kind with
    | .ld _ | .lr _ | .sld _ | .route _ false =>
      (!a.shared && waitsFor (own g) g.1.addr n) || ((a.strong || g.2.isPeer) && stored g)
    | .atom _ _ _ => stored g
    | .sc _ => stored g || stillStored q a.shared (g.1.addr / 64 * 64) 64 (g.2.segs.map fun p => (p.1 / 64 * 64, 64))
    | .st _ | .sst _ => s.storesNow a l && stored g
    | _ => false
  let logged (g : Got) : Bool :=
    !a.shared && a.kind.need ≠ .read && log.any fun x => !x.acc.shared && x.acc.items.any fun i =>
      (i.tid = g.1.tid || x.acc.once) && decide (i.addr < g.1.addr + n)
        && decide (g.1.addr < i.addr + x.acc.kind.size w.t.span)
  let writesNow := s.storesNow a l || (match a.kind with
    | .sc _ => true
    | _ => false)
  let loads := a.kind.need ≠ .write
  if sc && (!q.isEmpty || s.awayAt w.ctx (some w.uid)) then some .drain
  else if sc && log.any (fun x => x.acc.uid = w.uid) then some .log
  else if writesNow && q.any (·.faulted) then some .drain
  else if s.clearsPoison a l && !q.isEmpty then some .drain
  else if loads && s.awayAt w.ctx none then some .drain
  else if l.any waitItem then some .drain
  else if l.any logged then some .log
  else none

/-- The log entry of an access for the items whose pages are absent (R176). -/
def State.logItems (s : State) (w : Who) (a : Access) (id : Nat) (l : List Got) : State :=
  if l = [] then s
  else
    let a' : Access := { a with items := l.map Prod.fst }
    let s := forEach l (fun s g => forEach (a.dests g.1) (fun s r => s.emptyIn w.ctx w.team w.uid r) s) s
    s.addEntry w.ctx ⟨id, a', (l.flatMap (·.2.pages)).eraseDups, none⟩

/-- The entries of a context's operand log that are taken: those of instructions, and its held engine operations (R176). -/
def State.logUsed (s : State) (ctx : Nat) : Nat :=
  (((s.ctxs.get? ctx).map (·.log.length)).getD 0)
    + (s.opsOf ctx fun o => o.faults ≠ [] || o.failed.isSome).length

/-- What an access of the generic kinds performs for its items; `before` bounds the stores that its loads see, `entry`
names its log entry. None: the image of an SLD is not valid, or no slot is free (R79). -/
def State.performAcc (s : State) (w : Who) (a : Access) (img : List Byte) (before entry : Nat) (atOnce : Bool)
    (l : List Got) : Option State :=
  let go := l.filter fun g => match g.2 with
    | .go _ => true
    | _ => false
  match a.kind with
  | .st _ | .sst _ => some (if s.storesNow a l && go.all (fun g => !g.2.isPeer) && go.length = l.length
      then s.doStoresNow w a img l else s.doStores w a img entry l)
  | .ld ty => some (if go = [] then s else s.doLoad w a ty before atOnce go)
  | .lr ty => some (if go = [] then s else s.doLr w a ty go)
  | .sc ty => some (if go = [] then s else s.doSc w a ty go)
  | .atom op ty ret => some (if go = [] then s else s.doAtom w a op ty ret go)
  | .sld k =>
    match go with
    | g :: _ => s.doSld w a k before g
    | [] => some s
  | _ => some s

/-- The set image that an SST stores. -/
def Access.img (a : Access) (span : Nat) : List Byte :=
  match a.kind with
  | .sst b => imgBytes span b
  | _ => []

/-- An access whose pages have all translated or been found absent goes on (R175): traps, or waits at issue, or is
performed for the items that reach memory and logged for the others; it then retires. -/
def Env.proceed (e : Env) (s : State) (a : Access) : State :=
  let w := e.who
  let (l, s) := State.reachAll w a a.items s
  let prot := itemsOf l fun g => g.2 = .prot || leafForbids a.kind g.2
  let bad := itemsOf l fun g => g.2 = .bad
  let pois := itemsOf l (s.gotPoison a l)
  let away := l.filter fun g => !g.2.pages.isEmpty
  let here := l.filter fun g => g.2.pages.isEmpty
  if prot ≠ [] then e.trapItems s a 0x05 prot
  else if bad ≠ [] then e.trapItems s a 0x04 bad
  else if pois ≠ [] then e.trapItems s a 0x10 pois
  else if s.absentLines w a here ≠ [] then e.parkAbsent s
  else if away ≠ [] && 16 ≤ s.logUsed e.ref.ctx then e.park s (.again .log)
  else
    match s.mustDrain w a s.nextId here with
    | some y => e.park s (.again y)
    | none =>
      let segs := here.flatMap (·.2.segs)
      if s.requests e.ctx.core + sectorsFar segs + (here.filter (·.2.isPeer)).length > 1024 then
        e.park s (.again .requests)
      else
        let (id, s1) := s.name
        let spad := a.shared && segs.all fun p => decide (p.1 < 2 ^ 50)
        let todo := if a.kind.isStore then l else here
        match s1.performAcc w a (a.img w.t.span) s1.nextId id spad todo with
        | none => e.trapItems s a 0x09 a.items
        | some s2 => e.retire (s2.logItems w a id away)

/-- Whether the path may issue a memory instruction: a faulted or SC-page access of it, or a strong access of it to a
peer, holds it back (R178, R191). -/
def Env.memHeld (e : Env) (s : State) : Option Why :=
  if e.ctx.log.any (fun l => l.acc.uid = e.act.uid && l.acc.strong) then some .log
  else if e.ctx.queue.any (·.strong) then some .drain
  else if s.pend.vals.any fun o => o.ctx = e.ref.ctx && o.uid = e.act.uid && o.acc.any (·.strong) then some .drain
  else none

/-- The checks of R151 that need no translation: alignment, then the space's range. -/
def Env.rangeBad (e : Env) (a : Access) (i : Item) : Bool :=
  if a.shared then (sharedKey e.ctx.core e.team i.addr (a.kind.size e.team.span)).isNone else decide (i.addr ≥ 2 ^ 56)

/-- The pages of an access that no TLB holds (R169); a copy of no bytes needs none (R161). -/
def Env.missing (e : Env) (s : State) (a : Access) : List Nat :=
  let mine (i : Item) : Bool := match a.kind with
    | .cpa _ => i.data ≠ 0
    | _ => true
  (pagesIn ((a.items.filter mine).map fun i => (i.addr, a.kind.size e.team.span))).filter fun p =>
    (s.cached (some e.ctx.core) (dieOf e.ctx.core) e.launch.root p).isNone

/-- The walks of a die that are started and not done; `num` is 1 from a walk's start. -/
def State.walks (s : State) (d : Nat) (started : Bool) : List (Nat × Op) :=
  s.pend.filter fun p => dieOf p.2.core = d && (match p.2.work with
    | .walk _ => if started then p.2.num = 1 && p.2.leg = .request else p.2.num = 0
    | _ => false)

/-- The walk that a die's scheduler starts first: that of the instruction with the fewest walks outstanding, then of the oldest
instruction (R171). -/
def State.firstWalk (s : State) (d : Nat) : Option (Nat × Op) :=
  let out (o : Op) : Nat := ((s.walks d true).filter fun q => q.2.uid = o.uid).length
  (s.walks d false).foldl (fun (b : Option (Nat × Op)) p =>
    match b with
    | none => some p
    | some q =>
      if out p.2 < out q.2 || (out p.2 = out q.2 && decide (p.2.since < q.2.since)) then some p else some q) none

/-- Start a walk: it takes its instruction's slack and reads the entries that no other walk of the instruction reads (R171, R203). -/
def State.startWalk (s : State) (id : Nat) (o : Op) : State :=
  match s.opRoot o with
  | none => s
  | some root =>
    let reads (w : Work) : List Nat := match w with
      | .walk p => walkReads s.mem p 4 root
      | _ => []
    let others := (s.pend.vals.filter fun q => q.uid = o.uid && q.num = 1).flatMap fun q => reads q.work
    let s := { s with pend := s.pend.set id { o with num := 1 } }
    s.sendBlocks id o.slack (((reads o.work).filter (!others.contains ·)).map fun k => (k, 8)) []

/-- Start walks of a die, up to 128 in flight (R171). -/
def State.startWalks (d : Nat) : Nat → State → State
  | 0, s => s
  | n + 1, s =>
    if 128 ≤ (s.walks d true).length then s
    else
      match s.firstWalk d with
      | none => s
      | some (id, o) => State.startWalks d n (s.startWalk id o)

/-- The path waits for the walks of the pages that no TLB holds (R169, R171). -/
def Env.translate (e : Env) (s : State) (a : Access) : State :=
  let l := e.missing s a
  let s := forEach l (fun s p => (e.post s { e.newOp s (.walk p) with cls := a.cls, slack := slackOf e.ctx.slk a.cls }).2)
    (e.park s (.translating a))
  State.startWalks (dieOf e.ctx.core) 128 s

/-- Whether walks of a path are not done. -/
def State.walking? (s : State) (uid : Nat) : Bool :=
  s.pend.vals.any fun o => o.uid = uid && (match o.work with
    | .walk _ => o.num = 0 || o.leg = .request
    | _ => false)

/-- The walks of a path are done with, and others of the die start. -/
def State.walked (s : State) (uid d : Nat) : State :=
  let mine (o : Op) : Bool := o.uid = uid && (match o.work with
    | .walk _ => true
    | _ => false)
  State.startWalks d 128 { s with pend := s.pend.filter fun p => !mine p.2 }

/-- Issue an access (R151, R169, R176): ALIGN, then PROT, then translation; with every page in the TLBs it goes on at
once, else the path waits for TRANSLATION_COMPLETE. -/
def Env.accessWith (e : Env) (s : State) (a : Access) (go : State → State) : State :=
  match e.memHeld s with
  | some y => e.park s (.again y)
  | none =>
    if !a.shared && 16 ≤ s.logUsed e.ref.ctx then e.park s (.again .log)
    else
      let al := a.items.filter fun i => i.addr % a.kind.align ≠ 0
      let rg := a.items.filter (e.rangeBad a)
      if al ≠ [] then e.trap s 0x03 (if a.once then e.held else al.map (·.tid)) false
      else if rg ≠ [] then e.trapItems s a 0x05 rg
      else if a.shared || a.items.all fun i =>
          s.allCached e.ctx.core (dieOf e.ctx.core) e.launch.root i.addr (a.kind.size e.team.span) then
        go s
      else e.translate s a

/-- Issue an access of the generic kinds. -/
def Env.access (e : Env) (s : State) (a : Access) : State := e.accessWith s a (e.proceed · a)

/-! ### Replay (R177) -/

/-- Stores of an entry whose pages are now present leave their faulted state. -/
def Ctx.unfault (c : Ctx) (entry : Nat) (l : List Got) : Ctx :=
  let one (q : Store) : List Store :=
    if q.entry = entry && q.faulted then
      match l.find? fun g => g.1.tid = q.tid && g.1.addr = q.at' with
      | some (i, .go (.mem segs sc _)) => storePieces i (q.strong || sc) entry q.op segs q.bytes
      | some (_, .go (.peer _ sc)) => [{ q with faulted := false, peer := true, strong := q.strong || sc }]
      | _ => [q]
    else [q]
  { c with queue := c.queue.flatMap one }

/-- An entry fails with a code for some items: they become an entry of their own, whose trap is held (R179). -/
def State.failItems (s : State) (ctx : Nat) (l : LogEntry) (code : Nat) (its : List Item) : State :=
  if its = [] then s
  else
    let (id, s) := s.name
    let f : LogEntry := { l with id := id, acc := { l.acc with items := its }, failed := some code, pages := [] }
    let s := s.modCtx ctx fun c =>
      let move (q : Store) : Store := if q.entry = l.id && its.any (·.tid = q.tid) then { q with entry := id } else q
      { c.dropItems l.id its.contains with queue := c.queue.map move }
    let s := s.addEntry ctx f
    s.holdEntry ctx f

/-- What an entry awaits now; one that awaits no page replays when what it waits for has come (see `execTranslationComplete`). -/
def State.awaitPages (s : State) (ctx : Nat) (l : LogEntry) (ps : List PageRef) : State :=
  s.modCtx ctx fun c => { c with log := c.log.map fun x => if x.id = l.id then { x with pages := ps.eraseDups } else x }

/-- A replayed store that goes to a peer device becomes an operation of its own (R221). -/
def State.peerStore (s : State) (w : Who) (a : Access) (entry : Nat) (g : Got) : State :=
  match g.2 with
  | .go (.peer p _) =>
    let (id, s) := s.name
    let o : Op := { opOf w a s .store with peer := true, leg := .request, acc := some { a with items := [g.1] }, reqs := 1, num := p }
    let move (q : Store) : Store :=
      if q.entry = entry && q.peer && q.tid = g.1.tid && q.at' = g.1.addr then { q with op := id } else q
    { s with pend := s.pend.set id o }.modCtx w.ctx fun c => { c with queue := c.queue.map move }
  | _ => s

/-- Stores of an entry that reach memory now leave their faulted state: their packets and requests leave (R177, R203, R221). -/
def State.replayStores (s : State) (w : Who) (l : LogEntry) (ok : List Got) : State :=
  let q := ((s.ctxs.get? w.ctx).map (·.queue)).getD []
  let s := forEach (ok.filter (!·.2.isPeer)) (fun s g =>
    match q.find? fun x => x.entry = l.id && x.faulted && x.tid = g.1.tid && x.at' = g.1.addr with
    | some x => s.sendBlocks x.op (slackOf w.slk l.acc.cls) [] g.2.segs
    | none => s) s
  forEach (ok.filter (·.2.isPeer)) (fun s g => s.peerStore w l.acc l.id g) (s.modCtx w.ctx (·.unfault l.id ok))

/-- Replay an entry of the generic kinds: it translates again, and completes, fails or waits anew for its items. -/
def State.replayAcc (s : State) (w : Who) (l : LogEntry) : State :=
  let a := l.acc
  let (g, s) := State.reachAll w a a.items s
  let prot := itemsOf g fun x => x.2 = .prot || leafForbids a.kind x.2
  let bad := itemsOf g fun x => x.2 = .bad
  let ok := g.filter fun x => match x.2 with
    | .go _ => !leafForbids a.kind x.2
    | _ => false
  let pois := itemsOf ok (s.gotPoison a ok)
  let ok := ok.filter fun x => !pois.contains x.1
  let away := g.filter fun x => !x.2.pages.isEmpty
  let s := ((s.failItems w.ctx l 0x05 prot).failItems w.ctx l 0x04 bad).failItems w.ctx l 0x10 pois
  let done (s : State) : State :=
    let s := s.modCtx w.ctx fun c => c.dropItems l.id fun i => ok.any fun x => x.1 = i
    s.awaitPages w.ctx l (away.flatMap (·.2.pages))
  if a.kind.isStore then done (s.replayStores w l ok)
  else if ((s.modCtx w.ctx (·.dropItems l.id fun _ => true)).mustDrain w a l.id ok).isSome then
    s.awaitPages w.ctx l (away.flatMap (·.2.pages))
  else
    match s.performAcc w a [] l.id l.id false ok with
    | some s => done s
    | none => s.failItems w.ctx l 0x09 (ok.map Prod.fst)

end Sys2Proof.Machine
end

