-- ==== Sys2Proof/Machine/LoadStore.lean ====
section
/-!
DEFINITION. Memory instructions at issue: LD, ST, LR, SC, ATOM, SLD, SST, FENCE, tags and presence (R155, R157, R189,
R337, R374, R377, R388, R396, R405, R78), and the steps that complete them (R79, R82, R337, R359, R375, R396, R405).
-/

namespace Sys2Proof.Machine

/-! ### Addresses (R147) -/

/-- The address of a thread: base + index + offset, modulo 2^64. -/
def Env.addrOf (e : Env) (s : State) (base : USrc) (idx : Option VSrc) (off : Word) (t : Nat) : Nat :=
  let i : Word := match idx with
    | some v => (v.read .uint32 e s t) &&& 0xFFFFFFFF#64
    | none => 0
  (base.read e + i + off).toNat

/-- An access of the instruction at issue. -/
def Env.acc (e : Env) (kind : AccKind) (shared strong : Bool) (scope : Scope) (ov : Bool) (cls : BitVec 2)
    (items : List Item) (once : Bool) : Access :=
  { kind := kind, pc := e.addr, len := e.len, uid := e.act.uid, shared := shared, strong := strong, scope := scope,
    ov := ov, cls := cls, items := items, once := once }

/-- The logical number of a window register. -/
def Env.lnum (e : Env) (s : State) (t d : Nat) : Nat := (e.thread s t).base + d

/-- The value of a data register or pair. -/
def Env.vdata (e : Env) (s : State) (wide : Bool) (t d : Nat) : Word :=
  if wide then (e.thread s t).pair d else ((e.thread s t).reg d).val.setWidth 64

/-! ### LD, ST, LR, SC, ATOM -/

/-- The items of a load. -/
def MemOp.items (o : MemOp) (e : Env) (s : State) (ts : List Nat) : List Item :=
  let off := o.off.bytes 16
  ts.map fun t => { tid := t, addr := e.addrOf s o.base o.idx off t, data := 0, data2 := 0, dst := e.lnum s t o.v.toNat }

/-- The scope that a strong access has by its space (R182). -/
def fixedScope (shared : Bool) : Scope := if shared then .team else .pkg

/-- LD (R374). -/
def execLd (o : MemOp) (s : State) : Host.Outcome State Fault Refusal :=
  issueThreads s o.guard
    { u := memNeedsU o.base o.ra, v := memNeedsV o.idx o.rb, dv := destV o.v.toNat o.ty.is64 } fun e ts s =>
    e.access s (e.acc (.ld o.ty) o.sp o.strong o.scope o.ov o.sl (MemOp.items o e s ts) false)

/-- LR (R377). -/
def execLr (o : MemOp) (s : State) : Host.Outcome State Fault Refusal :=
  issueThreads s o.guard
    { u := memNeedsU o.base o.ra, v := memNeedsV o.idx o.rb, dv := destV o.v.toNat o.ty.is64 } fun e ts s =>
    e.access s (e.acc (.lr o.ty) o.sp true (fixedScope o.sp) o.ov o.sl (MemOp.items o e s ts) false)

/-- ST (R405). -/
def execSt (o : MemOp) (s : State) : Host.Outcome State Fault Refusal :=
  issueThreads s o.guard
    { u := memNeedsU o.base o.ra,
      v := memNeedsV o.idx o.rb ++ (destV o.v.toNat o.ty.is64).map (·, false) } fun e ts s =>
    let items := (MemOp.items o e s ts).map fun i =>
      { i with data := e.vdata s o.ty.is64 i.tid o.v.toNat, dst := noDst }
    e.access s (e.acc (.st o.ty) o.sp o.strong o.scope o.ov o.sl items false)

/-- SC (R396). -/
def execSc (o : ScOp) (s : State) : Host.Outcome State Fault Refusal :=
  issueThreads s o.guard
    { u := memNeedsU o.base o.ra,
      v := memNeedsV o.idx o.rb ++ (destV o.s.toNat o.ty.is64).map (·, o.rc), dv := [o.d.toNat] } fun e ts s =>
    let off : Word := match o.off with
      | some l => l.signExtend 64
      | none => 0
    let item (t : Nat) : Item :=
      { tid := t, addr := e.addrOf s o.base o.idx off t, data := e.vdata s o.ty.is64 t o.s.toNat, data2 := 0,
        dst := e.lnum s t o.d.toNat }
    e.access s (e.acc (.sc o.ty) o.sp true (fixedScope o.sp) o.ov o.sl (ts.map item) false)

/-- The registers that hold ATOM's data (R336). -/
def AtomicOp.regs (o : AtomicOp) : List Nat :=
  let n := (if o.ty.size = 8 then 2 else 1) * (if o.op = .cas then 2 else 1)
  (List.range n).map (o.v.toNat + ·)

/-- ATOM (R337). -/
def execAtom (o : AtomicOp) (s : State) : Host.Outcome State Fault Refusal :=
  let wide : Bool := o.ty.size = 8
  let v := o.v.toNat
  issueThreads s o.guard
    { u := memNeedsU o.base o.ra, v := memNeedsV o.idx o.rb ++ (AtomicOp.regs o).map (·, false) } fun e ts s =>
    let off := o.off.bytes 16
    let item (t : Nat) : Item :=
      { tid := t, addr := e.addrOf s o.base o.idx off t, data := e.vdata s wide t v,
        data2 := if o.op = .cas then e.vdata s wide t (if wide then v + 2 else v + 1) else 0,
        dst := if o.ret then e.lnum s t v else noDst }
    e.access s (e.acc (.atom o.op o.ty o.ret) o.sp true o.scope false o.sl (ts.map item) false)

/-! ### SLD, SST -/

/-- The one item of an instruction issued once per path. -/
def onceItem (addr : Nat) : Item := { tid := noTid, addr := addr, data := 0, data2 := 0, dst := noDst }

/-- The address of a set instruction (R72, R78). -/
def SetMem.addr (o : SetMem) (e : Env) : Nat := (o.base.read e + o.off.bytes 16).toNat

/-- SLD (R78, R79). -/
def execSld (o : SetMem) (s : State) : Host.Outcome State Fault Refusal :=
  issuePath s { u := o.base.need o.ra, dk := [o.k.toNat] } fun e s =>
    e.access s (e.acc (.sld o.k.toNat) o.sp false .lg o.ov o.sl [onceItem (SetMem.addr o e)] true)

/-- SST (R78, R80). -/
def execSst (o : SetMem) (s : State) : Host.Outcome State Fault Refusal :=
  issuePath s { u := o.base.need o.ra, k := [o.k.toNat] } fun e s =>
    e.access s (e.acc (.sst (e.set s o.k)) o.sp false .lg o.ov o.sl [onceItem (SetMem.addr o e)] true)

/-! ### FENCE -/

/-- Whether an entry of the operand log is of an access of its path, not of a copy, a stream or a descent (R189). -/
def AccKind.ordered (k : AccKind) : Bool :=
  match k with
  | .cpa _ | .strm _ | .word | .desc _ _ => false
  | _ => true

/-- Why a FENCE of a path waits: loads or atomics of it have not returned from a peer device, or are in the operand log (R189). -/
def Env.fenceHeld (e : Env) (s : State) : Option Why :=
  if s.awayAt e.ref.ctx (some e.act.uid) then some .drain
  else if e.ctx.log.any fun l => l.acc.uid = e.act.uid && l.acc.kind.ordered && !l.acc.kind.isStore then some .log
  else none

/-- FENCE (R189). A load is performed when it issues, or when a peer's reply arrives; a store when it leaves its queue. -/
def execFence (o : FenceOp) (s : State) : Host.Outcome State Fault Refusal :=
  issuePath s {} fun e s =>
    match e.fenceHeld s, o.kind with
    | some y, _ => e.park s (.again y)
    | none, .acq => e.retire s
    | none, _ => e.release s e.retire

/-! ### Tags (R152, R155) -/

/-- The tag set of an address in a team's allocation, as the first line of its core's table. -/
def tagSet (t : Team) (a : Nat) : Nat := t.spadBase / 128 + 8 * (a / 128 % (t.spadBytes / 1024))

/-- The way of a set that holds the line of an address. -/
def Core.wayOf (c : Core) (t : Team) (a : Nat) : Option Nat :=
  (List.range 8).find? fun w => c.tags.get? (tagSet t a + w) = some (a / 128)

/-- Invalidate the line of an address in its set. -/
def Core.untag (c : Core) (t : Team) (a : Nat) : Core :=
  { c with tags := (List.range 8).foldl (fun m w =>
      if m.get? (tagSet t a + w) = some (a / 128) then m.erase (tagSet t a + w) else m) c.tags }

/-- The checks of a tag instruction: an allocation (R155), a global address (R148); then its effect. -/
def Env.tagged (e : Env) (s : State) (o : TagOp) (ts : List Nat) (go : (Nat → Nat) → State) : State :=
  let addr (t : Nat) : Nat := e.addrOf s o.base o.idx (o.off.bytes 16) t
  let bad := ts.filter fun t => decide (addr t ≥ 2 ^ 56)
  if e.team.spadBytes < 1024 then e.trap s 0x05 ts false
  else if bad ≠ [] then e.trap s 0x05 bad false
  else go addr

def TagOp.needs (o : TagOp) : Needs := { u := memNeedsU o.base o.ra, v := memNeedsV o.idx o.rb }

/-- TAGL (R155). -/
def execTagl (o : TaglOp) (s : State) : Host.Outcome State Fault Refusal :=
  issueThreads s o.guard { TagOp.needs o.toTagOp with dv := [o.d.toNat] } fun e ts s =>
    e.tagged s o.toTagOp ts fun addr =>
      e.retire (forEach ts (fun s t =>
        e.setV s t o.d.toNat (match (s.core e.ctx.core).wayOf e.team (addr t) with
          | some w => BitVec.ofNat 32 w
          | none => 0xFFFFFFFF#32)) s)

/-- TAGS (R155). -/
def execTags (o : TagsOp) (s : State) : Host.Outcome State Fault Refusal :=
  let n := TagOp.needs o.toTagOp
  issueThreads s o.guard { n with v := n.v ++ o.way.need false false } fun e ts s =>
    e.tagged s o.toTagOp ts fun addr =>
      let way (t : Nat) : Nat := lowBits 32 (o.way.read .uint32 e s t) |>.toNat
      let bad := ts.filter fun t => decide (way t > 7)
      if bad ≠ [] then e.trap s 0x05 bad false
      else e.retire (forEach (sortNat ts) (fun s t => s.modCore e.ctx.core fun c =>
        let c := c.untag e.team (addr t)
        { c with tags := c.tags.set (tagSet e.team (addr t) + way t) (addr t / 128) }) s)

/-- TAGI (R155). -/
def execTagi (o : TagOp) (s : State) : Host.Outcome State Fault Refusal :=
  issueThreads s o.guard (TagOp.needs o) fun e ts s =>
    e.tagged s o ts fun addr =>
      e.retire (forEach (sortNat ts) (fun s t => s.modCore e.ctx.core fun c => c.untag e.team (addr t)) s)

/-! ### Presence (R157, R388) -/

/-- The scratchpad lines of a range of a team's own allocation, as keys of lines of its core. -/
def ownLines (core : Nat) (t : Team) (off n : Nat) : List Nat :=
  (List.range n).map fun i => lineKey core (t.spadBase + off + 128 * i)

/-- Whether an MSTR of a path still reads some lines (R388). -/
def State.reading (s : State) (ctx uid : Nat) (lines : List Nat) : Bool :=
  s.pend.vals.any fun o => o.ctx = ctx && o.uid = uid &&
    (match o.work with
     | .mstr _ _ _ _ _ _ _ _ _ => o.srcs.any fun p => (linesOf p.1 p.2).any lines.contains
     | _ => false)

/-- Whether a store of a context to some lines is not yet visible. -/
def Ctx.storing (c : Ctx) (lines : List Nat) : Bool :=
  c.queue.any fun q => !q.faulted && !q.peer && (linesOf q.at' q.bytes.length).any lines.contains

/-- Streams of a core's contexts: a filled ring line that is cleared is released (R159). -/
def Stream.release (st : Stream) (core : Nat) (t : Team) (lines : List Nat) : Stream :=
  let gone (n : Nat) : Bool := lines.contains (lineKey core (t.spadBase + st.ring + 128 * (n % st.rlines)))
  { st with filled := st.filled.filter (!gone ·) }

def State.releaseLines (s : State) (core team : Nat) (t : Team) (lines : List Nat) : State :=
  { s with ctxs := s.ctxs.map fun (p : Nat × Ctx) =>
      if p.2.team = team && p.2.core = core then
        (p.1, { p.2 with streams := p.2.streams.map fun q => (q.1, q.2.release core t lines) })
      else p }

/-- PRES in either form. -/
def presOp (o : PresOp) (on : Bool) (s : State) : Host.Outcome State Fault Refusal :=
  issuePath s { u := o.base.need o.ra } fun e s =>
    let off := (o.base.read e + o.off.bytes 16).toNat
    let n := o.n1.toNat + 1
    if off % 128 ≠ 0 then e.trap s 0x03 e.held false
    else if off + 128 * n > e.team.spadBytes then e.trapAll s 0x05
    else
      let lines := ownLines e.ctx.core e.team off n
      if s.reading e.ref.ctx e.act.uid lines then e.park s (.again .matrix)
      else if e.ctx.storing lines then e.park s (.again .drain)
      else
        let s := e.retire s
        if on then forEach lines State.setLine s
        else (forEach lines State.clearLine s).releaseLines e.ctx.core e.ctx.team e.team lines

/-- PRES.set (R157). -/
def execPresSet (o : PresOp) (s : State) : Host.Outcome State Fault Refusal := presOp o true s

/-- PRES.clr (R157). -/
def execPresClr (o : PresOp) (s : State) : Host.Outcome State Fault Refusal := presOp o false s

/-! ### Completions -/

/-- Whether an operation is of a kind and may complete. -/
def State.readyOp (s : State) (id : Nat) (p : Work → Bool) : Option Op :=
  match s.pend.get? id with
  | some o => if p o.work && o.arrived? && !s.asking id then some o else none
  | none => none

/-- Complete an operation of a kind that only delivers its results. -/
def completeOp (s : State) (id : Nat) (p : Work → Bool) : Host.Outcome State Fault Refusal :=
  match s.readyOp id p with
  | some _ => .next (s.finishOp id)
  | none => .next s

/-- LOAD_REPLY (R375): one thread's data arrive; the operation ends with its last thread's, the read of a WAIT's word at once. -/
def execLoadReply (op tid : Nat) (s : State) : Host.Outcome State Fault Refusal :=
  match s.readyOp op (fun w => match w with
    | .load | .word _ => true
    | _ => false) with
  | none => .next s
  | some o =>
    let mine (r : Res) : Bool := match r with
      | .v t _ _ => t = tid
      | _ => false
    let rest := o.res.filter (!mine ·)
    if rest = [] then .next (s.finishOp op)
    else
      let s := forEach (o.res.filter mine) (fun s r => s.deliver o.ctx o.team o.uid r) (s.noteResult o)
      .next (s.modOp op fun o => { o with res := rest })

/-- ATOMIC_REPLY (R337). -/
def execAtomicReply (op : Nat) (s : State) : Host.Outcome State Fault Refusal := completeOp s op fun w => w = .atomic

/-- SC_OUTCOME (R396). -/
def execScOutcome (op : Nat) (s : State) : Host.Outcome State Fault Refusal := completeOp s op fun w => w = .sc

/-- LONG_LATENCY_RESULT (R359, R362). -/
def execLongLatencyResult (op : Nat) (s : State) : Host.Outcome State Fault Refusal :=
  completeOp s op fun w => w = .latency

/-- A peer operation becomes a failed log entry whose trap is held; a store keeps its place in the queue (R178, R179, R222). -/
def State.failPeer (s : State) (id code : Nat) : State :=
  match s.pend.get? id with
  | none => s
  | some o =>
    match o.acc with
    | none => s
    | some a =>
      let (n, s) := s.name
      let l : LogEntry := { id := n, acc := { a with sent := o.sent, late := o.late }, pages := [], failed := some code }
      let s := { s with pend := s.pend.erase id }.dropAsks id
      let back (q : Store) : Store := if q.op = id then { q with faulted := true, peer := false, entry := n } else q
      let s := (s.addEntry o.ctx l).modCtx o.ctx fun c => { c with queue := c.queue.map back }
      s.holdEntry o.ctx l

/-- SLD_COMPLETE (R79): the image was read and checked when its access was performed; kd is written. -/
def execSldComplete (op : Nat) (s : State) : Host.Outcome State Fault Refusal :=
  completeOp s op fun w => match w with
    | .sld _ => true
    | _ => false

end Sys2Proof.Machine
end

