-- ==== Sys2Proof/Machine/SetQueue.lean ====
section
/-!
DEFINITION. Queues of sets: SQPUSH, SQPOP and their completion (R81 to R83).
-/

namespace Sys2Proof.Machine

/-- What a queue operation comes to. -/
inductive SqOut where
  | trap (code : Nat)
  | wait (y : Why)
  | log (ps : List PageRef)
  | peer (id : Nat)
  | done
deriving DecidableEq, Repr

/-- A queue descriptor (R81). -/
structure SqDesc where
  head : Nat
  tail : Nat
  cap : Nat
  ring : Nat
deriving DecidableEq, Repr

/-- The descriptor that 32 bytes hold, if it keeps R81's table. -/
def sqDesc (bs : List Byte) : Option SqDesc :=
  let f (i n : Nat) : Nat := leNat ((bs.drop i).take n)
  let d : SqDesc := ⟨f 0 4, f 4 4, f 8 4, f 16 8⟩
  if 1 ≤ d.cap && decide (d.cap ≤ 4096) && f 12 4 = 0 && d.ring % 16 = 0 && f 24 8 = 0
      && decide ((d.tail + 2 ^ 32 - d.head) % 2 ^ 32 ≤ d.cap) then some d
  else none

/-- What a reach of a queue operation comes to before its bytes are used: none, it can be used. -/
def State.sqCheck (s : State) (w : Who) (wr : Bool) (r : Reach) : Option SqOut :=
  match r with
  | .prot => some (.trap 0x05)
  | .bad => some (.trap 0x04)
  | .absent ps => some (.log ps)
  | .go (.peer p _) => some (.peer p)
  | .go (.mem segs sc _) =>
    let own := s.ownStores w.ctx w.team noTid
    let lines := segs.flatMap fun p => linesOf p.1 p.2
    if (if wr then s.writePoisoned segs segs else s.segsPoisoned segs) then some (.trap 0x10)
    else if lines.any (!s.linePresent ·) then some (.wait .presence)
    else if overlaps own segs || (sc && !(((s.ctxs.get? w.ctx).map (·.queue)).getD []).isEmpty) then some (.wait .drain)
    else none

/-- Perform the operation on a queue whose descriptor and entry can be reached. -/
def State.sqDo (s : State) (w : Who) (a : Access) (d : SqDesc) (desc entry : List (Nat × Nat)) : SqOut × State :=
  let key := ((desc.head?).map Prod.fst).getD 0
  let n := imgLen w.t.span
  match a.kind with
  | .sqpush sd set =>
    let s := State.putSegs entry ((imgBytes w.t.span set).take n) s
    let s := (s.put (key + 4) (natLE (d.tail + 1) 4)).unpoison entry
    (.done, (s.postOp w { opOf w a s .queue with res := [.u sd 0] } (desc ++ entry)).2)
  | .sqpop k sd =>
    match imgSet w.t.span (s.readSegs entry) with
    | none => (.trap 0x09, s)
    | some b =>
      match s.canon w.team (w.t.side w.core) b with
      | none => (.trap 0x09, s)
      | some (f, s) =>
        let s := s.put key (natLE (d.head + 1) 4)
        (.done, (s.postOp w { opOf w a s .queue with res := [.k k f, .u sd 0] } (desc ++ entry)).2)
  | _ => (.done, s)

/-- The result of an operation on a full or an empty queue. -/
def AccKind.sqIdle (k : AccKind) : List Res :=
  match k with
  | .sqpush sd _ => [.u sd 1]
  | .sqpop k sd => [.k k .empty, .u sd 1]
  | _ => []

/-- One operation on a queue: descriptor, entry, effect, indivisibly (R82, R83). -/
def State.sqTry (s : State) (w : Who) (a : Access) : SqOut × State :=
  match a.items with
  | [] => (.done, s)
  | i :: _ =>
    let (r, s) := s.itemReach w a i
    match s.sqCheck w false r with
    | some o => (o, s)
    | none =>
      match sqDesc (s.readSegs r.segs) with
      | none => (.trap 0x09, s)
      | some d =>
        let push : Bool := match a.kind with
          | .sqpush _ _ => true
          | _ => false
        if (if push then decide ((d.tail + 2 ^ 32 - d.head) % 2 ^ 32 = d.cap) else decide (d.tail = d.head)) then
          (.done, (s.postOp w { opOf w a s .queue with res := a.kind.sqIdle } r.segs).2)
        else
          let j := if push then d.tail % d.cap else d.head % d.cap
          let at' := (d.ring + j * imgLen w.t.span) % 2 ^ 64
          let (q, s) := s.itemReach w { a with kind := if push then .sst 0 else .sld 0 } { i with addr := at' }
          match s.sqCheck w push q with
          | some o => (o, s)
          | none => s.sqDo w a d r.segs q.segs

/-- What a queue operation sends to a peer device that holds its queue (log 13). -/
def AccKind.sqPayload (k : AccKind) (span : Nat) : List Byte :=
  match k with
  | .sqpush _ b => 0x10 :: (imgBytes span b).take (imgLen span)
  | _ => [0x11]

/-- The bytes that a peer answers it with: the status, and the image of a popped set. -/
def AccKind.sqAnswer (k : AccKind) (span : Nat) : Nat :=
  match k with
  | .sqpop _ _ => 1 + imgLen span
  | _ => 1

/-- A queue operation whose pages have translated or been found absent. -/
def Env.proceedSq (e : Env) (s : State) (a : Access) : State :=
  if s.requests e.ctx.core + 4 > 1024 then e.park s (.again .requests)
  else
    match s.sqTry e.who a with
    | (.trap c, s) => e.trapAll s c
    | (.wait .presence, s) => e.parkAbsent s
    | (.wait y, s) => e.park s (.again y)
    | (.log ps, s) =>
      let (id, s) := s.name
      let s := forEach (a.items.flatMap a.dests) (fun s r => s.emptyIn e.ref.ctx e.ctx.team e.act.uid r) s
      e.retire (s.addEntry e.ref.ctx ⟨id, a, ps.eraseDups, none⟩)
    | (.peer p, s) =>
      e.retire (forEach a.items (fun s i =>
        s.postPeer e.who a i p .queue (a.dests i) 2 (a.kind.sqAnswer e.team.span)
          (a.kind.sqPayload e.team.span)) s)
    | (.done, s) => e.retire s

/-- A logged queue operation replays (R177). -/
def State.replaySq (s : State) (w : Who) (l : LogEntry) : State :=
  let gone (s : State) : State := s.modCtx w.ctx fun c => c.dropItems l.id fun _ => true
  match s.sqTry w l.acc with
  | (.trap c, s) => s.failItems w.ctx l c l.acc.items
  | (.wait _, s) => s.awaitPages w.ctx l []
  | (.log ps, s) => s.awaitPages w.ctx l ps
  | (.peer p, s) => gone (forEach l.acc.items (fun s i =>
      s.postPeer w l.acc i p .queue (l.acc.dests i) 2 (l.acc.kind.sqAnswer w.t.span)
        (l.acc.kind.sqPayload w.t.span)) s)
  | (.done, s) => gone s

/-- SQPUSH (R82). -/
def execSqpush (o : SetMem) (s : State) : Host.Outcome State Fault Refusal :=
  issuePath s { u := o.base.need o.ra, k := [o.k.toNat], du := [o.sd.toNat] } fun e s =>
    let a := e.acc (.sqpush o.sd.toNat (e.set s o.k)) o.sp true (fixedScope o.sp) o.ov o.sl [onceItem (SetMem.addr o e)] true
    e.accessWith s a (e.proceedSq · a)

/-- SQPOP (R82). -/
def execSqpop (o : SetMem) (s : State) : Host.Outcome State Fault Refusal :=
  issuePath s { u := o.base.need o.ra, dk := [o.k.toNat], du := [o.sd.toNat] } fun e s =>
    let a := e.acc (.sqpop o.k.toNat o.sd.toNat) o.sp true (fixedScope o.sp) o.ov o.sl [onceItem (SetMem.addr o e)] true
    e.accessWith s a (e.proceedSq · a)

/-- SET_QUEUE_COMPLETE (R82). -/
def execSetQueueComplete (op : Nat) (s : State) : Host.Outcome State Fault Refusal := completeOp s op fun w => w = .queue

end Sys2Proof.Machine
end

