-- ==== Sys2Proof/Machine/Copy.lean ====
section
/-!
DEFINITION. Per-thread copies and batch tags, timeline reads, WAIT (R161, R162, R165 to R168, R407).
-/

namespace Sys2Proof.Machine

/-! ### Bytes that are indeterminate -/

/-- n indeterminate bytes (R6). -/
def State.freeBytes (s : State) (n : Nat) : List Byte × State :=
  ((List.range n).map fun i => (Config.freeWord (s.fresh + i)).setWidth 8, { s with fresh := s.fresh + n })

/-- What an operation reads from its sources now: indeterminate once a store has hit one (R192). -/
def State.input (s : State) (o : Op) : List Byte × State :=
  let bs := s.readSegs o.srcs
  if o.tainted then s.freeBytes bs.length else (bs, s)

/-! ### CPA (R161) -/

/-- Count copies under a tag and clear their lines (R156, R161). -/
def State.startCopies (s : State) (ctx core tag : Nat) (items : List Item) : State :=
  let s := s.modCtx ctx fun c => { c with tags := c.tags.set tag (c.tag tag + items.length) }
  forEach items (fun s i => s.clearLine (lineKey core i.dst)) s

/-- Post one copy. Its source is read when it completes. -/
def State.postCopy (s : State) (w : Who) (a : Access) (tag : Nat) (g : Got) : State :=
  let i := g.1
  let n := i.data.toNat
  let o : Op := { opOf w a s (.cpa tag i.tid i.dst i.addr n) with
    fills := [lineKey w.core i.dst], acc := some { a with items := [i] }, reqs := 1 }
  match g.2 with
  | .go (.peer p _) =>
    let (id, s) := s.name
    { s with pend := s.pend.set id { o with peer := true, leg := .request } }.askPeer id p o.slack 0 i.addr n []
  | _ =>
    let segs := match g.2.segs with
      | (k, _) :: _ => if n = 0 then [] else [(k, n)]
      | [] => []
    (s.postOp w { o with srcs := segs } segs).2

/-- What a copy's source comes to; a copy of no bytes reads nothing (R161), an SC page is a protection outcome (R191). -/
def State.copyReach (w : Who) (a : Access) : List Item → State → List Got × State
  | [], s => ([], s)
  | i :: r, s =>
    let (x, s) := if i.data = 0 then (Reach.go (.mem [] false false), s) else s.itemReach w a i
    let (l, s) := State.copyReach w a r s
    ((i, if x.isSc then .prot else x) :: l, s)

/-- A CPA whose pages have translated or been found absent. -/
def Env.proceedCpa (e : Env) (s : State) (a : Access) (tag : Nat) : State :=
  let w := e.who
  let (l, s) := State.copyReach w a a.items s
  let prot := itemsOf l fun g => g.2 = .prot
  let bad := itemsOf l fun g => g.2 = .bad
  let away := l.filter fun g => !g.2.pages.isEmpty
  if prot ≠ [] then e.trapItems s a 0x05 prot
  else if bad ≠ [] then e.trapItems s a 0x04 bad
  else if s.requests e.ctx.core + a.items.length > 1024 then e.park s (.again .requests)
  else e.release s fun s =>
    let s := s.startCopies e.ref.ctx e.ctx.core tag a.items
    let s := forEach (l.filter (·.2.pages.isEmpty)) (fun s g => s.postCopy w a tag g) s
    let (id, s) := s.name
    e.retire (s.logItems w a id away)

/-- The valid bytes of a thread's copy. -/
def validCount (v : Valid) (e : Env) (s : State) (t : Nat) : Nat :=
  match v with
  | .imm n => n.toNat
  | .reg r => min ((e.thread s t).reg r.toNat).val.toNat 32

/-- CPA (R161). -/
def execCpa (o : CpaOp) (s : State) : Host.Outcome State Fault Refusal :=
  let vv : List (Nat × Bool) := match o.valid with
    | .reg r => [(r.toNat, false)]
    | .imm _ => []
  issueThreads s o.guard
    { u := o.db.need false ++ o.sb.need o.rb, v := o.di.need false o.ra ++ o.si.need false o.rc ++ vv } fun e ts s =>
    let dst (t : Nat) : Nat := e.addrOf s o.db (some o.di) 0 t
    let src (t : Nat) : Nat := e.addrOf s o.sb (some o.si) 0 t
    match e.memHeld s with
    | some y => e.park s (.again y)
    | none =>
      if 16 ≤ s.logUsed e.ref.ctx then e.park s (.again .log)
      else
        let al := ts.filter fun t => decide (dst t % 32 ≠ 0) || decide (src t % 32 ≠ 0)
        let pr := ts.filter fun t => decide (dst t + 32 > e.team.spadBytes) || decide (src t ≥ 2 ^ 56)
        if al ≠ [] then e.trap s 0x03 al false
        else if pr ≠ [] then e.trap s 0x05 pr false
        else
          let item (t : Nat) : Item :=
            { tid := t, addr := src t, data := BitVec.ofNat 64 (validCount o.valid e s t), data2 := 0,
              dst := e.team.spadBase + dst t }
          let a := e.acc (.cpa o.tag.toNat) false false .lg false o.sl (ts.map item) false
          if a.items.all fun i => i.data = 0 ||
              s.allCached e.ctx.core (dieOf e.ctx.core) e.launch.root i.addr 32 then
            e.proceedCpa s a o.tag.toNat
          else e.translate s a

/-- A logged copy replays (R177). -/
def State.replayCpa (s : State) (w : Who) (l : LogEntry) (tag : Nat) : State :=
  let (g, s) := State.copyReach w l.acc l.acc.items s
  let ok := g.filter fun x => match x.2 with
    | .go _ => true
    | _ => false
  let away := g.filter fun x => !x.2.pages.isEmpty
  let s := forEach ok (fun s x => s.postCopy w l.acc tag x) s
  let s := (s.failItems w.ctx l 0x05 (itemsOf g fun x => x.2 = .prot)).failItems w.ctx l 0x04 (itemsOf g fun x => x.2 = .bad)
  let s := s.modCtx w.ctx fun c => c.dropItems l.id fun i => ok.any fun x => x.1 = i
  s.awaitPages w.ctx l (away.flatMap (·.2.pages))

/-- The copies that one CPA posted together and whose sources are poisoned are held as one entry, so that their threads take
one trap (R273, R309). -/
def State.failCopies (s : State) (o : Op) (a : Access) : State :=
  let mine (p : Nat × Op) : Bool :=
    p.2.ctx = o.ctx && p.2.uid = o.uid && p.2.pc = o.pc && p.2.since = o.since && !p.2.peer && s.segsPoisoned p.2.srcs
      && (match p.2.acc with
        | some x => x.kind = a.kind
        | none => false)
  let group := s.pend.filter mine
  let items := group.flatMap fun p => (p.2.acc.map (·.items)).getD []
  let (n, s) := s.name
  let l : LogEntry := { id := n, acc := { a with items := items }, pages := [], failed := some 0x10 }
  let s := { s with pend := s.pend.filter fun p => !(group.any fun q => q.1 = p.1) }
  (s.addEntry o.ctx l).holdEntry o.ctx l

/-- CPA_COPY_COMPLETE (R161): the bytes and their zero fill are written, the tag falls, presence follows R156. A poisoned
source holds the copy in the operand log (R309). -/
def execCpaCopyComplete (op : Nat) (s : State) : Host.Outcome State Fault Refusal :=
  match s.readyOp op (fun w => match w with
    | .cpa _ _ _ _ _ => true
    | _ => false) with
  | none => .next s
  | some o =>
    match o.work, s.ctxs.get? o.ctx with
    | .cpa tag _ dst _ _, some c =>
      if s.segsPoisoned o.srcs then .next ((o.acc.map (s.failCopies o)).getD s)
      else
        let (bs, s) := s.input o
        let s := if o.peer then s else s.put (spadKey c.core dst) (padTo 32 bs)
        .next ((s.modCtx o.ctx (·.lowerTag tag)).finishOp op)
    | _, _ => .next s

/-! ### CPWAIT, TLRD -/

/-- Whether paths of a context's core may go on: it is resident, its die runs, its launch is not killed. -/
def State.running (s : State) (c : Ctx) : Bool :=
  decide (c.phase = .resident) && !(s.die (dieOf c.core)).held && !(s.die (dieOf c.core)).off
  && (s.teams.get? c.team).all (·.stopAt.isNone)
  && (match (s.teams.get? c.team).bind fun t => s.launches.get? t.launch with
      | some l => l.killed.isNone
      | none => false)

/-- CPWAIT (R162): the path stops until the tag's count is 0. -/
def execCpwait (o : CpwaitOp) (s : State) : Host.Outcome State Fault Refusal :=
  let du : List Nat := match o.sd with
    | some d => [d.toNat]
    | none => []
  issueThreads s o.guard { du := du } fun e _ s => e.park s (.cpwait o.tag.toNat (o.sd.map (·.toNat)))

/-- CPWAIT_COMPLETE (R162). -/
def execCpwaitComplete (r : PathRef) (s : State) : Host.Outcome State Fault Refusal :=
  match s.act? r with
  | none => .next s
  | some a =>
    match a.status, s.envAt ⟨r, a.pc, 1⟩ with
    | .cpwait t sd, some e =>
      if e.ctx.tag t ≠ 0 || !s.running e.ctx then .next s
      else
        let s := match sd with
          | some d => e.setU s d (BitVec.ofNat 64 (e.ctx.tagDone.getD t 0))
          | none => s
        .next (e.modCtx (e.retire s) fun c => { c with tagDone := c.tagDone.set t 0 })
    | _, _ => .next s

/-- TLRD (R165). -/
def execTlrd (o : TlrdOp) (s : State) : Host.Outcome State Fault Refusal :=
  issuePath s { du := [o.sd.toNat] } fun e s =>
    e.retire (e.pending s (.tlrd o.sd.toNat o.tl.toNat) [.u o.sd.toNat 0])

/-- TLRD_VALUE (R165): the counter as it stands. -/
def execTlrdValue (op : Nat) (s : State) : Host.Outcome State Fault Refusal :=
  match s.pend.get? op with
  | some o =>
    match o.work, s.ctxs.get? o.ctx with
    | .tlrd sd tl, some c =>
      .next ((s.modOp op fun o => { o with res := [.u sd (BitVec.ofNat 64 (c.tl.getD tl 0))] }).finishOp op)
    | _, _ => .next s
  | none => .next s

/-! ### WAIT (R166, R167) -/

/-- The kind of a condition. -/
def WCond.kind (c : WCond) : Nat := (c.first.extractLsb' 56 8).toNat
def WCond.arg (c : WCond) : Nat := (c.first.extractLsb' 0 56).toNat

/-- A condition that R166 gives no meaning. -/
def WCond.illegal (c : WCond) : Bool :=
  match c.kind with
  | 1 => decide (c.arg > 4)
  | 2 => decide (c.arg > 7) || decide (c.second ≠ 0)
  | 3 | 4 => decide (c.arg > 15) || decide (c.second ≠ 0)
  | 5 => decide (c.arg ≠ 0)
  | 6 => decide (c.arg % 8 > 5)
  | _ => true

/-- The address of a kind-6 word. -/
def WCond.va (c : WCond) : Nat := c.arg / 8 * 8

/-- The comparison of a kind-6 condition (R166). -/
def condCode (n : Nat) : Cond := [Cond.eq, .ne, .lt, .le, .gt, .ge].getD n .eq

/-- Whether a channel holds data (R216). -/
def Channel.data (c : Channel) : Bool := c.fifo.any fun x => x.ready && !x.taken
/-- Whether a channel has a free slot. -/
def Channel.space (c : Channel) : Bool := decide (c.fifo.length < c.slots)

/-- Whether a condition holds now for a waiting path. -/
def WCond.holds (c : WCond) (e : Env) (s : State) : Bool :=
  match c.kind with
  | 1 => decide (c.second.toNat ≤ e.ctx.tl.getD c.arg 0)
  | 2 => e.ctx.tag c.arg = 0
  | 3 => (e.launch.chans.get? c.arg).any fun x => x.cons = e.team.id && x.data
  | 4 => (e.launch.chans.get? c.arg).any Channel.space
  | 5 =>
    match sharedKey e.ctx.core e.team c.second.toNat 1 with
    | some k => (linesOf k 1).all s.linePresent
    | none => false
  | 6 =>
    let cmp (x : Word) : Bool := condInt (condCode (c.arg % 8)) x.toInt c.second.toInt
    match c.key, c.word with
    | some k, _ =>
      !overlaps (s.ownStores e.ref.ctx e.ctx.team noTid) [(k, 8)] && !s.poisonIn k 8 && cmp (BitVec.ofNat 64 (memNat s.mem k 8))
    | none, some x => cmp x
    | none, none => false
  | _ => false

/-- Read the kind-6 words anew (R167): their pages translate, a trap, or an operand-log entry for those that are not
present; `sc` says that one lies on an SC page (R191). -/
inductive WordRead where
  | trap (code : Nat)
  | ok (conds : List WCond) (pages : List PageRef) (peers : List (Nat × Nat)) (sc : Bool)
deriving DecidableEq, Repr

def readWords (w : Who) : List (Nat × WCond) → State → WordRead × State
  | [], s => (.ok [] [] [] false, s)
  | (i, c) :: rest, s =>
    if c.kind ≠ 6 then
      match readWords w rest s with
      | (.ok l ps q sc, s) => (.ok (c :: l) ps q sc, s)
      | o => o
    else
      let (r, s) := s.reach (some w.core) (dieOf w.core) w.root c.va 8 .read
      let pois := s.segsPoisoned r.segs
      match readWords w rest s with
      | (.trap 0x05, s) => (.trap 0x05, s)
      | (.trap x, s) => (.trap (if r = .prot then 0x05 else if r = .bad then 0x04 else x), s)
      | (.ok l ps q sc, s) =>
        match r with
        | .prot => (.trap 0x05, s)
        | .bad => (.trap 0x04, s)
        | .absent p => (.ok ({ c with key := none, word := none } :: l) (p ++ ps) q sc, s)
        | .go (.peer p y) => (.ok ({ c with key := none } :: l) ps ((i, p) :: q) (sc || y), s)
        | .go (.mem segs y _) =>
          if pois then (.trap 0x10, s)
          else (.ok ({ c with key := (segs.head?).map Prod.fst, word := none } :: l) ps q (sc || y), s)

/-- The kind-6 reads of a WAIT as an access, for its operand-log entry. -/
def wordAcc (uid pc len : Nat) (cls : BitVec 2) (l : List WCond) : Access :=
  { kind := .word, pc := pc, len := len, uid := uid, shared := false, strong := true, scope := .pkg, ov := false,
    cls := cls, items := (l.filter (·.kind = 6)).map (fun c => onceItem c.va), once := true }

/-- Put a path into its wait, with what its reads came to: packets to memory, flits to peers, an entry for absent pages. -/
def Env.startWait (e : Env) (s : State) (w : Waiting) (pages : List PageRef) (peers : List (Nat × Nat)) : State :=
  let a := wordAcc e.act.uid e.addr e.len w.cls w.conds
  let waiting := e.ctx.log.any fun l => l.acc.kind = .word && l.acc.uid = e.act.uid
  let (id, s) := s.name
  let s := if pages = [] || waiting then s
    else s.addEntry e.ref.ctx ⟨id, a, pages.eraseDups, none⟩
  let asked (i : Nat) : Bool := s.pend.vals.any fun o => o.uid = e.act.uid && o.work = .word i
  let s := forEach (peers.filter fun q => !asked q.1) (fun s q =>
    match w.conds[q.1]? with
    | some c => s.postPeer e.who a (onceItem c.va) q.2 (.word q.1) [] 0 8
    | none => s) s
  let here := (w.conds.zipIdx.filterMap fun q => if q.1.kind = 6 then q.1.key.map fun k => (q.2, k) else none).filter (!asked ·.1)
  let s := forEach here (fun s q => (s.postOp e.who (opOf e.who a s (.word q.1)) [(q.2, 8)]).2) s
  e.park s (.wait { w with read := s.tick })

/-- WAIT (R166): conditions are checked and read, and the path stops. -/
def execWait (o : WaitOp) (s : State) : Host.Outcome State Fault Refusal :=
  let n := o.n1.toNat + 1
  let regs := (List.range (2 * n)).map fun i => (o.sa.toNat + i, o.ra)
  let tu : List (Nat × Bool) := match o.timeout with
    | .uni u => u.need o.rb
    | _ => []
  issuePath s { u := regs ++ tu, du := [o.sd.toNat] } fun e s =>
    let reg (i : Nat) : Word := (e.act.u (o.sa.toNat + i)).val
    let conds := (List.range n).map fun i => (⟨reg (2 * i), reg (2 * i + 1), none, none⟩ : WCond)
    let words := conds.any (·.kind = 6)
    let time : Nat := match o.timeout with
      | .none => 0
      | .uni u => (u.read e).toNat
      | .imm i => i.toNat
    if conds.any WCond.illegal then e.trapAll s 0x01
    else if conds.any fun c => (c.kind = 3 || c.kind = 4) && (e.launch.chans.get? c.arg).isNone then e.trapAll s 0x0C
    else if conds.any fun c => c.kind = 5 && (sharedKey e.ctx.core e.team c.second.toNat 1).isNone then e.trapAll s 0x05
    else
      match (if words then e.memHeld s else none) with
      | some y => e.park s (.again y)
      | none =>
        if words && 16 ≤ s.logUsed e.ref.ctx then e.park s (.again .log)
        else
          match readWords e.who (conds.zipIdx.map fun p => (p.2, p.1)) s with
          | (.trap c, s) => e.trapAll s c
          | (.ok conds pages peers sc, s) =>
            if sc && (!e.ctx.queue.isEmpty || s.awayAt e.ref.ctx (some e.act.uid)) then e.park s (.again .drain)
            else if sc && e.ctx.log.any (·.acc.uid = e.act.uid) then e.park s (.again .log)
            else e.startWait s { conds := conds, all := o.all, sd := o.sd.toNat,
                                 deadline := if time = 0 then none else some (s.tick + ticksLong time), cls := o.sl,
                                 len := e.len, read := 0 } pages peers

/-- The path of a WAIT and what it waits for. -/
def State.waiting? (s : State) (r : PathRef) : Option (Env × Waiting) :=
  match s.act? r with
  | none => none
  | some a =>
    match a.status with
    | .wait w => (s.envAt ⟨r, a.pc, w.len⟩).map fun e => (e, w)
    | _ => none

/-- A WAIT ends with a mask; what it still had in the operand log or at a peer is dropped. -/
def Env.endWait (e : Env) (s : State) (sd : Nat) (mask : Word) : State :=
  let s := e.retire (e.setU s sd mask)
  let s := e.modCtx s fun c => { c with log := c.log.filter fun l => !(l.acc.kind = .word && l.acc.uid = e.act.uid) }
  let word (w : Work) : Bool := match w with
    | .word _ => true
    | _ => false
  { s with pend := s.pend.filter fun p => !(p.2.uid = e.act.uid && word p.2.work) }

/-- WAIT_COMPLETE (R167). -/
def execWaitComplete (r : PathRef) (s : State) : Host.Outcome State Fault Refusal :=
  match s.waiting? r with
  | none => .next s
  | some (e, w) =>
    let hold := w.conds.map fun c => c.holds e s
    if !s.running e.ctx || w.deadline.any (· ≤ s.tick) || !(if w.all then hold.all id else hold.any id) then .next s
    else
      let mask := hold.zipIdx.foldl (fun (n : Nat) p => if p.1 then n + 2 ^ p.2 else n) 0
      .next (e.endWait s w.sd (BitVec.ofNat 64 mask))

/-- WAIT_TIMEOUT (R167). -/
def execWaitTimeout (r : PathRef) (s : State) : Host.Outcome State Fault Refusal :=
  match s.waiting? r with
  | none => .next s
  | some (e, w) =>
    match w.deadline with
    | some d => if s.running e.ctx && decide (d ≤ s.tick) then .next (e.endWait s w.sd 0) else .next s
    | none => .next s

/-- WAIT_WORD_REREAD (R167). -/
def execWaitWordReread (r : PathRef) (s : State) : Host.Outcome State Fault Refusal :=
  match s.waiting? r with
  | none => .next s
  | some (e, w) =>
    if !s.running e.ctx then .next s
    else
      match readWords e.who (w.conds.zipIdx.map fun p => (p.2, p.1)) s with
      | (.trap c, s) => .next (e.trapAll s c)
      | (.ok conds pages peers _, s) => .next (e.startWait s { w with conds := conds } pages peers)

end Sys2Proof.Machine
end

