-- ==== Sys2Proof/Decode.lean ====
section
/-!
DEFINITION. The decoder of instruction words (R313 to R331), total on any words and bytes, and the encoder
of the same layouts. A word that is no instruction is rejected by name; the machine traps ILLOP for it.
-/

namespace Sys2Proof

/-- Why a word is no instruction (R330). -/
inductive Reject where
  /-- fewer bytes than the instruction needs -/
  | short
  /-- a reserved major opcode -/
  | reservedOpcode
  /-- a reserved function code, type, rounding, condition, kind or scope -/
  | reservedCode
  /-- a field that the layout marks 0 or reserved holds a non-zero value -/
  | nonzeroReserved
  /-- an operand field outside its kind's space -/
  | operandSpace
  /-- a guard where none is allowed, or GK without GP -/
  | guard
  /-- a read-mode bit of a field that is not a register source -/
  | readMode
  /-- a slack class where none is allowed -/
  | slack
  /-- an X word missing, not allowed, or not an X word -/
  | xWord
  /-- an X word reached as the first word -/
  | xWordFirst
  /-- a broken P slot or pairing rule -/
  | pWord
  /-- any other departure from the entry -/
  | illFormed
deriving DecidableEq, Repr

/-! ### The F word (R314) -/

/-- The fields of an F word. -/
structure FWord where
  opc : BitVec 8
  guard : BitVec 5
  dst : BitVec 8
  a : BitVec 8
  b : BitVec 8
  c : BitVec 8
  rm : BitVec 3
  sl : BitVec 2
  xf : Bool
  func : BitVec 12
deriving DecidableEq, Repr

def FWord.ofWord (w : Word) : FWord where
  opc := w.extractLsb' 55 8
  guard := w.extractLsb' 50 5
  dst := w.extractLsb' 42 8
  a := w.extractLsb' 34 8
  b := w.extractLsb' 26 8
  c := w.extractLsb' 18 8
  rm := w.extractLsb' 15 3
  sl := w.extractLsb' 13 2
  xf := w.getLsbD 12
  func := w.extractLsb' 0 12

/-! ### Operand fields (R315, R316) -/

def VSrc.ofField (n : BitVec 8) : Option VSrc :=
  if n.toNat < 224 then some (.reg n)
  else if n = 0xE0 then some .tid
  else if n = 0xE1 then some .lane
  else if n = 0xE2 then some .home
  else if n = 0xE3 then some .core
  else if 0xF0 ≤ n.toNat then some (.const (n.setWidth 4))
  else none

def USrc.ofField (n : BitVec 8) : Option USrc :=
  if n.toNat < 160 then some (.reg n)
  else if n = 0xA0 then some .team
  else if n = 0xA1 then some .nteams
  else if n = 0xA2 then some .tsize
  else if n = 0xA3 then some .w
  else if n = 0xA4 then some .launch
  else if n = 0xA5 then some .fcard
  else if n = 0xA6 then some .die
  else if n = 0xA7 then some .quad
  else none

/-! ### Codes -/

/-- TYPE of R322. -/
def Ty.ofCode (n : BitVec 4) : Option Ty :=
  if n = 0 then some .int8 else if n = 1 then some .int16 else if n = 2 then some .int32
  else if n = 3 then some .int64 else if n = 4 then some .uint8 else if n = 5 then some .uint16
  else if n = 6 then some .uint32 else if n = 7 then some .uint64 else if n = 8 then some .fp32
  else if n = 9 then some .fp16 else if n = 10 then some .bf16 else if n = 11 then some .e4m3
  else if n = 12 then some .e5m2 else if n = 13 then some .nb4 else none

/-- RND of R322. -/
def Rnd.ofCode (n : BitVec 3) : Option Rnd :=
  if n = 0 then some .rne else if n = 1 then some .rz else if n = 2 then some .rd
  else if n = 3 then some .ru else if n = 4 then some .rna else none

/-- Condition of R72. -/
def Cond.ofCode (n : BitVec 5) : Option Cond :=
  if n = 0 then some .eq else if n = 1 then some .ne else if n = 2 then some .lt
  else if n = 3 then some .le else if n = 4 then some .gt else if n = 5 then some .ge else none

/-- SCOPE of R336, R373 and R189. -/
def Scope.ofCode (n : BitVec 3) : Option Scope :=
  if n = 0 then some .lg else if n = 1 then some .team else if n = 2 then some .die
  else if n = 3 then some .pkg else if n = 4 then some .sys else none

/-- KIND of R189. -/
def FenceKind.ofCode (n : BitVec 2) : Option FenceKind :=
  if n = 1 then some .acq else if n = 2 then some .rel else if n = 3 then some .ar else none

/-- OP of R336. -/
def AtomOp.ofCode (n : BitVec 3) : AtomOp :=
  if n = 0 then .add else if n = 1 then .and else if n = 2 then .or else if n = 3 then .xor
  else if n = 4 then .min else if n = 5 then .max else if n = 6 then .exch else .cas

/-- TY of R336. -/
def AtomTy.ofCode (n : BitVec 3) : Option AtomTy :=
  if n = 0 then some .int32 else if n = 1 then some .uint32 else if n = 2 then some .int64
  else if n = 3 then some .uint64 else if n = 4 then some .fp32 else none

/-- OP of R378. -/
def RedOp.ofCode (n : BitVec 3) : Option RedOp :=
  if n = 0 then some .add else if n = 1 then some .min else if n = 2 then some .max
  else if n = 3 then some .and else if n = 4 then some .or else if n = 5 then some .xor else none

/-- MODE of R397. -/
def ShflMode.ofCode (n : BitVec 2) : ShflMode :=
  if n = 0 then .idx else if n = 1 then .up else if n = 2 then .down else .xor

/-- The control registers of R354 that have a uniform operand. -/
def Csr.ofCode (n : BitVec 5) : Option Csr :=
  if n = 1 then some .slk else if n = 2 then some .ovd else if n = 3 then some .tstat
  else if n = 4 then some .fesum else if n = 5 then some .pstat else if n = 6 then some .frame
  else if n = 7 then some .sform else none

/-- POP of R325. -/
def POp.ofCode (n : BitVec 6) : Option POp :=
  if n = 0 then some .nop else if n = 1 then some .mov else if n = 2 then some .iadd
  else if n = 3 then some .isub else if n = 4 then some .and else if n = 5 then some .or
  else if n = 6 then some .xor else if n = 7 then some .shl else if n = 8 then some .shr
  else if n = 9 then some .sar else if n = 10 then some .imin else if n = 11 then some .imax
  else if n = 12 then some .fadd else if n = 13 then some .fsub else if n = 14 then some .fmul
  else if n = 15 then some .fmin else if n = 16 then some .fmax else if n = 17 then some .not
  else if n = 18 then some .ineg else if n = 19 then some .iabs else none

/-! ### Layouts (R329, R330) -/

/-- When an X word may follow. -/
inductive XUse where
  | no | may | must
deriving DecidableEq, Repr

/-- Which fields a layout uses; an unused field must be 0 (R314, R330). `rm` and `func` mark the bits that
may be 1. -/
structure Lay where
  guard : Bool := false
  dst : Bool := false
  a : Bool := false
  b : Bool := false
  c : Bool := false
  rm : BitVec 3 := 0
  slack : Bool := false
  x : XUse := .no
  func : BitVec 12 := 0
deriving DecidableEq, Repr

/-- The checks of R330 that a layout decides alone. -/
def Lay.check (l : Lay) (f : FWord) : Option Reject :=
  if f.guard ≠ 0 ∧ (l.guard = false ∨ f.guard.getLsbD 4 = false) then some .guard
  else if (l.dst = false ∧ f.dst ≠ 0) ∨ (l.a = false ∧ f.a ≠ 0) ∨ (l.b = false ∧ f.b ≠ 0)
      ∨ (l.c = false ∧ f.c ≠ 0) ∨ f.func &&& ~~~ l.func ≠ 0 then some .nonzeroReserved
  else if f.rm &&& ~~~ l.rm ≠ 0 then some .readMode
  else if l.slack = false ∧ f.sl ≠ 0 then some .slack
  else if (l.x = .no ∧ f.xf = true) ∨ (l.x = .must ∧ f.xf = false) then some .xWord
  else none

/-! ### Parts of an instruction -/

/-- GUARD (R37). -/
def FWord.gd (f : FWord) : Guard :=
  if f.guard.getLsbD 4 then some (f.guard.setWidth 4) else none

def FWord.ra (f : FWord) : Bool := f.rm.getLsbD 2
def FWord.rb (f : FWord) : Bool := f.rm.getLsbD 1
def FWord.rc (f : FWord) : Bool := f.rm.getLsbD 0

/-- A set field (R315). -/
def kreg? (n : BitVec 8) : Except Reject (BitVec 4) :=
  if n.toNat < 16 then .ok (n.setWidth 4) else .error .operandSpace

/-- Read an option, naming the reason when there is none. -/
def orReject {α : Type} (r : Reject) : Option α → Except Reject α
  | some x => .ok x
  | none => .error r

def vsrc? (n : BitVec 8) : Except Reject VSrc := orReject .operandSpace (VSrc.ofField n)
def usrc? (n : BitVec 8) : Except Reject USrc := orReject .operandSpace (USrc.ofField n)
def ty? (n : BitVec 4) : Except Reject Ty := orReject .reservedCode (Ty.ofCode n)

/-- A 16-bit or X word code target (R320); the fields [33:18] are b and c together. -/
def FWord.target? (f : FWord) (l : BitVec 62) : Except Reject Target :=
  if f.xf then (if f.b = 0 ∧ f.c = 0 then .ok (.far l) else .error .nonzeroReserved)
  else .ok (.near (f.b ++ f.c))

/-- An imm8 or X word byte offset (R321). -/
def FWord.off? (f : FWord) (l : BitVec 62) : Except Reject Off :=
  if f.xf then (if f.c = 0 then .ok (.wide l) else .error .nonzeroReserved) else .ok (.imm f.c)

/-- The index of a memory operand (R321), under IX in function bit 9. -/
def FWord.idx? (f : FWord) : Except Reject (Option VSrc) :=
  if f.func.getLsbD 9 then (vsrc? f.b).map some
  else if f.b = 0 then .ok none else .error .nonzeroReserved

/-- Source b by CLASS (R322). -/
def FWord.bsrc? (f : FWord) (l : BitVec 62) : Except Reject BSrc :=
  let cls := f.func.extractLsb' 9 2
  if cls = 3 then
    if f.xf = false then .error .xWord
    else if f.b = 0 then .ok (.lit l) else .error .nonzeroReserved
  else if f.xf then .error .xWord
  else if cls = 0 then (vsrc? f.b).map .vec
  else if cls = 1 then (usrc? f.b).map .uni
  else .ok (.imm f.b)

/-- Source a or c of an arithmetic word (R322, R323): by the form; absent when the mould has none. -/
def asrc? (used uform : Bool) (n : BitVec 8) : Except Reject ASrc :=
  if used = false then .ok .none
  else if uform then (usrc? n).map .uni else (vsrc? n).map .vec

/-- The arithmetic word (R322, R323). -/
def FWord.arith? (sh : Shape) (f : FWord) (l : BitVec 62) : Except Reject Arith := do
  let uform := f.func.getLsbD 11
  let ty ← ty? (f.func.extractLsb' 5 4)
  let low := f.func.extractLsb' 0 3
  let rnd ← if sh.rounds then orReject .reservedCode (Rnd.ofCode low) else .ok .rne
  let a ← asrc? (sh.srcs != 1) uform f.a
  let b ← f.bsrc? l
  let c ← asrc? (sh.srcs == 3) uform f.c
  .ok { guard := f.gd, uform := uform, ty := ty, rnd := rnd, sh := if sh.shift then low else 0,
        d := f.dst, a := a, b := b, c := c, ra := f.ra, rb := f.rb, rc := f.rc }

/-- Which fields an arithmetic mould uses. -/
def Shape.lay (sh : Shape) : Lay where
  guard := true
  dst := true
  a := sh.srcs != 1
  b := true
  c := sh.srcs == 3
  rm := (if sh.srcs != 1 then 4 else 0) ||| 2 ||| (if sh.srcs == 3 then 1 else 0)
  x := .may
  func := (if sh.uni then 0x800 else 0) ||| 0x7E0 ||| (if sh.rounds || sh.shift then 7 else 0)

def FWord.cvt? (f : FWord) (l : BitVec 62) : Except Reject CvtOp := do
  let dty ← ty? (f.func.extractLsb' 5 4)
  let sty ← ty? (f.c.extractLsb' 4 4)
  if f.c.extractLsb' 0 4 ≠ 0 then .error .nonzeroReserved else
  let low := f.func.extractLsb' 0 3
  let slotted := dty.slotted || sty.slotted
  let rnd ← if slotted then .ok .rne else orReject .reservedCode (Rnd.ofCode low)
  let b ← f.bsrc? l
  .ok { guard := f.gd, dty := dty, sty := sty, rnd := rnd, slot := if slotted then low else 0,
        d := f.dst, b := b, rb := f.rb }

def FWord.pack? (f : FWord) : Except Reject PackOp := do
  let ty ← ty? (f.func.extractLsb' 5 4)
  .ok { guard := f.gd, ty := ty, slot := f.func.extractLsb' 0 3, d := f.dst, s := f.b, rb := f.rb }

def FWord.test? (f : FWord) (l : BitVec 62) : Except Reject TestOp := do
  let kd ← kreg? f.dst
  let a ← vsrc? f.a
  let b ← f.bsrc? l
  let ty ← ty? (f.func.extractLsb' 5 4)
  let cond ← orReject .reservedCode (Cond.ofCode (f.func.extractLsb' 0 5))
  .ok { guard := f.gd, kd := kd, a := a, b := b, ty := ty, cond := cond, ra := f.ra, rb := f.rb }

def FWord.set? (f : FWord) : Except Reject SetOp := do
  let kd ← kreg? f.dst
  let ka ← kreg? f.a
  let kb ← kreg? f.b
  .ok { kd := kd, ka := ka, kb := kb }

def FWord.setMem? (k sd : BitVec 8) (f : FWord) (l : BitVec 62) : Except Reject SetMem := do
  let k ← kreg? k
  let base ← usrc? f.a
  let off ← f.off? l
  .ok { k := k, sd := sd, base := base, ra := f.ra, off := off, ov := f.func.getLsbD 1,
        sp := f.func.getLsbD 0, sl := f.sl }

def FWord.apply? (f : FWord) (l : BitVec 62) : Except Reject ApplyOp := do
  let ka ← kreg? f.a
  let t ← f.target? l
  .ok { ka := ka, n := f.dst, t := t, pack := f.func.getLsbD 7, foot := f.func.extractLsb' 2 5 }

def FWord.applyK? (f : FWord) (l : BitVec 62) : Except Reject ApplyKOp := do
  if f.func.getLsbD 8 = false then .error .illFormed else
  .ok { skey := f.dst, vkey := f.a, nkeys := f.b, n := f.c, off := l, pack := f.func.getLsbD 7,
        foot := f.func.extractLsb' 2 5, ra := f.ra, rb := f.rb }

def FWord.fork? (f : FWord) (l : BitVec 62) : Except Reject ForkOp := do
  let ka ← kreg? f.a
  let kb ← kreg? f.b
  .ok { ka := ka, kb := kb, la := l.extractLsb' 31 31, lb := l.extractLsb' 0 31 }

def FWord.uniSrc? (f : FWord) : Except Reject UniSrcOp := do
  let a ← usrc? f.a
  .ok { a := a, ra := f.ra }

def FWord.brc? (f : FWord) (l : BitVec 62) : Except Reject BrcOp := do
  let cond ← orReject .reservedCode (Cond.ofCode (f.func.extractLsb' 0 5))
  let a ← usrc? f.a
  let cls := f.func.extractLsb' 9 2
  let b ← if cls = 1 then (usrc? f.dst).map .uni
    else if cls = 2 then .ok (.imm f.dst) else .error .reservedCode
  let t ← f.target? l
  .ok { cond := cond, a := a, ra := f.ra, b := b, t := t }

def FWord.call? (f : FWord) (l : BitVec 62) : Except Reject CallOp := do
  let t ← f.target? l
  .ok { t := t, n := f.func.extractLsb' 0 8 }

def FWord.wait? (f : FWord) : Except Reject WaitOp := do
  let tc := f.func.extractLsb' 9 2
  let timeout ← if tc = 0 then
      (if f.b = 0 ∧ f.c = 0 then .ok .none else .error .nonzeroReserved)
    else if tc = 1 then
      (if f.c = 0 then (usrc? f.b).map .uni else .error .nonzeroReserved)
    else if tc = 2 then
      (if f.b = 0 then .ok (.imm f.c) else .error .nonzeroReserved)
    else .error .reservedCode
  .ok { sd := f.dst, sa := f.a, timeout := timeout, all := f.func.getLsbD 8,
        n1 := f.func.extractLsb' 0 2, sl := f.sl, ra := f.ra, rb := f.rb }

/-- A uniform destination, a base, an offset, OV in function bit 4. -/
def FWord.desc? (f : FWord) (l : BitVec 62) : Except Reject DescOp := do
  let base ← usrc? f.a
  let off ← f.off? l
  .ok { sd := f.dst, base := base, ra := f.ra, off := off, ov := f.func.getLsbD 4, sl := f.sl }

def FWord.scnt? (f : FWord) : Except Reject ScntOp := do
  let ka ← kreg? f.a
  .ok { sd := f.dst, ka := ka }

def FWord.lane? (f : FWord) (l : BitVec 62) : Except Reject LaneOp := do
  let a ← vsrc? f.a
  let b ← f.bsrc? l
  let ty ← ty? (f.func.extractLsb' 5 4)
  .ok { guard := f.gd, ty := ty, mode := ShflMode.ofCode (f.func.extractLsb' 3 2), d := f.dst, a := a,
        b := b, ra := f.ra, rb := f.rb }

def FWord.redLane? (f : FWord) : Except Reject RedLaneOp := do
  let b ← vsrc? f.b
  let ty ← ty? (f.func.extractLsb' 5 4)
  let op ← orReject .reservedCode (RedOp.ofCode (f.func.extractLsb' 2 3))
  .ok { guard := f.gd, ty := ty, op := op, excl := f.func.getLsbD 1, d := f.dst, b := b, rb := f.rb }

def FWord.mem? (f : FWord) (l : BitVec 62) : Except Reject MemOp := do
  let ty ← ty? (f.func.extractLsb' 5 4)
  let scope ← orReject .reservedCode (Scope.ofCode (f.func.extractLsb' 0 3))
  let base ← usrc? f.a
  let idx ← f.idx?
  let off ← f.off? l
  .ok { guard := f.gd, sp := f.func.getLsbD 11, strong := f.func.getLsbD 10, ty := ty, scope := scope,
        ov := f.func.getLsbD 4, sl := f.sl, v := f.dst, base := base, idx := idx, off := off,
        ra := f.ra, rb := f.rb }

def FWord.sc? (f : FWord) (l : BitVec 62) : Except Reject ScOp := do
  let ty ← ty? (f.func.extractLsb' 5 4)
  let base ← usrc? f.a
  let idx ← f.idx?
  if f.c.toNat < 224 then
    .ok { guard := f.gd, sp := f.func.getLsbD 11, ty := ty, ov := f.func.getLsbD 4, sl := f.sl, d := f.dst,
          base := base, idx := idx, s := f.c, off := if f.xf then some l else none,
          ra := f.ra, rb := f.rb, rc := f.rc }
  else .error .operandSpace

def FWord.fence? (f : FWord) : Except Reject FenceOp := do
  let kind ← orReject .reservedCode (FenceKind.ofCode (f.func.extractLsb' 3 2))
  let scope ← orReject .reservedCode (Scope.ofCode (f.func.extractLsb' 0 3))
  .ok { kind := kind, scope := scope }

def FWord.atom? (f : FWord) (l : BitVec 62) : Except Reject AtomicOp := do
  let ty ← orReject .reservedCode (AtomTy.ofCode (f.func.extractLsb' 3 3))
  let scope ← orReject .reservedCode (Scope.ofCode (f.func.extractLsb' 0 3))
  let base ← usrc? f.a
  let idx ← f.idx?
  let off ← f.off? l
  .ok { guard := f.gd, sp := f.func.getLsbD 11, ret := f.func.getLsbD 10,
        op := AtomOp.ofCode (f.func.extractLsb' 6 3), ty := ty, scope := scope, sl := f.sl, v := f.dst,
        base := base, idx := idx, off := off, ra := f.ra, rb := f.rb }

def FWord.tag? (f : FWord) (l : BitVec 62) : Except Reject TagOp := do
  let base ← usrc? f.a
  let idx ← f.idx?
  let off ← f.off? l
  .ok { guard := f.gd, base := base, idx := idx, off := off, ra := f.ra, rb := f.rb }

def FWord.tagl? (f : FWord) (l : BitVec 62) : Except Reject TaglOp := do
  let o ← f.tag? l
  .ok { o with d := f.dst }

def FWord.tags? (f : FWord) (l : BitVec 62) : Except Reject TagsOp := do
  let o ← f.tag? l
  let way ← vsrc? f.dst
  .ok { o with way := way }

def FWord.pres? (f : FWord) (l : BitVec 62) : Except Reject PresOp := do
  let base ← usrc? f.a
  let off ← f.off? l
  .ok { base := base, ra := f.ra, off := off, n1 := f.func.extractLsb' 0 8 }

def FWord.strm? (f : FWord) (l : BitVec 62) : Except Reject StrmOp := do
  let base ← usrc? f.a
  let off ← f.off? l
  .ok { id := f.func.extractLsb' 0 2, base := base, ra := f.ra, off := off, ov := f.func.getLsbD 8,
        sl := f.sl }

def FWord.gate? (f : FWord) : Except Reject GateOp := do
  let base ← usrc? f.a
  let idx ← f.idx?
  .ok { guard := f.gd, base := base, idx := idx, off := f.func.extractLsb' 0 8, sl := f.sl, ra := f.ra, rb := f.rb }

def FWord.gmax? (f : FWord) : Except Reject GmaxOp := do
  let o ← f.gate?
  let ve ← vsrc? f.dst
  let vs ← vsrc? f.c
  .ok { o with ve := ve, vs := vs, rc := f.rc }

def FWord.gnext? (f : FWord) : Except Reject GnextOp := do
  let o ← f.gate?
  .ok { o with d := f.dst, s := f.c }

def FWord.route? (f : FWord) : Except Reject RouteOp := do
  let base ← usrc? f.a
  let e ← vsrc? f.b
  let tag ← vsrc? f.c
  .ok { guard := f.gd, d := f.dst, base := base, e := e, tag := tag, ov := f.func.getLsbD 1,
        sp := f.func.getLsbD 0, sl := f.sl, ra := f.ra, rb := f.rb, rc := f.rc }

def FWord.cpa? (f : FWord) : Except Reject CpaOp := do
  let db ← usrc? f.dst
  let di ← vsrc? f.a
  let sb ← usrc? f.b
  let si ← vsrc? f.c
  let low := f.func.extractLsb' 0 8
  .ok { guard := f.gd, tag := f.func.extractLsb' 8 3, db := db, di := di, sb := sb, si := si,
        valid := if f.func.getLsbD 11 then .reg low else .imm low, sl := f.sl,
        ra := f.ra, rb := f.rb, rc := f.rc }

def FWord.cpwait? (f : FWord) : Except Reject CpwaitOp :=
  if f.func.getLsbD 3 then .ok { guard := f.gd, sd := some f.dst, tag := f.func.extractLsb' 0 3 }
  else if f.dst = 0 then .ok { guard := f.gd, sd := none, tag := f.func.extractLsb' 0 3 }
  else .error .nonzeroReserved

def FWord.bcopy? (f : FWord) (l : BitVec 62) : Except Reject BcopyOp := do
  let a ← usrc? f.a
  let b ← usrc? f.b
  let c ← usrc? f.c
  .ok { sd := f.dst, a := a, b := b, c := c, ra := f.ra, rb := f.rb, rc := f.rc, ov := f.func.getLsbD 4,
        dsp := f.func.getLsbD 0, sl := f.sl,
        offs := if f.xf then some (l.extractLsb' 31 31, l.extractLsb' 0 31) else none }

def FWord.chan? (send : Bool) (f : FWord) (l : BitVec 62) : Except Reject ChanOp := do
  let base ← usrc? f.a
  let count ← if send then usrc? f.b else .ok (.reg 0)
  let off ← f.off? l
  .ok { sd := f.dst, base := base, count := count, off := off, ov := f.func.getLsbD 4,
        ch := f.func.extractLsb' 0 4, sl := f.sl, ra := f.ra, rb := f.rb }

def FWord.mldw? (f : FWord) (l : BitVec 62) : Except Reject MldwOp := do
  let base ← usrc? f.a
  let off ← f.off? l
  .ok { base := base, kq := f.b, off := off, pair := f.func.getLsbD 10, slot := f.func.extractLsb' 4 3,
        ov := f.func.getLsbD 3, sl := f.sl, ra := f.ra }

def FWord.mstr? (f : FWord) (l : BitVec 62) : Except Reject MstrOp := do
  let base ← usrc? f.a
  let row ← usrc? f.b
  let off ← f.off? l
  .ok { m1 := f.dst, base := base, row := row, off := off, pair := f.func.getLsbD 10,
        clr := f.func.getLsbD 9, t := f.func.getLsbD 8, slot := f.func.extractLsb' 4 3,
        ov := f.func.getLsbD 3, sl := f.sl, ra := f.ra, rb := f.rb }

def FWord.mdrnReg? (f : FWord) : Except Reject MdrnRegOp := do
  let row ← usrc? f.b
  .ok { d := f.dst, row := row, n1 := f.c, ov := f.func.getLsbD 3, sl := f.sl, rb := f.rb }

def FWord.mdrnSpad? (f : FWord) (l : BitVec 62) : Except Reject MdrnSpadOp := do
  let base ← usrc? f.a
  let row ← usrc? f.b
  let off ← f.off? l
  .ok { n1 := f.dst, base := base, row := row, off := off, ov := f.func.getLsbD 3, sl := f.sl,
        ra := f.ra, rb := f.rb }

def FWord.mrel? (f : FWord) : Except Reject MrelOp := do
  let row ← usrc? f.a
  .ok { row := row, ra := f.ra, n1 := f.c }

/-- DESC (R246): XF = DP. -/
def FWord.descent? (f : FWord) (l : BitVec 62) : Except Reject DescentOp :=
  let dp := f.func.getLsbD 5
  let op : DescentOp :=
    { d := f.dst, a := f.a, va := f.b, sdesc := f.c, hn := f.func.extractLsb' 0 2,
      ov := f.func.getLsbD 4, sl := f.sl, ra := f.ra, rb := f.rb, rc := f.rc, dp := none }
  if f.xf ≠ dp then .error .xWord
  else if dp then
    if l.extractLsb' 0 46 ≠ 0 then .error .nonzeroReserved
    else .ok { op with dp := some (l.extractLsb' 54 8, l.extractLsb' 46 8) }
  else .ok op

/-- ASCD (R251). -/
def FWord.ascent? (f : FWord) (l : BitVec 62) : Except Reject AscentOp :=
  let op : AscentOp :=
    { sg := f.dst, a := f.a, va := f.b, sdesc := f.c, hn := f.func.extractLsb' 0 2,
      ov := f.func.getLsbD 4, sl := f.sl, ra := f.ra, rb := f.rb, rc := f.rc,
      vg := l.extractLsb' 54 8, dx := none }
  if l.extractLsb' 0 38 ≠ 0 then .error .nonzeroReserved
  else if f.func.getLsbD 5 then .ok { op with dx := some (l.extractLsb' 46 8, l.extractLsb' 38 8) }
  else if l.extractLsb' 38 16 ≠ 0 then .error .nonzeroReserved
  else .ok op

/-! ### The major opcodes (R328) -/

/-- Run the layout's checks, then a parser. -/
def Lay.run (l : Lay) (f : FWord) (k : Except Reject Instr) : Except Reject Instr :=
  match l.check f with
  | some r => .error r
  | none => k

/-- An arithmetic major. -/
def arithWord (sh : Shape) (mk : Arith → Instr) (f : FWord) (l : BitVec 62) : Except Reject Instr :=
  sh.lay.run f ((f.arith? sh l).map mk)

def layTest : Lay :=
  { guard := true, dst := true, a := true, b := true, rm := 6, x := .may, func := 0x7FF }
def laySetMem : Lay := { dst := true, a := true, b := true, c := true, rm := 4, slack := true, x := .may, func := 3 }
def layMem : Lay :=
  { guard := true, dst := true, a := true, b := true, c := true, rm := 6, slack := true, x := .may,
    func := 0xFF7 }
def layTag : Lay :=
  { guard := true, dst := true, a := true, b := true, c := true, rm := 6, x := .may, func := 0x200 }
def layDesc : Lay := { dst := true, a := true, c := true, rm := 4, slack := true, x := .may, func := 0x10 }
def layLane : Lay :=
  { guard := true, dst := true, a := true, b := true, rm := 6, x := .may, func := 0x7E0 }
def layUni : Lay := { a := true, rm := 4 }
def layGate : Lay :=
  { guard := true, dst := true, a := true, b := true, c := true, rm := 7, slack := true, func := 0x2FF }

/-- The set-algebra codes of R72 (major 0x12). -/
def setCode (f : FWord) : Except Reject Instr :=
  let l : Lay := { dst := true, a := true, b := true, func := 0xF }
  l.run f (do
    let o ← f.set?
    match (f.func.extractLsb' 0 4).toNat with
    | 0 => .ok (.sand o)
    | 1 => .ok (.sor o)
    | 2 => .ok (.sxor o)
    | 3 => .ok (.sandn o)
    | 4 => .ok (.snot o)
    | 5 => .ok (.smov o)
    | 6 => .ok (.sclr o)
    | 7 => .ok (.sall o)
    | 8 => .ok (.sheld o)
    | 9 => .ok (.sfirst o)
    | _ => .error .reservedCode)

/-- Majors 0x01 to 0x0E (0x00 is NOP, the all-zero word). -/
def major0 (m : Nat) (f : FWord) (l : BitVec 62) : Except Reject Instr :=
  match m with
  | 0x1 => Lay.run { b := true, c := true, x := .may } f ((f.target? l).map .bra)
  | 0x2 => layUni.run f (f.uniSrc?.map .brs)
  | 0x3 => Lay.run { dst := true, a := true, b := true, c := true, rm := 4, x := .may, func := 0x61F } f
      ((f.brc? l).map .brc)
  | 0x4 => Lay.run { b := true, c := true, x := .may, func := 0xFF } f ((f.call? l).map .call)
  | 0x5 => Lay.run { a := true, c := true, rm := 4 } f (.ok (.callv { va := f.a, ra := f.ra, n := f.c }))
  | 0x6 => Lay.run {} f (.ok .ret)
  | 0x7 => Lay.run { guard := true } f (.ok (.exit f.gd))
  | 0x8 => Lay.run { dst := true, a := true, b := true, c := true, rm := 6, slack := true, func := 0x703 } f
      (f.wait?.map .wait)
  | 0x9 => Lay.run { func := 0xFFF } f
      (.ok (.bar { id := f.func.extractLsb' 8 4, n1 := f.func.extractLsb' 0 8 }))
  | 0xA => Lay.run {} f (.ok .trap)
  | 0xB => Lay.run {} f (.ok .rft)
  | 0xC => Lay.run {} f (.ok .brk)
  | 0xD => Lay.run { layDesc with func := 0 } f ((f.desc? l).map .launch)
  | 0xE => Lay.run { guard := true, dst := true, a := true, b := true, rm := 6 } f
      (.ok (.spawn { guard := f.gd, d := f.dst, a := f.a, b := f.b, ra := f.ra, rb := f.rb }))
  | _ => .error .reservedOpcode

/-- Majors 0x10 to 0x1C. -/
def major1 (m : Nat) (f : FWord) (l : BitVec 62) : Except Reject Instr :=
  match m with
  | 0x0 => layTest.run f ((f.test? l).map .test)
  | 0x1 => layTest.run f ((f.test? l).map .testb)
  | 0x2 => setCode f
  | 0x3 => Lay.run { dst := true, a := true } f (f.scnt?.map .scnt)
  | 0x4 => Lay.run { dst := true, a := true } f (f.set?.map .suniF)
  | 0x5 => Lay.run { laySetMem with b := false } f ((f.setMem? f.dst 0 l).map .sld)
  | 0x6 => Lay.run { laySetMem with dst := false } f ((f.setMem? f.b 0 l).map .sst)
  | 0x7 => laySetMem.run f ((f.setMem? f.b f.dst l).map .sqpush)
  | 0x8 => laySetMem.run f ((f.setMem? f.dst f.b l).map .sqpop)
  | 0x9 => Lay.run { dst := true, a := true, b := true, c := true, x := .may, func := 0x1FC } f
      ((f.apply? l).map (if f.func.getLsbD 8 then .applyF else .applyG))
  | 0xA => Lay.run { dst := true, a := true, b := true, c := true, rm := 6, x := .must, func := 0x1FC } f
      ((f.applyK? l).map .applykF)
  | 0xB => Lay.run { a := true, b := true, x := .must } f ((f.fork? l).map .fork)
  | 0xC => Lay.run {} f (.ok .aend)
  | _ => .error .reservedOpcode

/-- Majors 0x20 to 0x2E. -/
def major2 (m : Nat) (f : FWord) (l : BitVec 62) : Except Reject Instr :=
  match m with
  | 0x0 => arithWord Shape.int2 .iadd f l
  | 0x1 => arithWord Shape.int2 .isub f l
  | 0x2 => arithWord Shape.int2 .imul f l
  | 0x3 => arithWord Shape.int2 .imulh f l
  | 0x4 => arithWord Shape.int3 .imad f l
  | 0x5 => arithWord Shape.int2 .div f l
  | 0x6 => arithWord Shape.int2 .rem f l
  | 0x7 => arithWord Shape.int2 .imin f l
  | 0x8 => arithWord Shape.int2 .imax f l
  | 0x9 => arithWord Shape.int1 .iabs f l
  | 0xA => arithWord Shape.int1 .ineg f l
  | 0xB => arithWord Shape.lea .lea f l
  | 0xC => arithWord Shape.int3 .sel f l
  | 0xD => arithWord Shape.mov .mov f l
  | 0xE => arithWord Shape.movi .movi f l
  | _ => .error .reservedOpcode

/-- Majors 0x30 to 0x3C. -/
def major3 (m : Nat) (f : FWord) (l : BitVec 62) : Except Reject Instr :=
  match m with
  | 0x0 => arithWord Shape.int2 .and f l
  | 0x1 => arithWord Shape.int2 .or f l
  | 0x2 => arithWord Shape.int2 .xor f l
  | 0x3 => arithWord Shape.int1 .not f l
  | 0x4 => arithWord Shape.int2 .shl f l
  | 0x5 => arithWord Shape.int2 .shr f l
  | 0x6 => arithWord Shape.int2 .sar f l
  | 0x7 => arithWord Shape.int2 .rol f l
  | 0x8 => arithWord Shape.int2 .ror f l
  | 0x9 => arithWord Shape.int1 .popc f l
  | 0xA => arithWord Shape.int1 .clz f l
  | 0xB => arithWord Shape.int2 .bfe f l
  | 0xC => arithWord Shape.int3 .bfi f l
  | _ => .error .reservedOpcode

/-- Majors 0x40 to 0x48. -/
def major4 (m : Nat) (f : FWord) (l : BitVec 62) : Except Reject Instr :=
  match m with
  | 0x0 => arithWord Shape.flt2 .fadd f l
  | 0x1 => arithWord Shape.flt2 .fsub f l
  | 0x2 => arithWord Shape.flt2 .fmul f l
  | 0x3 => arithWord Shape.fma .fma f l
  | 0x4 => arithWord Shape.fmin .fmin f l
  | 0x5 => arithWord Shape.fmin .fmax f l
  | 0x6 => arithWord Shape.fldx .fldx f l
  | 0x7 => arithWord Shape.split .fsplit f l
  | 0x8 => arithWord Shape.flt1 .frnd f l
  | _ => .error .reservedOpcode

def layPack : Lay := { guard := true, dst := true, b := true, rm := 2, func := 0x1E7 }

/-- Majors 0x50 to 0x5C. -/
def major5 (m : Nat) (f : FWord) (l : BitVec 62) : Except Reject Instr :=
  match m with
  | 0x0 => arithWord Shape.flt1 .frcp f l
  | 0x1 => arithWord Shape.flt1 .frsq f l
  | 0x2 => arithWord Shape.flt1 .fsqrt f l
  | 0x3 => arithWord Shape.approx .exp2 f l
  | 0x4 => arithWord Shape.split .exp2s f l
  | 0x5 => arithWord Shape.flt1 .log2 f l
  | 0x6 => arithWord Shape.approx .fsin f l
  | 0x7 => arithWord Shape.approx .fcos f l
  | 0x8 => arithWord Shape.approx .ftanh f l
  | 0x9 => Lay.run { guard := true, dst := true, b := true, c := true, rm := 2, x := .may, func := 0x7E7 } f
      ((f.cvt? l).map .cvt)
  | 0xA => layPack.run f (f.pack?.map .qpack)
  | 0xB => layPack.run f (f.pack?.map .qunp)
  | 0xC => Lay.run { guard := true, dst := true, c := true, func := 0x100 } f
      (if f.func = 0x100 then .ok (.gnorm { guard := f.gd, d := f.dst, k := f.c })
       else .error .reservedCode)
  | _ => .error .reservedOpcode

def layRed : Lay := { guard := true, dst := true, b := true, rm := 2, func := 0x1FE }

/-- Majors 0x60 to 0x64. -/
def major6 (m : Nat) (f : FWord) (l : BitVec 62) : Except Reject Instr :=
  match m with
  | 0x0 => Lay.run { layLane with func := 0x7F8 } f ((f.lane? l).map .shfl)
  | 0x1 => layLane.run f ((f.lane? l).map .scat)
  | 0x2 => layRed.run f (f.redLane?.map .lred)
  | 0x3 => layRed.run f (f.redLane?.map .lscan)
  | 0x4 => layLane.run f ((f.lane? l).map .bcast)
  | _ => .error .reservedOpcode

/-- Majors 0x70 to 0x7A. -/
def major7 (m : Nat) (f : FWord) (l : BitVec 62) : Except Reject Instr :=
  match m with
  | 0x0 => layMem.run f ((f.mem? l).map .ld)
  | 0x1 => layMem.run f ((f.mem? l).map .st)
  | 0x2 => Lay.run { layMem with func := 0xBF0 } f ((f.mem? l).map .lr)
  | 0x3 => Lay.run { layMem with rm := 7, func := 0xBF0 } f ((f.sc? l).map .sc)
  | 0x4 => Lay.run { func := 0x1F } f (f.fence?.map .fence)
  | 0x5 => layTag.run f ((f.tagl? l).map .tagl)
  | 0x6 => layTag.run f ((f.tags? l).map .tags)
  | 0x7 => Lay.run { layTag with dst := false } f ((f.tag? l).map .tagi)
  | 0x8 => Lay.run { a := true, c := true, rm := 4, x := .may, func := 0x1FF } f
      ((f.pres? l).map (if f.func.getLsbD 8 then .presSet else .presClr))
  | 0x9 => Lay.run { a := true, c := true, rm := 4, slack := true, x := .may, func := 0x103 } f
      ((f.strm? l).map .strm)
  | 0xA => Lay.run { func := 3 } f (.ok (.strmx (f.func.extractLsb' 0 2)))
  | _ => .error .reservedOpcode

/-- Majors 0x80 to 0x83. -/
def major8 (m : Nat) (f : FWord) (l : BitVec 62) : Except Reject Instr :=
  match m with
  | 0x0 => Lay.run { layMem with func := 0xFFF } f ((f.atom? l).map .atom)
  | 0x1 => layGate.run f (f.gmax?.map .gmax)
  | 0x2 => Lay.run { layGate with rm := 6 } f (f.gnext?.map .gnext)
  | 0x3 => Lay.run { layGate with func := 3 } f (f.route?.map .route)
  | _ => .error .reservedOpcode

/-- Majors 0x90 to 0x97. -/
def major9 (m : Nat) (f : FWord) (l : BitVec 62) : Except Reject Instr :=
  match m with
  | 0x0 => Lay.run { layGate with func := 0xFFF } f (f.cpa?.map .cpa)
  | 0x1 => Lay.run { guard := true, dst := true, func := 0xF } f (f.cpwait?.map .cpwait)
  | 0x2 => Lay.run { dst := true, a := true, b := true, c := true, rm := 7, slack := true, x := .may,
                     func := 0x11 } f ((f.bcopy? l).map .bcopy)
  | 0x3 => layDesc.run f ((f.desc? l).map .gather)
  | 0x4 => Lay.run { dst := true, func := 7 } f
      (.ok (.tlrd { sd := f.dst, tl := f.func.extractLsb' 0 3 }))
  | 0x5 => layDesc.run f ((f.desc? l).map .coll)
  | 0x6 => Lay.run { a := true, b := true, c := true, rm := 6, slack := true, x := .may, func := 0x1F } f
      ((f.chan? true l).map .chsnd)
  | 0x7 => Lay.run { dst := true, a := true, c := true, rm := 4, slack := true, x := .may, func := 0x1F } f
      ((f.chan? false l).map .chrcv)
  | _ => .error .reservedOpcode

/-- Majors 0xA0 to 0xA5. -/
def majorA (m : Nat) (f : FWord) (l : BitVec 62) : Except Reject Instr :=
  match m with
  | 0x0 => Lay.run { a := true, b := true, c := true, rm := 4, slack := true, x := .may, func := 0x478 } f
      ((f.mldw? l).map .mldw)
  | 0x1 => Lay.run { func := 0x400 } f (.ok (.mswp (f.func.getLsbD 10)))
  | 0x2 => Lay.run { dst := true, a := true, b := true, c := true, rm := 6, slack := true, x := .may,
                     func := 0x778 } f ((f.mstr? l).map .mstr)
  | 0x3 =>
    if f.func.getLsbD 7 then
      Lay.run { dst := true, b := true, c := true, rm := 2, slack := true, func := 0x88 } f
        (f.mdrnReg?.map .mdrnRegisters)
    else
      Lay.run { dst := true, a := true, b := true, c := true, rm := 6, slack := true, x := .may,
                func := 8 } f ((f.mdrnSpad? l).map .mdrnScratchpad)
  | 0x4 => Lay.run { dst := true, c := true } f (.ok (.macq { sd := f.dst, n1 := f.c }))
  | 0x5 => Lay.run { a := true, c := true, rm := 4 } f (f.mrel?.map .mrel)
  | _ => .error .reservedOpcode

/-- Majors 0xB0 to 0xB2. -/
def majorB (m : Nat) (f : FWord) (l : BitVec 62) : Except Reject Instr :=
  match m with
  | 0x0 => Lay.run { dst := true, a := true, b := true, c := true, rm := 7, slack := true, x := .may,
                     func := 0x33 } f ((f.descent? l).map .desc)
  | 0x1 => Lay.run { dst := true, a := true, b := true, c := true, rm := 7, slack := true, x := .must,
                     func := 0x33 } f ((f.ascent? l).map .ascd)
  | 0x2 =>
    if f.func.getLsbD 4 then
      Lay.run { guard := true, a := true, rm := 4, func := 0x13 } f
        (.ok (.pmovToPath { guard := f.gd, v := f.a, hn := f.func.extractLsb' 0 2, m := f.ra }))
    else
      Lay.run { guard := true, dst := true, rm := 4, func := 0x13 } f
        (.ok (.pmovToVector { guard := f.gd, v := f.dst, hn := f.func.extractLsb' 0 2, m := f.ra }))
  | _ => .error .reservedOpcode

/-- CSRW of a register other than TSW (R354). -/
def csrw (f : FWord) : Except Reject Instr := do
  let o ← f.uniSrc?
  match (f.func.extractLsb' 0 5).toNat with
  | 1 => .ok (.csrwSlk o)
  | 2 => .ok (.csrwOvd o)
  | 3 => .ok (.csrwTstat o)
  | _ => .error .reservedCode

/-- Majors 0xC0 to 0xC4. -/
def majorC (m : Nat) (f : FWord) (_l : BitVec 62) : Except Reject Instr :=
  match m with
  | 0x0 =>
    if f.func.extractLsb' 0 5 = 0 then
      Lay.run { guard := true, dst := true } f (.ok (.csrrTsw { guard := f.gd, d := f.dst }))
    else Lay.run { dst := true, func := 0x1F } f
      ((orReject .reservedCode (Csr.ofCode (f.func.extractLsb' 0 5))).map
        fun c => .csrr { sd := f.dst, csr := c })
  | 0x1 =>
    if f.func.extractLsb' 0 5 = 0 then
      Lay.run { guard := true, a := true, rm := 4 } f
        ((vsrc? f.a).map fun v => .csrwTsw { guard := f.gd, a := v, ra := f.ra })
    else Lay.run { a := true, rm := 4, func := 0x1F } f (csrw f)
  | 0x2 => Lay.run { dst := true } f (.ok (.rdclk f.dst))
  | 0x3 => layUni.run f (f.uniSrc?.map .tmark)
  | 0x4 =>
    if f.func.getLsbD 2 then
      Lay.run { a := true, rm := 4, func := 7 } f
        ((usrc? f.a).map fun a => .slksetOne { a := a, ra := f.ra, cls := f.func.extractLsb' 0 2 })
    else layUni.run f (f.uniSrc?.map .slkset)
  | _ => .error .reservedOpcode

/-- The instruction that an F word's fields and its literal give (R328). -/
def FWord.parse (f : FWord) (l : BitVec 62) : Except Reject Instr :=
  let m := f.opc.toNat % 16
  match f.opc.toNat / 16 with
  | 0x0 => major0 m f l
  | 0x1 => major1 m f l
  | 0x2 => major2 m f l
  | 0x3 => major3 m f l
  | 0x4 => major4 m f l
  | 0x5 => major5 m f l
  | 0x6 => major6 m f l
  | 0x7 => major7 m f l
  | 0x8 => major8 m f l
  | 0x9 => major9 m f l
  | 0xA => majorA m f l
  | 0xB => majorB m f l
  | 0xC => majorC m f l
  | _ => .error .reservedOpcode

/-! ### The P word (R324) -/

/-- One slot of 31 bits. -/
def pslot? (s : BitVec 31) : Except Reject PSlot := do
  let op ← orReject .pWord (POp.ofCode (s.extractLsb' 25 6))
  let ps := s.extractLsb' 9 8
  let imm := s.extractLsb' 3 6
  if s.extractLsb' 0 2 ≠ 0 then .error .pWord else
  let src ← if ps = 0xEF then .ok (.imm imm)
    else if imm ≠ 0 then .error .pWord
    else orReject .pWord ((VSrc.ofField ps).map .vec)
  .ok { op := op, args := { d := s.extractLsb' 17 8, s := src, rm := s.getLsbD 2 } }

/-- The constructor of slot A's operation. -/
def pInstr (a b : PSlot) : Except Reject Instr :=
  match a.op with
  | .nop => if a = PSlot.nopSlot then .ok (.pNop b) else .error .pWord
  | .mov => .ok (.pMov a.args b)
  | .iadd => .ok (.pIadd a.args b)
  | .isub => .ok (.pIsub a.args b)
  | .and => .ok (.pAnd a.args b)
  | .or => .ok (.pOr a.args b)
  | .xor => .ok (.pXor a.args b)
  | .shl => .ok (.pShl a.args b)
  | .shr => .ok (.pShr a.args b)
  | .sar => .ok (.pSar a.args b)
  | .imin => .ok (.pImin a.args b)
  | .imax => .ok (.pImax a.args b)
  | .fadd => .ok (.pFadd a.args b)
  | .fsub => .ok (.pFsub a.args b)
  | .fmul => .ok (.pFmul a.args b)
  | .fmin => .ok (.pFmin a.args b)
  | .fmax => .ok (.pFmax a.args b)
  | .not => .ok (.pNot a.args b)
  | .ineg => .ok (.pIneg a.args b)
  | .iabs => .ok (.pIabs a.args b)

def pword? (w : Word) : Except Reject Instr := do
  let a ← pslot? (w.extractLsb' 31 31)
  let b ← pslot? (w.extractLsb' 0 31)
  pInstr a b

/-! ### Words and bytes -/

/-- Only well-formed instructions are answered (R330). -/
def checked (i : Instr) : Except Reject Instr :=
  if i.wf then .ok i else .error (if i.isPWord then .pWord else .illFormed)

/-- An F word asks for an X word when its XF bit is 1 (R313). -/
def needsX (w : Word) : Bool := !w.getLsbD 63 && w.getLsbD 12

/-- The instruction of one word, with the next word where there is one, and its length in words (R313). -/
def decodeWords (w : Word) (next : Option Word) : Except Reject (Instr × Nat) :=
  if w = 0 then .ok (.nop, 1)
  else if w.getLsbD 63 then
    if w.getLsbD 62 then .error .xWordFirst
    else (pword? w >>= checked).map fun i => (i, 1)
  else
    let f := FWord.ofWord w
    if f.opc = 0 then .error .nonzeroReserved
    else if f.xf then
      match next with
      | none => .error .short
      | some x =>
        if x.extractLsb' 62 2 = 3 then
          (f.parse (x.setWidth 62) >>= checked).map fun i => (i, 2)
        else .error .xWord
    else (f.parse 0 >>= checked).map fun i => (i, 1)

/-- The little-endian word of eight bytes (R2). -/
def wordOfBytes : List Byte → Word
  | b :: bs => (wordOfBytes bs <<< 8) ||| b.setWidth 64
  | [] => 0

/-- Decode an instruction from bytes; answers it with the bytes that follow it. -/
def decode (bs : List Byte) : Except Reject (Instr × List Byte) :=
  if bs.length < 8 then .error .short
  else
    let w := wordOfBytes (bs.take 8)
    let rest := bs.drop 8
    let next := if rest.length < 8 then none else some (wordOfBytes (rest.take 8))
    (decodeWords w next).map fun (i, n) => (i, bs.drop (8 * n))

/-- The decoder on a row of spec/opcode_table.json: a word (or a word and its X word) whose bits are `w`. The
bits above the row's count are zero: an F word that asks for an X word and has none is refused. -/
def decodeTableWord (nbits w : Nat) : Option Instr :=
  let v := w % 2 ^ nbits
  match decodeWords (BitVec.ofNat 64 v) (some (BitVec.ofNat 64 (v / 2 ^ 64))) with
  | .ok (i, _) => some i
  | .error _ => none

/-! ### The encoder: the same layouts, written from the encoding tables -/

def VSrc.field : VSrc → BitVec 8
  | .reg n => n
  | .tid => 0xE0
  | .lane => 0xE1
  | .home => 0xE2
  | .core => 0xE3
  | .const i => 0xF#4 ++ i

def USrc.field : USrc → BitVec 8
  | .reg n => n
  | .team => 0xA0
  | .nteams => 0xA1
  | .tsize => 0xA2
  | .w => 0xA3
  | .launch => 0xA4
  | .fcard => 0xA5
  | .die => 0xA6
  | .quad => 0xA7

def Ty.code : Ty → BitVec 4
  | .int8 => 0 | .int16 => 1 | .int32 => 2 | .int64 => 3 | .uint8 => 4 | .uint16 => 5 | .uint32 => 6
  | .uint64 => 7 | .fp32 => 8 | .fp16 => 9 | .bf16 => 10 | .e4m3 => 11 | .e5m2 => 12 | .nb4 => 13

def Rnd.code : Rnd → BitVec 3
  | .rne => 0 | .rz => 1 | .rd => 2 | .ru => 3 | .rna => 4

def Cond.code : Cond → BitVec 5
  | .eq => 0 | .ne => 1 | .lt => 2 | .le => 3 | .gt => 4 | .ge => 5

def Scope.code : Scope → BitVec 3
  | .lg => 0 | .team => 1 | .die => 2 | .pkg => 3 | .sys => 4

def FenceKind.code : FenceKind → BitVec 2
  | .acq => 1 | .rel => 2 | .ar => 3

def AtomOp.code : AtomOp → BitVec 3
  | .add => 0 | .and => 1 | .or => 2 | .xor => 3 | .min => 4 | .max => 5 | .exch => 6 | .cas => 7

def AtomTy.code : AtomTy → BitVec 3
  | .int32 => 0 | .uint32 => 1 | .int64 => 2 | .uint64 => 3 | .fp32 => 4

def RedOp.code : RedOp → BitVec 3
  | .add => 0 | .min => 1 | .max => 2 | .and => 3 | .or => 4 | .xor => 5

def ShflMode.code : ShflMode → BitVec 2
  | .idx => 0 | .up => 1 | .down => 2 | .xor => 3

def Csr.code : Csr → BitVec 5
  | .slk => 1 | .ovd => 2 | .tstat => 3 | .fesum => 4 | .pstat => 5 | .frame => 6 | .sform => 7

def POp.code : POp → BitVec 6
  | .nop => 0 | .mov => 1 | .iadd => 2 | .isub => 3 | .and => 4 | .or => 5 | .xor => 6 | .shl => 7
  | .shr => 8 | .sar => 9 | .imin => 10 | .imax => 11 | .fadd => 12 | .fsub => 13 | .fmul => 14
  | .fmin => 15 | .fmax => 16 | .not => 17 | .ineg => 18 | .iabs => 19

/-- The word of an F word's fields (R314). -/
def FWord.toWord (f : FWord) : Word :=
  0#1 ++ f.opc ++ f.guard ++ f.dst ++ f.a ++ f.b ++ f.c ++ f.rm ++ f.sl ++ BitVec.ofBool f.xf ++ f.func

/-- An F word of a major opcode with every other field 0. -/
def FWord.of (opc : BitVec 8) : FWord := ⟨opc, 0, 0, 0, 0, 0, 0, 0, false, 0⟩

def Guard.field : Guard → BitVec 5
  | none => 0
  | some k => 1#1 ++ k

def rms (a b c : Bool) : BitVec 3 := BitVec.ofBool a ++ BitVec.ofBool b ++ BitVec.ofBool c

def kfield (k : BitVec 4) : BitVec 8 := 0#4 ++ k

/-- What an instruction's F word carries, and its literal. -/
abbrev Enc := FWord × Option (BitVec 62)

def BSrc.cls : BSrc → BitVec 2
  | .vec _ => 0 | .uni _ => 1 | .imm _ => 2 | .lit _ => 3
def BSrc.field : BSrc → BitVec 8
  | .vec v => v.field | .uni u => u.field | .imm i => i | .lit _ => 0
def BSrc.litOf : BSrc → Option (BitVec 62)
  | .lit l => some l | _ => none
def ASrc.field : ASrc → BitVec 8
  | .none => 0 | .vec v => v.field | .uni u => u.field
def Off.field : Off → BitVec 8
  | .imm i => i | .wide _ => 0
def Off.litOf : Off → Option (BitVec 62)
  | .imm _ => none | .wide l => some l
def Target.hi : Target → BitVec 8
  | .near o => o.extractLsb' 8 8 | .far _ => 0
def Target.lo : Target → BitVec 8
  | .near o => o.extractLsb' 0 8 | .far _ => 0
def Target.litOf : Target → Option (BitVec 62)
  | .near _ => none | .far l => some l
def idxField : Option VSrc → BitVec 8
  | some v => v.field | none => 0

/-- Function bits of the arithmetic layout (R322). -/
def arithFunc (u : Bool) (cls : BitVec 2) (ty : BitVec 4) (opx : BitVec 2) (low : BitVec 3) : BitVec 12 :=
  BitVec.ofBool u ++ cls ++ ty ++ opx ++ low

def Arith.enc (opc : BitVec 8) (o : Arith) : Enc :=
  ({ opc := opc, guard := o.guard.field, dst := o.d, a := o.a.field, b := o.b.field, c := o.c.field,
     rm := rms o.ra o.rb o.rc, sl := 0, xf := o.b.litOf.isSome,
     func := arithFunc o.uform o.b.cls o.ty.code 0 (o.rnd.code ||| o.sh) }, o.b.litOf)

def CvtOp.enc (o : CvtOp) : Enc :=
  ({ opc := 0x59, guard := o.guard.field, dst := o.d, a := 0, b := o.b.field, c := o.sty.code ++ 0#4,
     rm := rms false o.rb false, sl := 0, xf := o.b.litOf.isSome,
     func := arithFunc false o.b.cls o.dty.code 0 (o.rnd.code ||| o.slot) }, o.b.litOf)

def PackOp.enc (opc : BitVec 8) (o : PackOp) : Enc :=
  ({ FWord.of opc with
     guard := o.guard.field, dst := o.d, b := o.s, rm := rms false o.rb false,
     func := arithFunc false 0 o.ty.code 0 o.slot }, none)

def GnormOp.enc (o : GnormOp) : Enc :=
  ({ FWord.of 0x5C with
     guard := o.guard.field, dst := o.d, c := o.k, func := 0x100 }, none)

def TestOp.enc (opc : BitVec 8) (o : TestOp) : Enc :=
  ({ FWord.of opc with
     guard := o.guard.field, dst := kfield o.kd, a := o.a.field, b := o.b.field,
     rm := rms o.ra o.rb false, xf := o.b.litOf.isSome,
     func := 0#1 ++ o.b.cls ++ o.ty.code ++ o.cond.code }, o.b.litOf)

def SetOp.enc (opc : BitVec 8) (code : BitVec 12) (o : SetOp) : Enc :=
  ({ FWord.of opc with
     dst := kfield o.kd, a := kfield o.ka, b := kfield o.kb, func := code }, none)

/-- SLD, SST, SQPUSH, SQPOP: `kd` says whether the set register is the destination. -/
def SetMem.enc (opc : BitVec 8) (kd : Bool) (o : SetMem) : Enc :=
  ({ FWord.of opc with
     dst := if kd then kfield o.k else o.sd, a := o.base.field,
     b := if kd then o.sd else kfield o.k, c := o.off.field, rm := rms o.ra false false, sl := o.sl,
     xf := o.off.litOf.isSome, func := 0#10 ++ BitVec.ofBool o.ov ++ BitVec.ofBool o.sp }, o.off.litOf)

def ApplyOp.enc (s : Bool) (o : ApplyOp) : Enc :=
  ({ FWord.of 0x19 with
     dst := o.n, a := kfield o.ka, b := o.t.hi, c := o.t.lo, xf := o.t.litOf.isSome,
     func := 0#3 ++ BitVec.ofBool s ++ BitVec.ofBool o.pack ++ o.foot ++ 0#2 }, o.t.litOf)

def ApplyKOp.enc (o : ApplyKOp) : Enc :=
  ({ FWord.of 0x1A with
     dst := o.skey, a := o.vkey, b := o.nkeys, c := o.n,
     rm := rms o.ra o.rb false, xf := true,
     func := 0#3 ++ 1#1 ++ BitVec.ofBool o.pack ++ o.foot ++ 0#2 }, some o.off)

def ForkOp.enc (o : ForkOp) : Enc :=
  ({ FWord.of 0x1B with
     a := kfield o.ka, b := kfield o.kb, xf := true }, some (o.la ++ o.lb))

def UniSrcOp.enc (opc : BitVec 8) (func : BitVec 12) (o : UniSrcOp) : Enc :=
  ({ FWord.of opc with
     a := o.a.field, rm := rms o.ra false false, func := func }, none)

def BrcB.cls : BrcB → BitVec 2
  | .uni _ => 1 | .imm _ => 2
def BrcB.field : BrcB → BitVec 8
  | .uni u => u.field | .imm i => i

def BrcOp.enc (o : BrcOp) : Enc :=
  ({ FWord.of 0x03 with
     dst := o.b.field, a := o.a.field, b := o.t.hi, c := o.t.lo,
     rm := rms o.ra false false, xf := o.t.litOf.isSome,
     func := 0#1 ++ o.b.cls ++ 0#4 ++ o.cond.code }, o.t.litOf)

def braEnc (t : Target) : Enc :=
  ({ FWord.of 0x01 with
     b := t.hi, c := t.lo, xf := t.litOf.isSome }, t.litOf)

def CallOp.enc (o : CallOp) : Enc :=
  ({ FWord.of 0x04 with
     b := o.t.hi, c := o.t.lo, xf := o.t.litOf.isSome, func := 0#4 ++ o.n }, o.t.litOf)

def CallvOp.enc (o : CallvOp) : Enc :=
  ({ FWord.of 0x05 with
     a := o.va, c := o.n, rm := rms o.ra false false }, none)

def TimeOut.tc : TimeOut → BitVec 2
  | .none => 0 | .uni _ => 1 | .imm _ => 2
def TimeOut.b : TimeOut → BitVec 8
  | .uni u => u.field | _ => 0
def TimeOut.c : TimeOut → BitVec 8
  | .imm i => i | _ => 0

def WaitOp.enc (o : WaitOp) : Enc :=
  ({ FWord.of 0x08 with
     dst := o.sd, a := o.sa, b := o.timeout.b, c := o.timeout.c,
     rm := rms o.ra o.rb false, sl := o.sl,
     func := 0#1 ++ o.timeout.tc ++ BitVec.ofBool o.all ++ 0#6 ++ o.n1 }, none)

def BarOp.enc (o : BarOp) : Enc := ({ FWord.of 0x09 with func := o.id ++ o.n1 }, none)

def DescOp.enc (opc : BitVec 8) (o : DescOp) : Enc :=
  ({ FWord.of opc with
     dst := o.sd, a := o.base.field, c := o.off.field, rm := rms o.ra false false,
     sl := o.sl, xf := o.off.litOf.isSome, func := 0#7 ++ BitVec.ofBool o.ov ++ 0#4 }, o.off.litOf)

def SpawnOp.enc (o : SpawnOp) : Enc :=
  ({ FWord.of 0x0E with
     guard := o.guard.field, dst := o.d, a := o.a, b := o.b,
     rm := rms o.ra o.rb false }, none)

def ScntOp.enc (o : ScntOp) : Enc := ({ FWord.of 0x13 with dst := o.sd, a := kfield o.ka }, none)

def LaneOp.enc (opc : BitVec 8) (o : LaneOp) : Enc :=
  ({ FWord.of opc with
     guard := o.guard.field, dst := o.d, a := o.a.field, b := o.b.field,
     rm := rms o.ra o.rb false, xf := o.b.litOf.isSome,
     func := arithFunc false o.b.cls o.ty.code o.mode.code 0 }, o.b.litOf)

def RedLaneOp.enc (opc : BitVec 8) (o : RedLaneOp) : Enc :=
  ({ FWord.of opc with
     guard := o.guard.field, dst := o.d, b := o.b.field, rm := rms false o.rb false,
     func := 0#3 ++ o.ty.code ++ o.op.code ++ BitVec.ofBool o.excl ++ 0#1 }, none)

/-- Function bits of R373. -/
def memFunc (sp s ix : Bool) (ty : BitVec 4) (ov : Bool) (scope : BitVec 3) : BitVec 12 :=
  BitVec.ofBool sp ++ BitVec.ofBool s ++ BitVec.ofBool ix ++ ty ++ BitVec.ofBool ov ++ 0#1 ++ scope

def MemOp.enc (opc : BitVec 8) (o : MemOp) : Enc :=
  ({ opc := opc, guard := o.guard.field, dst := o.v, a := o.base.field, b := idxField o.idx,
     c := o.off.field, rm := rms o.ra o.rb false, sl := o.sl, xf := o.off.litOf.isSome,
     func := memFunc o.sp o.strong o.idx.isSome o.ty.code o.ov o.scope.code }, o.off.litOf)

def ScOp.enc (o : ScOp) : Enc :=
  ({ opc := 0x73, guard := o.guard.field, dst := o.d, a := o.base.field, b := idxField o.idx, c := o.s,
     rm := rms o.ra o.rb o.rc, sl := o.sl, xf := o.off.isSome,
     func := memFunc o.sp false o.idx.isSome o.ty.code o.ov 0 }, o.off)

def FenceOp.enc (o : FenceOp) : Enc :=
  ({ FWord.of 0x74 with
     func := 0#7 ++ o.kind.code ++ o.scope.code }, none)

def AtomicOp.enc (o : AtomicOp) : Enc :=
  ({ opc := 0x80, guard := o.guard.field, dst := o.v, a := o.base.field, b := idxField o.idx,
     c := o.off.field, rm := rms o.ra o.rb false, sl := o.sl, xf := o.off.litOf.isSome,
     func := BitVec.ofBool o.sp ++ BitVec.ofBool o.ret ++ BitVec.ofBool o.idx.isSome ++ o.op.code
       ++ o.ty.code ++ o.scope.code }, o.off.litOf)

/-- A tag instruction with its field in DST. -/
def TagOp.enc (opc dst : BitVec 8) (o : TagOp) : Enc :=
  ({ FWord.of opc with
     guard := o.guard.field, dst := dst, a := o.base.field, b := idxField o.idx,
     c := o.off.field, rm := rms o.ra o.rb false, xf := o.off.litOf.isSome,
     func := 0#2 ++ BitVec.ofBool o.idx.isSome ++ 0#9 }, o.off.litOf)

def PresOp.enc (set : Bool) (o : PresOp) : Enc :=
  ({ FWord.of 0x78 with
     a := o.base.field, c := o.off.field, rm := rms o.ra false false,
     xf := o.off.litOf.isSome, func := 0#3 ++ BitVec.ofBool set ++ o.n1 }, o.off.litOf)

def StrmOp.enc (o : StrmOp) : Enc :=
  ({ FWord.of 0x79 with
     a := o.base.field, c := o.off.field, rm := rms o.ra false false, sl := o.sl,
     xf := o.off.litOf.isSome, func := 0#3 ++ BitVec.ofBool o.ov ++ 0#6 ++ o.id }, o.off.litOf)

/-- A gate instruction with its fields in DST and SRCC and the read mode of the latter. -/
def GateOp.enc (opc dst c : BitVec 8) (rc : Bool) (o : GateOp) : Enc :=
  ({ opc := opc, guard := o.guard.field, dst := dst, a := o.base.field, b := idxField o.idx, c := c,
     rm := rms o.ra o.rb rc, sl := o.sl, xf := false,
     func := 0#2 ++ BitVec.ofBool o.idx.isSome ++ 0#1 ++ o.off }, none)

def RouteOp.enc (o : RouteOp) : Enc :=
  ({ opc := 0x83, guard := o.guard.field, dst := o.d, a := o.base.field, b := o.e.field,
     c := o.tag.field, rm := rms o.ra o.rb o.rc, sl := o.sl, xf := false,
     func := 0#10 ++ BitVec.ofBool o.ov ++ BitVec.ofBool o.sp }, none)

def Valid.isReg : Valid → Bool
  | .reg _ => true | .imm _ => false
def Valid.field : Valid → BitVec 8
  | .reg v => v | .imm n => n

def CpaOp.enc (o : CpaOp) : Enc :=
  ({ opc := 0x90, guard := o.guard.field, dst := o.db.field, a := o.di.field, b := o.sb.field,
     c := o.si.field, rm := rms o.ra o.rb o.rc, sl := o.sl, xf := false,
     func := BitVec.ofBool o.valid.isReg ++ o.tag ++ o.valid.field }, none)

def CpwaitOp.enc (o : CpwaitOp) : Enc :=
  ({ FWord.of 0x91 with
     guard := o.guard.field, dst := o.sd.getD 0,
     func := 0#8 ++ BitVec.ofBool o.sd.isSome ++ o.tag }, none)

def BcopyOp.enc (o : BcopyOp) : Enc :=
  ({ FWord.of 0x92 with
     dst := o.sd, a := o.a.field, b := o.b.field, c := o.c.field,
     rm := rms o.ra o.rb o.rc, sl := o.sl, xf := o.offs.isSome,
     func := 0#7 ++ BitVec.ofBool o.ov ++ 0#3 ++ BitVec.ofBool o.dsp },
   o.offs.map fun p => p.1 ++ p.2)

def TlrdOp.enc (o : TlrdOp) : Enc := ({ FWord.of 0x94 with dst := o.sd, func := 0#9 ++ o.tl }, none)

def ChanOp.enc (opc : BitVec 8) (o : ChanOp) : Enc :=
  ({ FWord.of opc with
     dst := o.sd, a := o.base.field, b := o.count.field, c := o.off.field,
     rm := rms o.ra o.rb false, sl := o.sl, xf := o.off.litOf.isSome,
     func := 0#7 ++ BitVec.ofBool o.ov ++ o.ch }, o.off.litOf)

/-- Function bits of R132. -/
def matFunc (pair clr t reg : Bool) (slot : BitVec 3) (ov : Bool) : BitVec 12 :=
  0#1 ++ BitVec.ofBool pair ++ BitVec.ofBool clr ++ BitVec.ofBool t ++ BitVec.ofBool reg ++ slot
    ++ BitVec.ofBool ov ++ 0#3

def MldwOp.enc (o : MldwOp) : Enc :=
  ({ FWord.of 0xA0 with
     a := o.base.field, b := o.kq, c := o.off.field, rm := rms o.ra false false,
     sl := o.sl, xf := o.off.litOf.isSome, func := matFunc o.pair false false false o.slot o.ov },
   o.off.litOf)

def MstrOp.enc (o : MstrOp) : Enc :=
  ({ FWord.of 0xA2 with
     dst := o.m1, a := o.base.field, b := o.row.field, c := o.off.field,
     rm := rms o.ra o.rb false, sl := o.sl, xf := o.off.litOf.isSome,
     func := matFunc o.pair o.clr o.t false o.slot o.ov }, o.off.litOf)

def MdrnRegOp.enc (o : MdrnRegOp) : Enc :=
  ({ FWord.of 0xA3 with
     dst := o.d, b := o.row.field, c := o.n1, rm := rms false o.rb false, sl := o.sl,
     func := matFunc false false false true 0 o.ov }, none)

def MdrnSpadOp.enc (o : MdrnSpadOp) : Enc :=
  ({ FWord.of 0xA3 with
     dst := o.n1, a := o.base.field, b := o.row.field, c := o.off.field,
     rm := rms o.ra o.rb false, sl := o.sl, xf := o.off.litOf.isSome,
     func := matFunc false false false false 0 o.ov }, o.off.litOf)

def MacqOp.enc (o : MacqOp) : Enc := ({ FWord.of 0xA4 with dst := o.sd, c := o.n1 }, none)

def MrelOp.enc (o : MrelOp) : Enc :=
  ({ FWord.of 0xA5 with
     a := o.row.field, c := o.n1, rm := rms o.ra false false }, none)

/-- Function bits of R246 and R251. -/
def treeFunc (x ov : Bool) (hn : BitVec 2) : BitVec 12 :=
  0#6 ++ BitVec.ofBool x ++ BitVec.ofBool ov ++ 0#2 ++ hn

def DescentOp.enc (o : DescentOp) : Enc :=
  ({ FWord.of 0xB0 with
     dst := o.d, a := o.a, b := o.va, c := o.sdesc, rm := rms o.ra o.rb o.rc,
     sl := o.sl, xf := o.dp.isSome, func := treeFunc o.dp.isSome o.ov o.hn },
   o.dp.map fun p => p.1 ++ p.2 ++ 0#46)

def AscentOp.enc (o : AscentOp) : Enc :=
  ({ FWord.of 0xB1 with
     dst := o.sg, a := o.a, b := o.va, c := o.sdesc, rm := rms o.ra o.rb o.rc,
     sl := o.sl, xf := true, func := treeFunc o.dx.isSome o.ov o.hn },
   some (match o.dx with
     | some (s, v) => o.vg ++ s ++ v ++ 0#38
     | none => o.vg ++ 0#54))

def PmovOp.encToVector (o : PmovOp) : Enc :=
  ({ FWord.of 0xB2 with
     guard := o.guard.field, dst := o.v, rm := rms o.m false false,
     func := 0#7 ++ 0#1 ++ 0#2 ++ o.hn }, none)

def PmovOp.encToPath (o : PmovOp) : Enc :=
  ({ FWord.of 0xB2 with
     guard := o.guard.field, a := o.v, rm := rms o.m false false,
     func := 0#7 ++ 1#1 ++ 0#2 ++ o.hn }, none)

def SlkOneOp.enc (o : SlkOneOp) : Enc :=
  ({ FWord.of 0xC4 with
     a := o.a.field, rm := rms o.ra false false, func := 0#9 ++ 1#1 ++ o.cls }, none)

/-- One P slot (R324). -/
def PSlot.field (p : PSlot) : BitVec 31 :=
  match p.args.s with
  | .vec v => p.op.code ++ p.args.d ++ v.field ++ 0#6 ++ BitVec.ofBool p.args.rm ++ 0#2
  | .imm i => p.op.code ++ p.args.d ++ 0xEF#8 ++ i ++ BitVec.ofBool p.args.rm ++ 0#2

/-- A P word (R324). -/
def pEnc (a b : PSlot) : Word := 2#2 ++ a.field ++ b.field

/-- The words of an F-word instruction. -/
def Enc.words (e : Enc) : List Word :=
  match e.2 with
  | none => [e.1.toWord]
  | some l => [e.1.toWord, 3#2 ++ l]

/-- The words of an instruction (R313): one word, or an F word and its X word. The steps of the other agents
have no words. -/
def encode : Instr → List Word
  | .nop => [0]
  | .bra t => Enc.words (braEnc t)
  | .brs o => Enc.words (o.enc 0x02 0)
  | .brc o => Enc.words (o.enc)
  | .call o => Enc.words (o.enc)
  | .callv o => Enc.words (o.enc)
  | .ret => Enc.words ((FWord.of 0x06, none))
  | .exit g => Enc.words (({ FWord.of 0x07 with guard := g.field }, none))
  | .wait o => Enc.words (o.enc)
  | .bar o => Enc.words (o.enc)
  | .trap => Enc.words ((FWord.of 0x0A, none))
  | .rft => Enc.words ((FWord.of 0x0B, none))
  | .brk => Enc.words ((FWord.of 0x0C, none))
  | .launch o => Enc.words (o.enc 0x0D)
  | .spawn o => Enc.words (o.enc)
  | .test o => Enc.words (o.enc 0x10)
  | .testb o => Enc.words (o.enc 0x11)
  | .sand o => Enc.words (o.enc 0x12 0)
  | .sor o => Enc.words (o.enc 0x12 1)
  | .sxor o => Enc.words (o.enc 0x12 2)
  | .sandn o => Enc.words (o.enc 0x12 3)
  | .snot o => Enc.words (o.enc 0x12 4)
  | .smov o => Enc.words (o.enc 0x12 5)
  | .sclr o => Enc.words (o.enc 0x12 6)
  | .sall o => Enc.words (o.enc 0x12 7)
  | .sheld o => Enc.words (o.enc 0x12 8)
  | .sfirst o => Enc.words (o.enc 0x12 9)
  | .scnt o => Enc.words (o.enc)
  | .suniF o => Enc.words (o.enc 0x14 0)
  | .sld o => Enc.words (o.enc 0x15 true)
  | .sst o => Enc.words (o.enc 0x16 false)
  | .sqpush o => Enc.words (o.enc 0x17 false)
  | .sqpop o => Enc.words (o.enc 0x18 true)
  | .applyG o => Enc.words (o.enc false)
  | .applyF o => Enc.words (o.enc true)
  | .applykF o => Enc.words (o.enc)
  | .fork o => Enc.words (o.enc)
  | .aend => Enc.words ((FWord.of 0x1C, none))
  | .iadd o => Enc.words (o.enc 0x20)
  | .isub o => Enc.words (o.enc 0x21)
  | .imul o => Enc.words (o.enc 0x22)
  | .imulh o => Enc.words (o.enc 0x23)
  | .imad o => Enc.words (o.enc 0x24)
  | .div o => Enc.words (o.enc 0x25)
  | .rem o => Enc.words (o.enc 0x26)
  | .imin o => Enc.words (o.enc 0x27)
  | .imax o => Enc.words (o.enc 0x28)
  | .iabs o => Enc.words (o.enc 0x29)
  | .ineg o => Enc.words (o.enc 0x2A)
  | .lea o => Enc.words (o.enc 0x2B)
  | .sel o => Enc.words (o.enc 0x2C)
  | .mov o => Enc.words (o.enc 0x2D)
  | .movi o => Enc.words (o.enc 0x2E)
  | .and o => Enc.words (o.enc 0x30)
  | .or o => Enc.words (o.enc 0x31)
  | .xor o => Enc.words (o.enc 0x32)
  | .not o => Enc.words (o.enc 0x33)
  | .shl o => Enc.words (o.enc 0x34)
  | .shr o => Enc.words (o.enc 0x35)
  | .sar o => Enc.words (o.enc 0x36)
  | .rol o => Enc.words (o.enc 0x37)
  | .ror o => Enc.words (o.enc 0x38)
  | .popc o => Enc.words (o.enc 0x39)
  | .clz o => Enc.words (o.enc 0x3A)
  | .bfe o => Enc.words (o.enc 0x3B)
  | .bfi o => Enc.words (o.enc 0x3C)
  | .fadd o => Enc.words (o.enc 0x40)
  | .fsub o => Enc.words (o.enc 0x41)
  | .fmul o => Enc.words (o.enc 0x42)
  | .fma o => Enc.words (o.enc 0x43)
  | .fmin o => Enc.words (o.enc 0x44)
  | .fmax o => Enc.words (o.enc 0x45)
  | .fldx o => Enc.words (o.enc 0x46)
  | .fsplit o => Enc.words (o.enc 0x47)
  | .frnd o => Enc.words (o.enc 0x48)
  | .frcp o => Enc.words (o.enc 0x50)
  | .frsq o => Enc.words (o.enc 0x51)
  | .fsqrt o => Enc.words (o.enc 0x52)
  | .exp2 o => Enc.words (o.enc 0x53)
  | .exp2s o => Enc.words (o.enc 0x54)
  | .log2 o => Enc.words (o.enc 0x55)
  | .fsin o => Enc.words (o.enc 0x56)
  | .fcos o => Enc.words (o.enc 0x57)
  | .ftanh o => Enc.words (o.enc 0x58)
  | .cvt o => Enc.words (o.enc)
  | .qpack o => Enc.words (o.enc 0x5A)
  | .qunp o => Enc.words (o.enc 0x5B)
  | .gnorm o => Enc.words (o.enc)
  | .shfl o => Enc.words (o.enc 0x60)
  | .scat o => Enc.words (o.enc 0x61)
  | .lred o => Enc.words (o.enc 0x62)
  | .lscan o => Enc.words (o.enc 0x63)
  | .bcast o => Enc.words (o.enc 0x64)
  | .ld o => Enc.words (o.enc 0x70)
  | .st o => Enc.words (o.enc 0x71)
  | .lr o => Enc.words (o.enc 0x72)
  | .sc o => Enc.words (o.enc)
  | .fence o => Enc.words (o.enc)
  | .tagl o => Enc.words (o.toTagOp.enc 0x75 o.d)
  | .tags o => Enc.words (o.toTagOp.enc 0x76 o.way.field)
  | .tagi o => Enc.words (o.enc 0x77 0)
  | .presSet o => Enc.words (o.enc true)
  | .presClr o => Enc.words (o.enc false)
  | .strm o => Enc.words (o.enc)
  | .strmx id => Enc.words (({ FWord.of 0x7A with func := 0#10 ++ id }, none))
  | .atom o => Enc.words (o.enc)
  | .gmax o => Enc.words (o.toGateOp.enc 0x81 o.ve.field o.vs.field o.rc)
  | .gnext o => Enc.words (o.toGateOp.enc 0x82 o.d o.s false)
  | .route o => Enc.words (o.enc)
  | .cpa o => Enc.words (o.enc)
  | .cpwait o => Enc.words (o.enc)
  | .bcopy o => Enc.words (o.enc)
  | .gather o => Enc.words (o.enc 0x93)
  | .tlrd o => Enc.words (o.enc)
  | .coll o => Enc.words (o.enc 0x95)
  | .chsnd o => Enc.words (o.enc 0x96)
  | .chrcv o => Enc.words (o.enc 0x97)
  | .mldw o => Enc.words (o.enc)
  | .mswp pair => Enc.words (({ FWord.of 0xA1 with func := matFunc pair false false false 0 false }, none))
  | .mstr o => Enc.words (o.enc)
  | .mdrnRegisters o => Enc.words (o.enc)
  | .mdrnScratchpad o => Enc.words (o.enc)
  | .macq o => Enc.words (o.enc)
  | .mrel o => Enc.words (o.enc)
  | .desc o => Enc.words (o.enc)
  | .ascd o => Enc.words (o.enc)
  | .pmovToVector o => Enc.words (o.encToVector)
  | .pmovToPath o => Enc.words (o.encToPath)
  | .csrrTsw o => Enc.words (({ FWord.of 0xC0 with guard := o.guard.field, dst := o.d }, none))
  | .csrr o => Enc.words (({ FWord.of 0xC0 with dst := o.sd, func := 0#7 ++ o.csr.code }, none))
  | .csrwTsw o => Enc.words (({ FWord.of 0xC1 with guard := o.guard.field, a := o.a.field, rm := rms o.ra false false }, none))
  | .csrwSlk o => Enc.words (o.enc 0xC1 1)
  | .csrwOvd o => Enc.words (o.enc 0xC1 2)
  | .csrwTstat o => Enc.words (o.enc 0xC1 3)
  | .rdclk sd => Enc.words (({ FWord.of 0xC2 with dst := sd }, none))
  | .tmark o => Enc.words (o.enc 0xC3 0)
  | .slkset o => Enc.words (o.enc 0xC4 0)
  | .slksetOne o => Enc.words (o.enc)
  | .pNop b => [pEnc PSlot.nopSlot b]
  | .pMov a b => [pEnc ⟨.mov, a⟩ b]
  | .pIadd a b => [pEnc ⟨.iadd, a⟩ b]
  | .pIsub a b => [pEnc ⟨.isub, a⟩ b]
  | .pAnd a b => [pEnc ⟨.and, a⟩ b]
  | .pOr a b => [pEnc ⟨.or, a⟩ b]
  | .pXor a b => [pEnc ⟨.xor, a⟩ b]
  | .pShl a b => [pEnc ⟨.shl, a⟩ b]
  | .pShr a b => [pEnc ⟨.shr, a⟩ b]
  | .pSar a b => [pEnc ⟨.sar, a⟩ b]
  | .pImin a b => [pEnc ⟨.imin, a⟩ b]
  | .pImax a b => [pEnc ⟨.imax, a⟩ b]
  | .pFadd a b => [pEnc ⟨.fadd, a⟩ b]
  | .pFsub a b => [pEnc ⟨.fsub, a⟩ b]
  | .pFmul a b => [pEnc ⟨.fmul, a⟩ b]
  | .pFmin a b => [pEnc ⟨.fmin, a⟩ b]
  | .pFmax a b => [pEnc ⟨.fmax, a⟩ b]
  | .pNot a b => [pEnc ⟨.not, a⟩ b]
  | .pIneg a b => [pEnc ⟨.ineg, a⟩ b]
  | .pIabs a b => [pEnc ⟨.iabs, a⟩ b]
  | .illegalWord => []
  | .instructionFetch _ => []
  | .frameRendezvousComplete _ _ => []
  | .appliedContextForm _ _ => []
  | .contextLend _ => []
  | .contextUnlend _ => []
  | .binTimerExpiry _ _ => []
  | .binFormOnSlot _ => []
  | .binPlacementResume _ => []
  | .fairnessTimer _ => []
  | .quarterIssue _ _ => []
  | .scoreboardWake _ => []
  | .loadReply _ _ => []
  | .storeAck _ => []
  | .atomicReply _ => []
  | .scOutcome _ => []
  | .longLatencyResult _ => []
  | .sldComplete _ => []
  | .setQueueComplete _ => []
  | .gnextComplete _ => []
  | .routeComplete _ => []
  | .tlrdValue _ => []
  | .launchAccepted _ => []
  | .translationComplete _ => []
  | .faultServiceComplete _ => []
  | .faultUnservable _ _ => []
  | .heldTrapRaise _ => []
  | .pageInvalidation _ _ => []
  | .cpaCopyComplete _ => []
  | .cpwaitComplete _ => []
  | .waitComplete _ => []
  | .waitTimeout _ => []
  | .waitWordReread _ => []
  | .streamLineIssue _ _ => []
  | .streamLineFilled _ => []
  | .bcopyComplete _ => []
  | .gatherRowComplete _ _ => []
  | .gatherComplete _ => []
  | .matrixPassGrant _ => []
  | .matrixPassComplete _ => []
  | .mldwComplete _ => []
  | .mswpTakesEffect _ => []
  | .mdrnComplete _ => []
  | .mrelRowsFreed _ => []
  | .descThreadComplete _ _ => []
  | .descLevel _ => []
  | .descComplete _ => []
  | .ascdComplete _ => []
  | .chsndSlotFree _ => []
  | .chsndSlotFilled _ => []
  | .chrcvDataReady _ => []
  | .chrcvCopyComplete _ => []
  | .channelDeadTrap _ => []
  | .collDescriptorRead _ => []
  | .collStep _ _ => []
  | .collPeerTimeout _ => []
  | .collComplete _ => []
  | .xbarGrant _ _ => []
  | .slackEpoch _ => []
  | .overdueTrap _ => []
  | .mireProbeLaunch _ _ => []
  | .mireProbeHop _ => []
  | .recoveryStep _ => []
  | .flitReceived _ => []
  | .peerAccessServe => []
  | .negativeResponse _ => []
  | .remoteTimeout _ => []
  | .lrReservationExpiry _ _ => []
  | .launchDoorbell _ _ => []
  | .launchRecordCheck _ => []
  | .dependenceRead _ => []
  | .dependencesMet _ => []
  | .bandPlacement _ => []
  | .teamMigration _ _ => []
  | .preemptionTimer _ => []
  | .preemptionStop _ => []
  | .loadDrainTimeout _ => []
  | .teamRestore _ _ => []
  | .launchComplete _ => []
  | .teamFree _ => []
  | .launchKill _ => []
  | .trapEntry _ => []
  | .dieHold _ => []
  | .dieArm _ => []
  | .dieDisarm _ => []
  | .preciseStop _ => []
  | .dieResume _ => []
  | .captureEnable _ => []
  | .captureDisable _ => []
  | .checkpointIntervalStart _ => []
  | .intervalEarlyEnd _ => []
  | .samplingEnable _ => []
  | .garnetTag _ => []
  | .garnetRecord _ => []
  | .setTraceEnable _ _ => []
  | .traceSync _ => []
  | .traceLoss _ => []
  | .tracePageDrop _ => []
  | .traceReadPageMove _ _ => []
  | .deviceReset => []
  | .firmwareVerify => []
  | .mgmtKernelStart _ => []
  | .reducedServiceBegin => []
  | .stackCalibration => []
  | .fullServiceBegin => []
  | .recoveryDoorbell _ => []
  | .firmwareNvmeWrite => []
  | .getVersion => []
  | .getCapabilities => []
  | .negotiateAlgorithms _ => []
  | .getDigests => []
  | .getCertificate => []
  | .challenge _ => []
  | .getMeasurements => []
  | .spdmUnsupported _ => []
  | .dstatRead => []
  | .columnLoss _ => []
  | .stripeRebuild _ => []
  | .busWireRemap _ _ _ => []
  | .busCalibration _ _ _ => []
  | .remapTableReload _ => []
  | .patrolScrub _ => []
  | .parityError _ => []
  | .telemetry _ => []
  | .clockStep _ _ => []
  | .stackShutdown _ => []
  | .mgmtConfigWrite _ => []
  | .nymnexPortDown _ => []
  | .nymnexPortRestored _ => []
  | .hostWriteIntoDieMemory _ _ => []
  | .debuggerRegisterChange _ _ => []

/-- The bytes of words, little-endian (R2). -/
def bytesOfWord (w : Word) : List Byte :=
  [w.extractLsb' 0 8, w.extractLsb' 8 8, w.extractLsb' 16 8, w.extractLsb' 24 8,
   w.extractLsb' 32 8, w.extractLsb' 40 8, w.extractLsb' 48 8, w.extractLsb' 56 8]

/-- The bytes of an instruction as they lie in memory. -/
def encodeBytes (i : Instr) : List Byte := (encode i).flatMap bytesOfWord

end Sys2Proof
end

