-- ==== Sys2Proof/Machine/Fetch.lean ====
section
/-!
DEFINITION. Instruction fetch (R332, R333) and the issue choice (R18, R44, R268).
-/

namespace Sys2Proof.Machine

/-- What a fetch of one word gives. -/
inductive FetchOut where
  | word (w : Word)
  | absent (p : PageRef)
  | fault (code : Nat)
  | peer (id : Nat)
deriving DecidableEq, Repr

/-- A word in a core's instruction cache. -/
def Core.codeWord (c : Core) (launch va : Nat) : Option Word :=
  (c.icache.find? fun x => x.launch = launch && x.va = va).map (·.word)

/-- Put a word into a core's instruction cache of 64 KiB, dropping the oldest word past its size (R11). -/
def Core.fillCode (c : Core) (x : CodeWord) : Core :=
  { c with icache := (x :: c.icache.filter fun y => !(y.launch = x.launch && y.va = x.va)).take 8192 }

/-- Fetch one word with the X permission (R332). A word that was stored to since the launch fetched it comes old or new, as R333
leaves open; a word in a peer's memory is to be asked of that device (R221). -/
def State.fetchWord (s : State) (core launch root va : Nat) : FetchOut × State :=
  if va ≥ 2 ^ 56 then (.fault 0x05, s)
  else
    match s.xlate (some core) (dieOf core) root va .fetch with
    | (.prot, s) => (.fault 0x05, s)
    | (.bad, s) => (.fault 0x04, s)
    | (.absent, s) => (.absent ⟨root, pageOf false va⟩, s)
    | (.ok leaf big, s) =>
      match leafKey leaf big va (some (dieOf core)) with
      | none => (.peer (leafPeer leaf), s)
      | some k =>
        if s.poisonIn k 8 then (.fault 0x10, s)
        else
          let new : Word := BitVec.ofNat 64 (memNat s.mem k 8)
          match (s.core core).codeWord launch va with
          | none => (.word new, s.modCore core (·.fillCode ⟨launch, va, new⟩))
          | some old =>
            if old = new then (.word new, s)
            else
              let (_, s') := s.free
              if Config.freeBool s.fresh then (.word old, s')
              else (.word new, s'.modCore core (·.fillCode ⟨launch, va, new⟩))

/-- What a fetch of an instruction gives: its words, or why there are none; from a peer, the address to ask for and the first
word where that has come. -/
inductive FetchIn where
  | words (f : Fetched)
  | absent (p : PageRef)
  | fault (code : Nat)
  | peer (id va : Nat) (first : Option Word)
deriving DecidableEq, Repr

/-- A fetch that ends in a trap is uniform over the path's held threads (R332). Length 0 marks a fetch fault,
whose resume and skip act as retry (R277). -/
def State.fetchTrap (s : State) (r : PathRef) (a : Act) (code : Nat) : State :=
  s.trap r { code := code, pc := a.pc, uni := true, tids := a.lanes, entry := none, op := none, len := 0 }

/-- Fetch what follows an instruction's first word: its X word, if it has one (R332). -/
def State.fetchRest (s : State) (core launch root pc : Nat) (w : Word) : FetchIn × State :=
  if needsX w then
    match s.fetchWord core launch root (pc + 8) with
    | (.absent p, s) => (.absent p, s)
    | (.fault c, s) => (.fault c, s)
    | (.peer id, s) => (.peer id (pc + 8) (some w), s)
    | (.word x, s) => (.words ⟨pc, w, some x⟩, s)
  else (.words ⟨pc, w, none⟩, s)

/-- Fetch an F word and its X word together, or a P word (R332). -/
def State.fetchAt (s : State) (core launch root pc : Nat) : FetchIn × State :=
  match s.fetchWord core launch root pc with
  | (.absent p, s) => (.absent p, s)
  | (.fault c, s) => (.fault c, s)
  | (.peer id, s) => (.peer id pc none, s)
  | (.word w, s) => s.fetchRest core launch root pc w

/-- Ask a peer device for a word of code: the path waits for it (R221, R332). -/
def State.askCode (s : State) (r : PathRef) (a : Act) (peer va : Nat) (first : Option Word) : State :=
  match s.who? r.ctx a.uid with
  | none => s
  | some w =>
    let i : Item := { tid := noTid, addr := va, data := 0, data2 := 0, dst := noDst }
    let acc : Access :=
      { kind := .word, pc := a.pc, len := 1, uid := a.uid, shared := false, strong := false, scope := .sys, ov := false,
        cls := 0, items := [i], once := true }
    let op := s.nextId
    (s.postPeer w acc i peer (.code first) [] 0 8).modAct r fun a => { a with status := .fetching op }

/-- What a fetch comes to for the path: its words are there, or it waits for a page or a peer, or it traps. -/
def State.fetched (s : State) (r : PathRef) (a : Act) (f : FetchIn) : State :=
  match f with
  | .words f => s.modAct r fun a => { a with ibuf := some f, status := .ready }
  | .absent p => s.modAct r fun a => { a with status := .fetch p }
  | .fault code => s.fetchTrap r a code
  | .peer id va first => s.askCode r a id va first

/-- The instruction that fetched words hold; words that are none are the step ILLEGAL_WORD, one word long: what follows
it is the next word, an X word if one followed (R331). -/
def Fetched.instr (f : Fetched) : Instr × Nat :=
  match decodeWords f.word f.next with
  | .ok (i, n) => (i, n)
  | .error _ => (.illegalWord, 1)

/-- The launch of a context, by name. -/
def State.launchId (s : State) (c : Ctx) : Nat := ((s.teams.get? c.team).map (·.launch)).getD 0

/-- The words of a path's next instruction: those that INSTRUCTION_FETCH has brought, or a fetch now (R332, R333). -/
def State.wordsFor (s : State) (c : Ctx) (a : Act) (root : Nat) : FetchIn × State :=
  match a.ibuf with
  | some f => if f.addr = a.pc then (.words f, s) else s.fetchAt c.core (s.launchId c) root a.pc
  | none => s.fetchAt c.core (s.launchId c) root a.pc

/-- The launch of a context. -/
def State.launchOf (s : State) (c : Ctx) : Option Launch := (s.teams.get? c.team).bind fun t => s.launches.get? t.launch

/-- Whether a granted pass of a path stalls on an absent line, which parks the path (R136, R156). -/
def State.passStalled (s : State) (uid : Nat) : Bool :=
  s.pend.any fun p => p.2.uid = uid && (match p.2.work with
    | .mstr _ _ _ _ _ _ _ granted _ => granted && p.2.srcs.any fun q => (linesOf q.1 q.2).any (!s.linePresent ·)
    | _ => false)

/-- The quarter-instructions of a path: one for each 16 lanes that its lane map spans, each with the cycles for which it occupies
its quarter: under `.map` as many as its threads have home contexts, else one (R18, R101). -/
def Act.quarters (a : Act) (w : Nat) : List Nat :=
  let hold (l : List Nat) : Nat :=
    if a.foot.isSome then 1 else max 1 ((l.map fun t => t / max 1 w).eraseDups).length
  (List.range (max 1 ((a.lanes.length + 15) / 16))).map fun i => hold ((a.lanes.drop (16 * i)).take 16)

/-- The quarters of a core that can take a quarter-instruction this cycle. -/
def State.freeQuarters (s : State) (core : Nat) : List Nat :=
  (List.range 4).filter fun q => decide ((s.core core).quarters.getD q 0 ≤ s.cycOf core)

/-- A path's next instruction takes the lowest free quarters of its core. -/
def State.takeQuarters (s : State) (core : Nat) (a : Act) (w : Nat) : State :=
  let l := (s.freeQuarters core).zip (a.quarters w)
  s.modCore core fun k => { k with quarters := l.foldl (fun m p => m.set p.1 (s.cycOf core + p.2)) k.quarters }

/-- Whether slot 1 of a restored context waits for an instruction of slot 0, which goes first (R272): for one that slot 0 can issue
of itself. -/
def Ctx.firstFrom0 (c : Ctx) (a : Act) : Bool :=
  c.restored && (c.p1.head?.any (·.uid = a.uid)) && c.p0.head?.any fun b => match b.status with
    | .ready | .source _ | .again _ | .fetch _ | .fetching _ | .translating _ => true
    | _ => false

/-- Whether a path could issue but for its quarters: it is resident on a die that runs, and its instruction does not wait. -/
def State.canRun (s : State) (c : Ctx) (a : Act) : Bool :=
  decide (c.phase = .resident) && !(s.die (dieOf c.core)).held && !(s.die (dieOf c.core)).off
  && (s.teams.get? c.team).all (·.stopAt.isNone)
  && (match s.launchOf c with
      | some l => l.killed.isNone
      | none => false)
  && !s.passStalled a.uid && !c.firstFrom0 a
  && (match a.status with
      | .ready => true
      | .again _ => true
      | .source rs => rs.all fun r => s.fullAt c.team c.core a r
      | _ => false)

/-- Whether a path may issue now (R18). -/
def State.canIssue (s : State) (c : Ctx) (a : Act) : Bool :=
  s.canRun c a && decide ((a.quarters (s.width c.team)).length ≤ (s.freeQuarters c.core).length)

/-- A candidate of the issue choice: aged (R44), priority, when it became ready, its path. -/
structure Cand where
  aged : Bool
  prio : Nat
  since : Nat
  ref : PathRef
deriving DecidableEq, Repr

/-- Whether a candidate is taken before another (R268). -/
def Cand.before (a b : Cand) : Bool :=
  if a.aged != b.aged then a.aged
  else if a.prio != b.prio then a.prio > b.prio
  else a.since < b.since

/-- The ready pairs of a core, or of all, of which a test holds. -/
def State.pairs (s : State) (core : Option Nat) (p : Ctx → Act → Bool) : List Cand :=
  s.ctxs.flatMap fun q =>
    let c := q.2
    if core.all fun k => decide (c.core = k) then
      [0, 1].filterMap fun slot =>
        match (c.stack slot).head? with
        | none => none
        | some a =>
          if a.status = .ready && p c a then
            some ⟨decide (s.cycOf c.core - a.since ≥ 448), (((s.launchOf c).bind (·.record)).map (·.prio)).getD 0, a.since,
              ⟨q.1, slot⟩⟩
          else none
    else []

/-- The ready pairs of a core, or of all, that can issue now, on a given quarter if one is named (R18). -/
def State.cands (s : State) (core quarter : Option Nat) : List Cand :=
  s.pairs core fun c a => s.canIssue c a && quarter.all fun q => (s.freeQuarters c.core).contains q

/-- The first of the best candidates. -/
def best (l : List Cand) : Option PathRef :=
  (l.foldl (fun (b : Option Cand) c =>
    match b with
    | none => some c
    | some b => if c.before b then some c else some b) none).map (·.ref)

/-! ### The capture logs -/

/-- Whether a turn is a debugger's look into the past, which re-execution does not repeat. -/
def Turn.looks (t : Turn) : Bool :=
  match t with
  | .event _ (.preciseStop _) => true
  | _ => false

/-- Write a turn to the capture logs of the dies that capture, those of a hold among them; the snapshot of an interval that has
just begun is taken first (R282 to R284). -/
def State.log (s : State) (t : Turn) : State :=
  if s.replaying || t.looks then s
  else
    let keep (c : Capture) : Capture :=
      { c with snap := if c.taken then c.snap else s.snap, taken := true, turns := c.turns ++ [t] }
    { s with dies := s.dies.map fun (p : Nat × Die) =>
        if p.2.capturing then (p.1, { p.2 with capture := modHead keep p.2.capture }) else p }

end Sys2Proof.Machine
end

