-- ==== Sys2Proof/Machine/Channels.lean ====
section
/-!
DEFINITION. Channels: CHSND, CHRCV and the steps that fill, take and free their slots (R214 to R218).
-/

namespace Sys2Proof.Machine

/-- Whether a team of a launch was placed and all its threads are done (R217). -/
def State.teamDone (s : State) (launch id : Nat) : Bool :=
  s.teams.any fun p => p.2.launch = launch && p.2.id = id &&
    (p.2.freed || !(s.threads.any fun q => q.1 / 2048 = p.1 && !q.2.done))

/-- Whether every producer team of a channel is done. -/
def State.producersDone (s : State) (launch : Nat) (c : Channel) : Bool :=
  (List.range (c.last + 1 - c.first)).all fun i => s.teamDone launch (c.first + i)

/-- A channel of the path's launch. -/
def Env.chan (e : Env) (s : State) (ch : Nat) : Option Channel := (s.launches.get? e.team.launch).bind (·.chans.get? ch)

/-- Change a channel of a launch. -/
def State.modChan (s : State) (launch ch : Nat) (f : Channel → Channel) : State :=
  s.modLaunch launch fun l => { l with chans := l.chans.modify ch f }

/-- The scratchpad of a context's own allocation at an offset, as a piece of memory. -/
def Env.ownSeg (e : Env) (off n : Nat) : List (Nat × Nat) := [(spadKey e.ctx.core (e.team.spadBase + off), n)]

/-- Where the slots of a channel lie: in the die memory of its consumer's die, at an address that the manual does not state. -/
def State.chanKey (s : State) (launch cons : Nat) : Nat × State :=
  let core := ((s.teams.vals.find? fun t => t.launch = launch && t.id = cons).bind (·.cores.head?)).getD 0
  let (x, s) := s.free
  (dieOf core % 4 * 2 ^ 40 + x.toNat % 2 ^ 32 * 64, s)

/-- Post a channel operation that writes or reads n bytes of a slot, and its packets. -/
def Env.postChan (e : Env) (s : State) (o : Op) (cons n : Nat) (write : Bool) : Nat × State :=
  let (key, s) := s.chanKey e.team.launch cons
  let seg := [(key, n)]
  let o : Op := { o with slack := slackOf e.ctx.slk o.cls, reqs := sectorsFar seg, sent := s.tick }
  let (id, s) := e.post s o
  (id, s.sendBlocks id o.slack (if write then [] else seg) (if write then seg else []))

/-- CHSND (R216, R217, R218). -/
def execChsnd (o : ChanOp) (s : State) : Host.Outcome State Fault Refusal :=
  issuePath s { u := o.base.need o.ra ++ o.count.need o.rb } fun e s =>
    let off := (o.base.read e + o.off.bytes 16).toNat
    let n := (o.count.read e).toNat
    match e.chan s o.ch.toNat with
    | none => e.trapAll s 0x0C
    | some c =>
      if e.team.id < c.first || c.last < e.team.id || n = 0 || c.size < n then e.trapAll s 0x0C
      else if off % 16 ≠ 0 then e.trap s 0x03 e.held false
      else if off + n > e.team.spadBytes then e.trapAll s 0x05
      else if !c.space then
        if s.teamDone e.team.launch c.cons then e.trapAll s 0x0C else e.park s (.again (.slot o.ch.toNat e.len))
      else e.release s fun s =>
        let seg := e.ownSeg off n
        if (linesOf (spadKey e.ctx.core (e.team.spadBase + off)) n).any (!s.linePresent ·) then e.parkAbsent s
        else if s.requests e.ctx.core + (n + 63) / 64 > 1024 then e.park s (.again .requests)
        else
          let bs := s.readSegs seg
          let (id, s) := e.postChan s { e.newOp s (.chsnd o.ch.toNat) with ov := o.ov, cls := o.sl } c.cons n true
          let slot : ChanSlot := { op := id, ready := false, taken := false, bytes := bs, team := e.team.id }
          e.retire (s.modChan e.team.launch o.ch.toNat fun c => { c with fifo := c.fifo ++ [slot] })

/-- The channel operation that a name stands for: its launch and channel. -/
def State.chanOp (s : State) (id : Nat) : Option (Op × Nat × Nat) :=
  match s.pend.get? id with
  | none => none
  | some o =>
    let launch := ((s.ctxs.get? o.ctx).bind fun c => s.teams.get? c.team).map (·.launch)
    match o.work, launch with
    | .chsnd ch, some l => if o.arrived? then some (o, l, ch) else none
    | .chrcv ch _ _, some l => if o.arrived? then some (o, l, ch) else none
    | _, _ => none

/-- A slot becomes the newest of the filled ones (R214). -/
def fillSlot (l : List ChanSlot) (op : Nat) : List ChanSlot :=
  (l.filter (·.ready)) ++ ((l.filter fun x => !x.ready && x.op = op).map fun x => { x with ready := true })
    ++ l.filter fun x => !x.ready && x.op ≠ op

/-- CHSND_SLOT_FILLED (R216): the write completes and the slot holds data. -/
def execChsndSlotFilled (op : Nat) (s : State) : Host.Outcome State Fault Refusal :=
  match s.chanOp op with
  | none => .next s
  | some (o, l, ch) =>
    match o.work with
    | .chsnd _ => .next ((s.modChan l ch fun c => { c with fifo := fillSlot c.fifo op }).finishOp op)
    | _ => .next s

/-- CHRCV (R216, R217). -/
def execChrcv (o : ChanOp) (s : State) : Host.Outcome State Fault Refusal :=
  issuePath s { u := o.base.need o.ra, du := [o.sd.toNat] } fun e s =>
    let off := (o.base.read e + o.off.bytes 16).toNat
    match e.chan s o.ch.toNat with
    | none => e.trapAll s 0x0C
    | some c =>
      if e.team.id ≠ c.cons then e.trapAll s 0x0C
      else if off % 16 ≠ 0 then e.trap s 0x03 e.held false
      else if off ≥ e.team.spadBytes then e.trapAll s 0x05
      else
        match c.fifo.find? fun x => !x.taken with
        | none => if s.producersDone e.team.launch c then e.trapAll s 0x0C else e.park s (.again (.data o.ch.toNat e.len))
        | some x =>
          if !x.ready then e.park s (.again (.data o.ch.toNat e.len))
          else if off + x.bytes.length > e.team.spadBytes then e.trapAll s 0x05
          else if s.requests e.ctx.core + (x.bytes.length + 63) / 64 > 1024 then e.park s (.again .requests)
          else
            let n := x.bytes.length
            let lines := linesOf (spadKey e.ctx.core (e.team.spadBase + off)) n
            let w : Word := BitVec.ofNat 32 x.team ++ BitVec.ofNat 32 n
            let op : Op := { e.newOp s (.chrcv o.ch.toNat o.sd.toNat (spadKey e.ctx.core (e.team.spadBase + off))) with
              res := [.u o.sd.toNat w], ov := o.ov, cls := o.sl, fills := lines }
            let (id, s) := e.postChan s op c.cons n false
            let s := s.modChan e.team.launch o.ch.toNat fun c => { c with fifo := c.fifo.map fun y =>
              if y.op = x.op && !y.taken then { y with taken := true, op := id } else y }
            e.retire (forEach lines State.clearLine s)

/-- CHRCV_COPY_COMPLETE (R216): the bytes are written, sd is full, the slot frees. -/
def execChrcvCopyComplete (op : Nat) (s : State) : Host.Outcome State Fault Refusal :=
  match s.chanOp op with
  | none => .next s
  | some (o, l, ch) =>
    match o.work with
    | .chrcv _ _ dst =>
      let bs := (((s.launches.get? l).bind (·.chans.get? ch)).bind fun c => c.fifo.find? (·.op = op)).map (·.bytes)
      let s := s.put dst (bs.getD [])
      .next ((s.modChan l ch fun c => { c with fifo := c.fifo.filter (·.op ≠ op) }).finishOp op)
    | _ => .next s

/-! ### Paths that wait at issue -/

/-- Let a path that waits at issue issue next: it is the scheduler's choice (R268). -/
def State.wake (s : State) (r : PathRef) : State :=
  { s.modAct r (fun a => { a with status := .ready, since := s.cycAt r.ctx }) with agenda := .issue 0 r :: s.agenda }

/-- The path that waits at issue for a channel, and the channel; `slot` says what it waits for. -/
def State.chanWait (s : State) (r : PathRef) : Option (Env × Channel × Bool) :=
  match s.ctxs.get? r.ctx with
  | none => none
  | some c =>
    match (c.stack r.slot).head? with
    | none => none
    | some a =>
      let go (ch len : Nat) (slot : Bool) : Option (Env × Channel × Bool) :=
        if s.canIssue c a then
          match s.envAt ⟨r, a.pc, len⟩ with
          | some e => (e.chan s ch).map fun x => (e, x, slot)
          | none => none
        else none
      match a.status with
      | .again (.slot ch len) => go ch len true
      | .again (.data ch len) => go ch len false
      | _ => none

/-- CHSND_SLOT_FREE (R216): a slot is free, and a waiting CHSND issues. -/
def execChsndSlotFree (r : PathRef) (s : State) : Host.Outcome State Fault Refusal :=
  match s.chanWait r with
  | some (_, c, true) => if c.space then .next (s.wake r) else .next s
  | _ => .next s

/-- CHRCV_DATA_READY (R216). -/
def execChrcvDataReady (r : PathRef) (s : State) : Host.Outcome State Fault Refusal :=
  match s.chanWait r with
  | some (_, c, false) => if (c.fifo.find? fun x => !x.taken).any (·.ready) then .next (s.wake r) else .next s
  | _ => .next s

/-- CHANNEL_DEAD_TRAP (R217): what a waiting path waits for can no longer come. -/
def execChannelDeadTrap (r : PathRef) (s : State) : Host.Outcome State Fault Refusal :=
  match s.chanWait r with
  | some (e, c, true) => if !c.space && s.teamDone e.team.launch c.cons then .next (e.trapAll s 0x0C) else .next s
  | some (e, c, false) =>
    if (c.fifo.find? fun x => !x.taken).isNone && s.producersDone e.team.launch c then .next (e.trapAll s 0x0C)
    else .next s
  | none => .next s

end Sys2Proof.Machine
end

