-- ==== Sys2Proof/Machine/Engines.lean ====
section
/-!
DEFINITION. What the engines share (R163, R174, R179, R191, R192, R203, R309), the block copy, and streams (R158 to
R160, R344).
-/

namespace Sys2Proof.Machine

/-! ### What the engines share -/

/-- The path that an operation belongs to. -/
def State.opWho (s : State) (o : Op) : Option Who := s.who? o.ctx o.uid

/-- Hold a trap of an engine operation for its issuing path, as a uniform cause (R179). -/
def State.failEngine (s : State) (id code : Nat) : State :=
  match s.pend.get? id with
  | none => s
  | some o =>
    let s := s.modOp id fun o => { o with failed := some code, faults := [] }
    s.modCtx o.ctx (·.hold o.uid { code := code, pc := o.pc, uni := true, tids := [], entry := none, op := some id, len := 0 })

/-- A range for an engine of a die (R173, R174): an SC page is a protection outcome (R191). -/
def State.engineReach (s : State) (w : Who) (va n : Nat) (need : Need) : Reach × State :=
  let (r, s) := s.reach none (dieOf w.core) w.root va n need
  (if r.isSc then .prot else r, s)

/-- A range of a shared or a global space for an engine. -/
def State.rangeReach (s : State) (w : Who) (shared : Bool) (va n : Nat) (need : Need) : Reach × State :=
  if shared then
    match sharedKey w.core w.t va n with
    | some k => (.go (.mem [(k, n)] false false), s)
    | none => (.prot, s)
  else s.engineReach w va n need

/-- What an operation comes to for the pieces that it needs. -/
inductive Ready where
  | fail (code : Nat)
  | wait (ps : List PageRef)
  | ok
deriving DecidableEq, Repr

/-- Protection, then a malformed entry, then absent pages (R175). -/
def readyOf (l : List Reach) : Ready :=
  if l.any (· = .prot) then .fail 0x05
  else if l.any (· = .bad) then .fail 0x04
  else
    match l.flatMap Reach.pages with
    | [] => .ok
    | ps => .wait ps

/-- The slack that an operation has left (R203). -/
def State.slackLeft (s : State) (o : Op) : Nat := o.slackNow (s.cycOf o.core)

/-- The bytes that an engine reads for an operation, with packets of their own (R203); those of a peer device are asked for and come
later (R221). `step` tells apart reads of the same bytes. -/
def State.engineRead (s : State) (op : Nat) (o : Op) (step : Nat) (r : Reach) (va n : Nat) : Option (List Byte) × State :=
  match r with
  | .go (.peer p _) => s.askRead op step p (s.slackLeft o) va n
  | _ => (some (s.readSegs r.segs), s.sendBlocks op (s.slackLeft o) r.segs [])

/-- An engine's write. -/
def State.engineWrite (s : State) (op : Nat) (o : Op) (step : Nat) (r : Reach) (va : Nat) (bs : List Byte) : State :=
  match r with
  | .go (.peer p _) => s.askWrite op step p (s.slackLeft o) va bs
  | _ => ((State.putSegs r.segs bs s).unpoison r.segs).sendBlocks op (s.slackLeft o) [] r.segs

/-- What reading a descriptor comes to: trapped, awaited (with no page: from a peer device), or read. -/
inductive DescOut (α : Type) where
  | fail (code : Nat)
  | wait (ps : List PageRef)
  | ok (d : α)

/-- An engine reads the descriptor of 64 bytes of an operation, or of the instruction at issue, which has none yet; PROT where its
form is broken. -/
def State.engineDesc {α : Type} (s : State) (w : Who) (op : Option (Nat × Op)) (addr : Nat) (form : List Byte → Option α) :
    DescOut α × State :=
  let (r, s) := s.engineReach w addr 64 .read
  match readyOf [r] with
  | .fail c => (.fail c, s)
  | .wait ps => (.wait ps.eraseDups, s)
  | .ok =>
    if s.segsPoisoned r.segs then (.fail 0x10, s)
    else
      let (bs, s) := match op with
        | some (id, o) => s.engineRead id o 0 r addr 64
        | none => (if r.isPeer then none else some (s.readSegs r.segs), s)
      match bs with
      | none => (.wait [], s)
      | some bs =>
        match form bs with
        | some d => (.ok d, s)
        | none => (.fail 0x05, s)

/-- An operation whose work is done completes when peers have acknowledged its writes. -/
def State.closeOp (s : State) (op : Nat) : State :=
  if s.asking op then s else (s.dropAsks op).finishOp op

/-- An operation's work is done. -/
def State.workDone (s : State) (op : Nat) : State := (s.usedAsks op).modOp op fun o => { o with finished := true }

/-- Number an operation of the instruction at issue on its timeline, post it, send its packets. -/
def Env.postEngine (e : Env) (s : State) (tl : Nat) (o : Op) (segs : List (Nat × Nat)) : Nat × Nat × State :=
  let (k, s) := e.numbered s tl
  let o : Op := { o with tl := tl, num := k, slack := slackOf e.ctx.slk o.cls, sent := s.tick }
  let (id, s) := s.postOp e.who o segs
  (id, k, s)

/-- What every engine instruction waits for at issue: held accesses (R178), room in the operand log (R176) and among the
requests of its core (R181), the earlier stores of its context (R192). -/
def Env.engine (e : Env) (s : State) (go : State → State) : State :=
  match e.memHeld s with
  | some y => e.park s (.again y)
  | none =>
    if 16 ≤ s.logUsed e.ref.ctx then e.park s (.again .log)
    else if 1024 ≤ s.requests e.ctx.core then e.park s (.again .requests)
    else e.release s go

/-! ### BCOPY (R344) -/

/-- The two ranges of a copy. -/
def State.copyRanges (s : State) (w : Who) (src dst n : Nat) (dsp : Bool) : Reach × Reach × State :=
  let (a, s) := s.engineReach w src n .read
  let (b, s) := s.rangeReach w dsp dst n .write
  (a, b, s)

/-- BCOPY (R344). -/
def execBcopy (o : BcopyOp) (s : State) : Host.Outcome State Fault Refusal :=
  issuePath s { u := o.a.need o.ra ++ o.b.need o.rb ++ o.c.need o.rc, du := [o.sd.toNat] } fun e s =>
    let offd : Word := match o.offs with
      | some p => p.1.signExtend 64
      | none => 0
    let offs : Word := match o.offs with
      | some p => p.2.signExtend 64
      | none => 0
    let dst := (o.a.read e + offd).toNat
    let src := (o.b.read e + offs).toNat
    let n := (o.c.read e).toNat
    let op : Op := { e.newOp s (.bcopy src dst n o.dsp) with ov := o.ov, cls := o.sl }
    if n ≥ 2 ^ 32 then e.trapAll s 0x05
    else if 64 ≤ (s.opsOf e.ref.ctx fun x => x.tl = 0).length then e.park s (.again .engine)
    else e.engine s fun s =>
      if n = 0 then
        let (id, k, s) := e.postEngine s 0 op []
        e.retire ((e.setU s o.sd.toNat (BitVec.ofNat 64 k)).finishOp id)
      else
        let (a, b, s) := s.copyRanges e.who src dst n o.dsp
        match readyOf [a, b] with
        | .fail c => e.trapAll s c
        | r =>
          let lines := b.segs.flatMap fun p => linesOf p.1 p.2
          let ps : List PageRef := match r with
            | .wait ps => ps.eraseDups
            | _ => []
          let srcs := s.readable (some (dieOf e.ctx.core)) e.launch.root src n
          let (_, k, s) := e.postEngine s 0 { op with fills := lines, srcs := srcs, faults := ps, reqs := 1 } []
          e.retire (e.setU (forEach lines State.clearLine s) o.sd.toNat (BitVec.ofNat 64 k))

/-- Bytes of the destination that overlap the source are indeterminate (R344). -/
def State.blurOverlap (s : State) (src dst : List (Nat × Nat)) (bs : List Byte) : List Byte × State :=
  if dst.any fun d => src.any fun p => decide (p.1 < d.1 + d.2) && decide (d.1 < p.1 + p.2) then
    let keys := dst.flatMap fun d => (List.range d.2).map (d.1 + ·)
    let (fs, s) := s.freeBytes bs.length
    ((bs.zip (keys.zip fs)).map fun q =>
      if src.any fun p => decide (p.1 ≤ q.2.1) && decide (q.2.1 < p.1 + p.2) then q.2.2 else q.1, s)
  else (bs, s)

/-- BCOPY_COMPLETE (R344). -/
def execBcopyComplete (op : Nat) (s : State) : Host.Outcome State Fault Refusal :=
  match s.readyOp op (fun w => match w with
    | .bcopy _ _ _ _ => true
    | _ => false) with
  | none => .next s
  | some o =>
    match o.work, s.opWho o with
    | .bcopy src dst n dsp, some w =>
      if o.finished then .next (s.closeOp op) else
      let (a, b, s) := s.copyRanges w src dst n dsp
      match readyOf [a, b] with
      | .fail c => .next (s.failEngine op c)
      | .wait ps => .next (s.modOp op fun o => { o with faults := ps.eraseDups })
      | .ok =>
        if s.segsPoisoned a.segs || s.writePoisoned b.segs b.segs then .next (s.failEngine op 0x10)
        else
          match s.engineRead op o 0 a src n with
          | (none, s) => .next s
          | (some bs, s) =>
            let (bs, s) := if o.tainted then s.freeBytes n else s.blurOverlap a.segs b.segs bs
            .next (((s.modOp op fun o => { o with srcs := [] }).engineWrite op o 1 b dst bs).workDone op)
    | _, _ => .next s

/-- A range becomes indeterminate, as far as it can be reached (R179). -/
def State.freeRange (s : State) (op : Nat) (o : Op) (w : Who) (shared : Bool) (va n : Nat) : State :=
  let (r, s) := s.rangeReach w shared va n .write
  match r with
  | .go _ => let (bs, s) := s.freeBytes n; s.engineWrite op o 0 r va bs
  | _ => s

/-! ### Streams (R158 to R160) -/

/-- A stream of a descriptor (R158), if the descriptor keeps the table and its ring lies in the team's allocation. -/
def streamOf (bs : List Byte) (spad id pc uid slack sent : Nat) (ov : Bool) (cls : BitVec 2) : Option Stream :=
  let f (i n : Nat) : Nat := leNat ((bs.drop i).take n)
  let stride : Int := (BitVec.ofNat 32 (f 8 4)).toInt
  let eb := f 22 1
  if decide (f 0 8 < 2 ^ 56) && decide (1 ≤ f 12 4) && f 16 4 % 128 = 0 && decide (1 ≤ f 20 2) && decide (f 20 2 ≤ 256)
      && [4, 8, 16, 32, 64, 128].contains eb && f 0 8 % eb = 0 && stride % (eb : Int) = 0 && decide (f 23 1 < f 20 2)
      && f 24 8 = 0 && decide (f 16 4 + 128 * f 20 2 ≤ spad) then
    some { base := f 0 8, stride := stride, count := f 12 4, ring := f 16 4, rlines := f 20 2, ebytes := eb,
           look := f 23 1, next := 0, filled := [], landed := 0, id := id, slack := slack, ov := ov, cls := cls, pc := pc, uid := uid, sent := sent,
           tardy := false }
  else none

/-- The elements of a line, and how many lines a stream has (R159). -/
def Stream.perLine (st : Stream) : Nat := 128 / st.ebytes
def Stream.lines (st : Stream) : Nat := (st.count + st.perLine - 1) / st.perLine
/-- The ring line of a stream line, as an offset of its core's scratchpad. -/
def Stream.place (st : Stream) (t : Team) (n : Nat) : Nat := t.spadBase + st.ring + 128 * (n % st.rlines)
/-- The addresses of a line's elements. -/
def Stream.addrs (st : Stream) (n : Nat) : List Nat :=
  ((List.range st.perLine).filter fun q => decide (n * st.perLine + q < st.count)).map fun q =>
    (((st.base : Int) + ((n * st.perLine + q : Nat) : Int) * st.stride) % (2 ^ 64 : Int)).toNat

/-- End a stream: no further line is issued (R160). -/
def State.endStream (s : State) (ctx slot : Nat) : State :=
  match (s.ctxs.get? ctx).bind (·.streams.get? slot) with
  | none => s
  | some st =>
    let s := s.modCtx ctx fun c => { c with streams := c.streams.erase slot }
    if st.ov && st.tardy then s.partLate ctx st.uid st.pc st.sent st.cls none else s

/-- Start a stream in a slot; one that it holds ends first (R159). -/
def State.startStream (s : State) (ctx slot : Nat) (st : Stream) : State :=
  (s.endStream ctx slot).modCtx ctx fun c => { c with streams := c.streams.set slot st }

/-- What reading a stream's descriptor comes to: trapped, awaiting a page, to be asked of a peer, or a stream that starts. -/
inductive StrmOut where
  | fail (code : Nat)
  | wait (ps : List PageRef)
  | peer (id : Nat)
  | ok (st : Option Stream)
deriving DecidableEq, Repr

/-- The stream that the bytes of a descriptor start (R158). -/
def State.streamFrom (s : State) (w : Who) (a : Access) (bs : List Byte) : StrmOut × State :=
  let (sid, s) := s.name
  match streamOf bs w.t.spadBytes sid a.pc a.uid (slackOf w.slk a.cls) (if a.sent = 0 then s.tick else a.sent) a.ov a.cls with
  | some st => (.ok (some st), s)
  | none => (.fail 0x05, s)

def State.readStream (s : State) (w : Who) (a : Access) : StrmOut × State :=
  match a.items with
  | [] => (.ok none, s)
  | i :: _ =>
    let (r, s) := s.engineReach w i.addr 32 .read
    match readyOf [r], r with
    | .fail c, _ => (.fail c, s)
    | .wait ps, _ => (.wait ps, s)
    | .ok, .go (.peer p _) => (.peer p, s)
    | .ok, _ => if s.segsPoisoned r.segs then (.fail 0x10, s) else s.streamFrom w a (s.readSegs r.segs)

/-- STRM whose descriptor page has translated or been found absent. -/
def Env.proceedStrm (e : Env) (s : State) (a : Access) (id : Nat) : State :=
  match s.readStream e.who a with
  | (.fail c, s) => e.trapAll s c
  | (.wait ps, s) =>
    let (n, s) := s.name
    e.retire (s.addEntry e.ref.ctx ⟨n, a, ps.eraseDups, none⟩)
  | (.peer p, s) => e.retire (forEach a.items (fun s i => s.postPeer e.who a i p (.strm id) [] 0 32) s)
  | (.ok (some st), s) => e.retire (s.startStream e.ref.ctx id st)
  | (.ok none, s) => e.retire s

/-- STRM (R159). Its descriptor reflects the context's earlier stores. -/
def execStrm (o : StrmOp) (s : State) : Host.Outcome State Fault Refusal :=
  issuePath s { u := o.base.need o.ra } fun e s =>
    let a := e.acc (.strm o.id.toNat) false false .lg o.ov o.sl [onceItem (o.base.read e + o.off.bytes 16).toNat] true
    e.accessWith s a fun s =>
      if e.drained then e.proceedStrm s a o.id.toNat else e.park s (.again .drain)

/-- STRMX (R160). -/
def execStrmx (id : BitVec 2) (s : State) : Host.Outcome State Fault Refusal :=
  issuePath s {} fun e s => e.retire (s.endStream e.ref.ctx id.toNat)

/-- A logged STRM replays. -/
def State.replayStrm (s : State) (w : Who) (l : LogEntry) (id : Nat) : State :=
  let gone (s : State) : State := s.modCtx w.ctx fun c => c.dropItems l.id fun _ => true
  match s.readStream w l.acc with
  | (.fail c, s) => s.failItems w.ctx l c l.acc.items
  | (.wait ps, s) => s.awaitPages w.ctx l ps
  | (.peer p, s) => gone (forEach l.acc.items (fun s i => s.postPeer w l.acc i p (.strm id) [] 0 32) s)
  | (.ok (some st), s) => gone (s.startStream w.ctx id st)
  | (.ok none, s) => gone s

/-- Fills of a stream that are in flight. -/
def State.streamOps (s : State) (id : Nat) : List Nat :=
  s.pend.vals.filterMap fun o => match o.work with
    | .stream _ n i => if i = id then some n else none
    | _ => none

/-- Whether a stream may issue its next line (R159). -/
def State.streamGo (s : State) (st : Stream) : Bool :=
  decide (st.next < st.lines) &&
    (decide (st.next < st.look + 1) ||
      (!st.filled.contains (st.next - (st.look + 1)) && !(s.streamOps st.id).contains (st.next - (st.look + 1))))

/-- A stream ends with a uniform trap of its declaring context: of the path that declared it, or, once that has ended, of one that
runs there (R160, R191; log 24). Ring lines not yet filled stay absent; a later stream of the same slot goes on. -/
def State.failStream (s : State) (ctx slot op code : Nat) : State :=
  match s.pend.get? op with
  | none => s
  | some o =>
    let id := match o.work with
      | .stream _ _ id => id
      | _ => 0
    let s := { s with pend := s.pend.erase op }.dropAsks op
    let mine : Bool := ((s.ctxs.get? ctx).bind (·.streams.get? slot)).any fun (st : Stream) => st.id = id
    let s := if mine then s.endStream ctx slot else s
    let s := if o.ov && o.overdue (s.cycOf o.core) then s.partLate ctx o.uid o.pc o.sent o.cls none else s
    s.modCtx ctx fun c =>
      let uid := if c.alive o.uid then o.uid else (((c.p0 ++ c.p1).head?).map (·.uid)).getD o.uid
      c.hold uid { code := code, pc := o.pc, uni := true, tids := [], entry := none, op := some op, len := 0 }

/-- STREAM_LINE_ISSUE (R159). -/
def execStreamLineIssue (ctx slot : Nat) (s : State) : Host.Outcome State Fault Refusal :=
  match s.ctxs.get? ctx with
  | none => .next s
  | some c =>
    match c.streams.get? slot, s.who? ctx 0 with
    | some st, some w =>
      if (c.p0 = [] && c.p1 = []) || !s.teamRuns c.team || !s.streamGo st || s.requests c.core + st.perLine > 1024 then .next s
      else
        let n := st.next
        let line := lineKey c.core (st.place w.t n)
        let addrs := st.addrs n
        let a : Access := { kind := .strm slot, pc := st.pc, len := 1, uid := st.uid, shared := false, strong := false,
                            scope := .lg, ov := st.ov, cls := st.cls, once := true, sent := st.sent, late := st.tardy,
                            items := addrs.map fun x => { onceItem x with data := BitVec.ofNat 64 st.ebytes } }
        let w : Who := { w with uid := st.uid }
        let o : Op := { opOf w a s (.stream slot n st.id) with fills := [line], acc := some a, slack := st.slack }
        let s := s.modCtx ctx fun c => { c with streams := c.streams.modify slot fun st => { st with next := n + 1, tardy := false } }
        let segs := addrs.flatMap fun x => s.readable (some (dieOf c.core)) w.root x st.ebytes
        .next ((s.postOp w o segs).2.clearLine line)
    | _, _ => .next s

/-- The elements of a line: what each comes to, in order. -/
def State.elements (w : Who) : List Item → State → List (Item × Reach) × State
  | [], s => ([], s)
  | i :: r, s =>
    let (x, s) := s.engineReach w i.addr i.data.toNat .read
    let (l, s) := State.elements w r s
    ((i, x) :: l, s)

/-- The bytes of a line's elements, once all of them are there. -/
def State.lineBytes (op : Nat) (o : Op) : List (Item × Reach) → State → Option (List Byte) × State
  | [], s => (some [], s)
  | (i, r) :: rest, s =>
    let (bs, s) : Option (List Byte) × State := match r with
      | .go (.peer p _) => s.askRead op 0 p (s.slackLeft o) i.addr i.data.toNat
      | _ => (some (s.readSegs r.segs), s)
    let (l, s) := State.lineBytes op o rest s
    (bs.bind fun b => l.map (b ++ ·), s)

/-- Whether a line lies in the ring of another stream of its team (R160). -/
def State.ringShared (s : State) (w : Who) (line id : Nat) : Bool :=
  s.ctxs.any fun p => p.2.team = w.team && p.2.core = w.core && p.2.streams.any fun q =>
    q.2.id ≠ id && (List.range q.2.rlines).any fun i => lineKey w.core (w.t.spadBase + q.2.ring + 128 * i) = line

/-- STREAM_LINE_FILLED (R159): the bytes are written, presence follows R156; the stream ends with its last line. -/
def execStreamLineFilled (op : Nat) (s : State) : Host.Outcome State Fault Refusal :=
  match s.readyOp op (fun w => match w with
    | .stream _ _ _ => true
    | _ => false) with
  | none => .next s
  | some o =>
    match o.work, s.opWho o, o.acc, o.fills with
    | .stream slot n id, some w, some a, line :: _ =>
      let (l, s) := State.elements w a.items s
      match readyOf (l.map Prod.snd) with
      | .fail c => .next (s.failStream o.ctx slot op c)
      | .wait ps => .next (s.modOp op fun o => { o with faults := ps.eraseDups })
      | .ok =>
        if s.segsPoisoned (l.flatMap (·.2.segs)) then .next (s.failStream o.ctx slot op 0x10)
        else
          match State.lineBytes op o l s with
          | (none, s) => .next s
          | (some bs, s) =>
            let (bs, s) := if s.ringShared w line id then s.freeBytes 128 else (padTo 128 bs, s)
            let s := s.put (spadKey (line / 4096) (128 * (line % 4096))) bs
            let note (st : Stream) : Stream :=
              if st.id = id then { st with filled := n :: st.filled, landed := st.landed + 1 } else st
            let s := s.modCtx o.ctx fun c =>
              { c with streams := (c.streams.modify slot note).filter fun q => decide (q.2.landed < q.2.lines) }
            .next ((s.dropAsks op).finishOp op)
    | _, _, _, _ => .next s

end Sys2Proof.Machine
end

