-- ==== Sys2Proof/Machine/Convert.lean ====
section
/-!
DEFINITION. CVT (R117, R121, R357, R358), QPACK and QUNP (R118 to R120, R389, R390).
-/

namespace Sys2Proof.Machine

/-! ### Format slots (R121) -/

def slotElem (w : Word) : Nat := (w.extractLsb' 0 4).toNat
def slotBtypes (w : Word) : BitVec 4 := w.extractLsb' 4 4
def slotRnd (w : Word) : Rnd := (Rnd.ofCode (w.extractLsb' 8 3)).getD .rne
def slotSat (w : Word) : Bool := w.getLsbD 11
def Record.slot (r : Record) (i : Nat) : Word := r.fslots.getD i 0

/-- The ELEM code of a type (R121). -/
def elemOf (ty : Ty) : Nat :=
  match ty with
  | .bf16 => 0
  | .fp16 => 1
  | .fp32 => 2
  | .e4m3 => 3
  | .e5m2 => 4
  | _ => 5

/-! ### CVT -/

/-- The source of a CVT under its type (R358). -/
def cvtSource (ty : Ty) (x : Word) : FVal :=
  match ty with
  | .nb4 => nb4Value ((x.extractLsb' 8 8).toNat) ((x.extractLsb' 0 4).toNat)
  | .fp32 | .fp16 | .bf16 | .e4m3 | .e5m2 => ty.fmt.value (x.toNat % 2 ^ ty.width)
  | _ =>
    let v := intOf ty.width ty.signed x
    .fin (decide (v < 0)) v.natAbs 0

/-- The result of a CVT as 64 bits, and its flags (R117, R121, R358). `slot` is the format slot's word. -/
def convert (dty sty : Ty) (rnd : Rnd) (slot : Word) (x : Word) : Word × BitVec 32 :=
  if sty.isInt && dty.isInt then (BitVec.ofInt 64 (intOf sty.width sty.signed x), 0)
  else
    let v := cvtSource sty x
    let mode := if dty.slotted || sty.slotted then slotRnd slot else rnd
    if dty.isInt then
      let (n, f) := v.toInt mode dty.width dty.signed
      (BitVec.ofInt 64 n, f)
    else if dty = .e4m3 || dty = .e5m2 then
      let r := dty.fmt.toFp8 mode (slotSat slot) v
      (BitVec.ofNat 64 r.bits, r.flags)
    else
      let r := dty.fmt.ofVal mode v
      (BitVec.ofNat 64 r.bits, r.flags)

/-- Which type's ELEM a CVT's slot must have (R357). -/
def cvtSlotTy (o : CvtOp) : Ty := if o.dty = .e4m3 || o.dty = .e5m2 then o.dty else o.sty

/-- The source of a CVT for a thread. -/
def cvtRead (o : CvtOp) (e : Env) (s : State) (t : Nat) : Word :=
  match o.b with
  | .vec (.reg n) => if o.sty.is64 then (e.thread s t).pair n.toNat else ((e.thread s t).reg n.toNat).val.setWidth 64
  | .vec v => v.read o.sty e s t
  | .uni u => u.read e
  | _ => 0

/-- CVT. A slot of another format is an illegal word (R122, R331), before any operand is looked at. -/
def execCvt (o : CvtOp) (s : State) : Host.Outcome State Fault Refusal :=
  let illegal (e : Env) : Bool :=
    (o.dty.slotted || o.sty.slotted) && slotElem (e.rcd.slot o.slot.toNat) ≠ elemOf (cvtSlotTy o)
  let needs : Needs :=
    { u := o.b.needU o.rb, v := o.b.needV o.sty.is64 o.rb, dv := destV o.d.toNat o.dty.is64 }
  match s.env? with
  | none => .fault .noIssuingPath
  | some e =>
    if illegal e then .next (e.trapAll s 0x01)
    else
      issueThreads s o.guard needs fun e ts s =>
        e.retire (forEach ts (fun s' t =>
          let (x, f) := convert o.dty o.sty o.rnd (e.rcd.slot o.slot.toNat) (cvtRead o e s t)
          e.flag (e.putV s' o.dty t o.d.toNat x) t f) s)

/-! ### NB4 packing (R120) -/

/-- The magnitude M of a block type, in units of 2^(E−32) × 1/8. -/
def nb4Max (ty : Nat) : Nat := [56, 48, 64, 96].getD ty 0

/-- The magnitudes of a block type's codes with sign bit 0, in eighths. -/
def nb4Mags (ty : Nat) : List Nat :=
  match ty with
  | 0 => [0, 8, 16, 24, 32, 40, 48, 56]
  | 1 => [0, 4, 8, 12, 16, 24, 32, 48]
  | 2 => [0, 1, 2, 4, 8, 16, 32, 64]
  | _ => [0, 8, 16, 24, 32, 48, 64, 96]

/-- The codes of a block type with their values in eighths (R119). −0 codes are left out: the sign of a zero is
set afterwards. -/
def nb4Codes (ty : Nat) : List (Nat × Int) :=
  let pos := (nb4Mags ty).zipIdx.map fun p => (p.2, (p.1 : Int))
  if ty = 0 then pos ++ (List.range 8).map fun (i : Nat) => ((8 + i, -8 * (8 - (i : Int))) : Nat × Int)
  else pos ++ ((nb4Mags ty).zipIdx.filter fun p => p.1 ≠ 0).map fun p => (8 + p.2, -(p.1 : Int))

/-- A finite input as an integer count of 2^−200. -/
def fix200 (v : FVal) : Int :=
  match v with
  | .fin a m e => signedInt a (m * 2 ^ (e + 200).toNat)
  | _ => 0

/-- 2^(E−32) / 8 as a count of 2^−200. -/
def nb4Unit (e : Nat) : Int := 2 ^ (165 + e)

/-- The smallest E with a ≤ M × 2^(E−32), or 63. -/
def nb4Exp (ty : Nat) (a : Int) : Nat :=
  ((List.range 64).find? fun e => decide (a ≤ (nb4Max ty : Int) * nb4Unit e)).getD 63

/-- The code for a value x (a count of 2^−200) under a mode: the nearest by the mode among the codes, after
clamping to ±M (R120). -/
def nb4Code (ty e : Nat) (mode : Rnd) (x : Int) : Nat :=
  let u := nb4Unit e
  let m := (nb4Max ty : Int) * u
  let x := max (-m) (min m x)
  let cs := (nb4Codes ty).map fun p => (p.1, p.2 * u)
  let below := cs.filter fun p => decide (p.2 ≤ x)
  let above := cs.filter fun p => decide (p.2 ≥ x)
  let lo := below.foldl (fun (b : Nat × Int) p => if p.2 > b.2 then p else b) (below.headD (0, 0))
  let hi := above.foldl (fun (b : Nat × Int) p => if p.2 < b.2 then p else b) (above.headD (0, 0))
  if lo.2 = x then lo.1
  else if hi.2 = x then hi.1
  else
    match mode with
    | .rd => lo.1
    | .ru => hi.1
    | .rz => if x > 0 then lo.1 else hi.1
    | .rne =>
      if x - lo.2 < hi.2 - x then lo.1 else if hi.2 - x < x - lo.2 then hi.1
      else if lo.1 % 2 = 0 then lo.1 else hi.1
    | .rna =>
      if x - lo.2 < hi.2 - x then lo.1 else if hi.2 - x < x - lo.2 then hi.1
      else if x > 0 then hi.1 else lo.1

/-- The value of a code, as a count of 2^−200. -/
def nb4Decoded (ty e c : Nat) : Int :=
  (((nb4Codes ty).find? fun p => p.1 = c).map (·.2)).getD 0 * nb4Unit e

/-- One candidate block (R120): type, E, codes, error, overflow, inexact. -/
structure Nb4Try where
  ty : Nat
  e : Nat
  codes : List Nat
  err : Int
  beyond : Bool
  inexact : Bool
deriving DecidableEq, Repr

def nb4Try (vals : List FVal) (mode : Rnd) (ty : Nat) : Nb4Try :=
  let fin (v : FVal) : Bool := match v with
    | .fin _ _ _ => true
    | _ => false
  let a := (vals.filter fin).foldl (fun (b : Int) v => max b ((fix200 v).natAbs : Int)) 0
  let e := nb4Exp ty a
  let top := (nb4Max ty : Int) * nb4Unit e
  let code (v : FVal) : Nat :=
    match v with
    | .nan _ => 0
    | .inf n => nb4Code ty e mode (if n then -top else top)
    | .fin n m _ =>
      let c := nb4Code ty e mode (fix200 v)
      if ty ≠ 0 && nb4Decoded ty e c = 0 then (if n then 8 else 0) else if m = 0 then 0 else c
  let codes := vals.map code
  let pairs := (List.zip vals codes).filter fun p => fin p.1
  { ty := ty, e := e, codes := codes,
    err := pairs.foldl (fun s p => let d := fix200 p.1 - nb4Decoded ty e p.2; s + d * d) 0,
    beyond := pairs.any fun p => decide ((fix200 p.1).natAbs > top),
    inexact := pairs.any fun p => fix200 p.1 ≠ nb4Decoded ty e p.2 }

/-- The block for 32 values: its 17 bytes as numbers, and the flags (R118, R120). -/
def nb4Pack (vals : List FVal) (slot : Word) : List Nat × BitVec 32 :=
  let tys := (List.range 4).filter fun i => (slotBtypes slot).getLsbD i
  let tries := tys.map (nb4Try vals (slotRnd slot))
  let b := tries.tail.foldl (fun b t => if t.err < b.err then t else b) (tries.headD ⟨0, 0, [], 0, false, false⟩)
  let special := vals.any fun v => match v with
    | .fin _ _ _ => false
    | _ => true
  ((List.range 16).map (fun i => b.codes.getD (2 * i) 0 + 16 * b.codes.getD (2 * i + 1) 0) ++ [64 * b.ty + b.e],
    flagIf special fNV ||| flagIf b.beyond fOF ||| flagIf b.inexact fNX)

/-- Four bytes from a list as a lane. -/
def laneOfBytes (l : List Nat) (i : Nat) : Lane :=
  BitVec.ofNat 32 (l.getD i 0 + 256 * (l.getD (i + 1) 0 + 256 * (l.getD (i + 2) 0 + 256 * l.getD (i + 3) 0)))

/-- A slot whose ELEM is not NB4 makes QPACK and QUNP illegal words (R389, R122). -/
def packIllegal (o : PackOp) (e : Env) : Bool := slotElem (e.rcd.slot o.slot.toNat) ≠ 5

/-- QPACK (R389). Every source is read before any destination is written. -/
def execQpack (o : PackOp) (s : State) : Host.Outcome State Fault Refusal :=
  let src := (List.range o.span).map (o.s.toNat + ·)
  let dst := (List.range 5).map (o.d.toNat + ·)
  match s.env? with
  | none => .fault .noIssuingPath
  | some e =>
    if packIllegal o e then .next (e.trapAll s 0x01)
    else
      issueThreads s o.guard { v := src.map (·, o.rb), dv := dst } fun e ts s =>
        e.retire (forEach ts (fun s' t =>
          let vals := src.flatMap fun i => (elements o.ty ((e.thread s t).reg i).val.toNat).map o.ty.fmt.value
          let (bytes, f) := nb4Pack vals (e.rcd.slot o.slot.toNat)
          e.flag (forEach (List.range 5) (fun s' i => e.setV s' t (o.d.toNat + i) (laneOfBytes bytes (4 * i))) s')
            t f) s)

/-- QUNP (R390). -/
def execQunp (o : PackOp) (s : State) : Host.Outcome State Fault Refusal :=
  let src := (List.range 5).map (o.s.toNat + ·)
  let dst := (List.range o.span).map (o.d.toNat + ·)
  match s.env? with
  | none => .fault .noIssuingPath
  | some e =>
    if packIllegal o e then .next (e.trapAll s 0x01)
    else
      issueThreads s o.guard { v := src.map (·, o.rb), dv := dst } fun e ts s =>
        e.retire (forEach ts (fun s' t =>
          let lane (i : Nat) : Nat := ((e.thread s t).reg (o.s.toNat + i)).val.toNat
          let scale := lane 4 % 256
          let mode := slotRnd (e.rcd.slot o.slot.toNat)
          let rs := (List.range 32).map fun i =>
            o.ty.fmt.ofVal mode (nb4Value scale (lane (i / 8) / 16 ^ (i % 8) % 16))
          let per := if o.ty.packed then 2 else 1
          let out (i : Nat) : Nat := fromElements (((rs.drop (per * i)).take per).map (·.bits))
          e.flag (forEach (List.range o.span) (fun s' i => e.setV s' t (o.d.toNat + i) (BitVec.ofNat 32 (out i))) s')
            t (rs.foldl (fun f r => f ||| r.flags) 0)) s)

end Sys2Proof.Machine
end

