-- ==== Sys2Proof/Machine/Gather.lean ====
section
/-!
DEFINITION. GATHER and its steps, and the expansion of stored elements (R123, R239, R240).
-/

namespace Sys2Proof.Machine

/-! ### Stored elements (R118, R121, R123) -/

/-- The bytes of n elements of a format: 0 BF16, 1 FP16, 2 FP32, 3 E4M3, 4 E5M2, 5 NB4 in blocks of 32. -/
def elemBytes (fmt n : Nat) : Nat :=
  match fmt with
  | 0 | 1 => 2 * n
  | 2 => 4 * n
  | 3 | 4 => n
  | _ => n / 32 * 17

/-- The size that an element's address must be a multiple of (R239). -/
def elemAlign (fmt : Nat) : Nat :=
  match fmt with
  | 0 | 1 => 2
  | 2 => 4
  | _ => 1

/-- The value of element i of stored bytes. -/
def elemVal (fmt : Nat) (bs : List Byte) (i : Nat) : FVal :=
  let f (a n : Nat) : Nat := leNat ((bs.drop a).take n)
  match fmt with
  | 0 => Fmt.bf16.value (f (2 * i) 2)
  | 1 => Fmt.fp16.value (f (2 * i) 2)
  | 2 => Fmt.fp32.value (f (4 * i) 4)
  | 3 => Fmt.e4m3.value (f i 1)
  | 4 => Fmt.e5m2.value (f i 1)
  | _ =>
    let b := i / 32 * 17
    let c := f (b + i % 32 / 2) 1
    nb4Value (f (b + 16) 1) (if i % 2 = 0 then c % 16 else c / 16)

/-- The values of n stored elements. -/
def elemVals (fmt : Nat) (bs : List Byte) (n : Nat) : List FVal := (List.range n).map (elemVal fmt bs)

/-- n stored elements expanded into a destination format: 0 as they are, 1 BF16, 2 FP32 (R239). -/
def expandRow (sfmt dfmt n : Nat) (bs : List Byte) : List Byte :=
  match dfmt with
  | 1 => (elemVals sfmt bs n).flatMap fun v => natLE (Fmt.bf16.ofVal .rne v).bits 2
  | 2 => (elemVals sfmt bs n).flatMap fun v => natLE (Fmt.fp32.ofVal .rne v).bits 4
  | _ => bs

/-! ### The descriptor (R239) -/

/-- The format of a gather's destination. -/
def GatherDesc.outFmt (d : GatherDesc) : Nat :=
  match d.dfmt with
  | 1 => 0
  | 2 => 2
  | _ => d.sfmt

def GatherDesc.inBytes (d : GatherDesc) : Nat := elemBytes d.sfmt d.elems
def GatherDesc.outBytes (d : GatherDesc) : Nat := elemBytes d.outFmt d.elems

/-- The address of a destination row. -/
def GatherDesc.row (d : GatherDesc) (i : Nat) : Nat := (d.dst + i * d.dstride) % 2 ^ 64

/-- The descriptor that 64 bytes hold, if it keeps R239's table for a team's core. -/
def gatherDesc (bs : List Byte) (t : Team) (core : Nat) : Option GatherDesc :=
  let f (i n : Nat) : Nat := leNat ((bs.drop i).take n)
  let d : GatherDesc :=
    { src := f 0 8, idx := f 8 8, dst := f 16 8, n := f 24 4, elems := f 28 4, sstride := f 32 4, dstride := f 36 4,
      sfmt := f 40 1, dfmt := f 41 1, dsp := f 42 1 = 1 }
  let fits : Bool := !d.dsp || d.n = 0 ||
    (let span := (d.n - 1) * d.dstride + d.outBytes
     (sharedKey core t d.dst span).isSome && !(decide (0x80000 ≤ d.dst) && decide (d.dst < 0x100000)))
  if decide (f 42 1 ≤ 1) && f 43 21 = 0 && decide (d.n ≤ 0xFFFFFF) && decide (1 ≤ d.elems) && decide (d.elems ≤ 65536)
      && decide (d.sfmt ≤ 5) && decide (d.dfmt ≤ 2) && d.idx % 4 = 0
      && (d.sfmt ≠ 5 || d.elems % 32 = 0)
      && (d.dfmt ≠ 1 || decide (3 ≤ d.sfmt)) && (d.dfmt ≠ 2 || d.sfmt ≠ 2)
      && d.src % elemAlign d.sfmt = 0 && d.sstride % elemAlign d.sfmt = 0
      && d.dst % elemAlign d.outFmt = 0 && d.dstride % elemAlign d.outFmt = 0
      && (d.dsp || decide (d.dst < 2 ^ 56)) && decide (d.src < 2 ^ 56) && decide (d.idx < 2 ^ 56) && fits then some d
  else none

/-- The scratchpad lines that a gather fills. -/
def GatherDesc.lines (d : GatherDesc) (w : Who) : List Nat :=
  if d.dsp then
    ((List.range d.n).flatMap fun i =>
      match sharedKey w.core w.t (d.row i) d.outBytes with
      | some k => linesOf k d.outBytes
      | none => []).eraseDups
  else []

/-- The sources of the rows that a gather has not done; over more than 1024 rows, all memory. -/
def State.gatherSrcs (s : State) (w : Who) (d : GatherDesc) (rows : List Nat) : List (Nat × Nat) :=
  if 1024 < d.n then [(0, 2 ^ 49)]
  else ((List.range d.n).filter (!rows.contains ·)).flatMap fun i =>
    let die := some (dieOf w.core)
    let idx := s.readable die w.root ((d.idx + 4 * i) % 2 ^ 64) 4
    let x := leNat (s.readSegs idx)
    idx ++ if x ≥ 0xFFFFFFF0 then [] else s.readable die w.root ((d.src + x * d.sstride) % 2 ^ 64) d.inBytes

/-- What a gather holds once it has its descriptor: its sources are watched, the lines that it fills are its fills (R156, R192). -/
def State.takeGather (s : State) (op : Nat) (w : Who) (addr : Nat) (d : GatherDesc) : State :=
  let lines := d.lines w
  let srcs := s.gatherSrcs w d []
  forEach lines State.clearLine
    (s.modOp op fun o => { o.watch srcs with work := .gather addr (some d) [], fills := lines })

/-- GATHER (R240). -/
def execGather (o : DescOp) (s : State) : Host.Outcome State Fault Refusal :=
  issuePath s { u := o.base.need o.ra, du := [o.sd.toNat] } fun e s =>
    let addr := (o.base.read e + o.off.bytes 16).toNat
    let op : Op := { e.newOp s (.gather addr none []) with ov := o.ov, cls := o.sl, reqs := 1 }
    let start (s : State) (d : Option GatherDesc) (ps : List PageRef) (failed : Bool) : State :=
      let key := s.readable (some (dieOf e.ctx.core)) e.launch.root addr 64
      let (id, k, s) := e.postEngine s 1 { op with faults := ps } key
      let s := match d with
        | some d => s.takeGather id e.who addr d
        | none => s
      let s := e.retire (e.setU s o.sd.toNat (BitVec.ofNat 64 k))
      if failed then s.failEngine id 0x10
      else if (d.map (·.n)) = some 0 then s.finishOp id
      else s
    if addr % 64 ≠ 0 then e.trap s 0x03 e.held false
    else e.engine s fun s =>
      match s.engineDesc e.who none addr (gatherDesc · e.team e.ctx.core) with
      | (.fail c, s) => if c = 0x10 then start s none [] true else e.trapAll s c
      | (.wait ps, s) => start s none ps false
      | (.ok d, s) => start s (some d) [] false

/-- A gather whose descriptor page has been served, or whose descriptor has come from a peer, takes its descriptor. -/
def State.gatherDescriptor (s : State) (op : Nat) (o : Op) (w : Who) (addr : Nat) : State :=
  match s.engineDesc w (some (op, o)) addr (gatherDesc · w.t w.core) with
  | (.fail c, s) => s.failEngine op c
  | (.wait ps, s) => s.modOp op fun o => { o with faults := ps }
  | (.ok d, s) => s.takeGather op w addr d

/-- Bytes of a row that another row's place overlaps are indeterminate (R240). -/
def State.blurRow (s : State) (d : GatherDesc) (i : Nat) (bs : List Byte) : List Byte × State :=
  if d.n ≤ 1 || decide (d.outBytes ≤ d.dstride) then (bs, s)
  else
    let hit (j : Nat) : Bool :=
      (decide (i + 1 < d.n) && decide (d.dstride ≤ j)) || (decide (0 < i) && decide (j + d.dstride < d.outBytes))
    let (fs, s) := s.freeBytes bs.length
    ((bs.zip fs).zipIdx.map fun p => if hit p.2 then p.1.2 else p.1.1, s)

/-- A row is written: bytes that other rows overlap, and all of them where its sources were written meanwhile, are indeterminate. -/
def State.writeRow (s : State) (op : Nat) (o : Op) (d : GatherDesc) (i : Nat) (r : Reach) (bs : List Byte) : State :=
  let (bs, s) := if o.tainted then s.freeBytes d.outBytes else s.blurRow d i bs
  s.engineWrite op o (4 * i + 3) r (d.row i) bs

/-- One row: what its index, its source and its destination come to, and its bytes; it awaits no page where it waits for a
peer device. -/
def State.gatherRow (s : State) (op : Nat) (o : Op) (w : Who) (d : GatherDesc) (i : Nat) : Ready × State :=
  let idx := (d.idx + 4 * i) % 2 ^ 64
  let (ri, s) := s.engineReach w idx 4 .read
  let (rd, s) := s.rangeReach w d.dsp (d.row i) d.outBytes .write
  match readyOf [ri, rd] with
  | .fail c => (.fail c, s)
  | .wait ps => (.wait ps, s)
  | .ok =>
    if s.segsPoisoned ri.segs || s.writePoisoned rd.segs rd.segs then (.fail 0x10, s)
    else
      match s.engineRead op o (4 * i + 1) ri idx 4 with
      | (none, s) => (.wait [], s)
      | (some ib, s) =>
        let x := leNat ib
        if x ≥ 0xFFFFFFF0 then (.ok, s.writeRow op o d i rd (List.replicate d.outBytes 0))
        else
          let src := (d.src + x * d.sstride) % 2 ^ 64
          let (rs, s) := s.engineReach w src d.inBytes .read
          match readyOf [rs] with
          | .fail c => (.fail c, s)
          | .wait ps => (.wait ps, s)
          | .ok =>
            if s.segsPoisoned rs.segs then (.fail 0x10, s)
            else
              match s.engineRead op o (4 * i + 2) rs src d.inBytes with
              | (none, s) => (.wait [], s)
              | (some bs, s) => (.ok, s.writeRow op o d i rd (expandRow d.sfmt d.dfmt d.elems bs))

/-- A row is done: lines that no row which is left fills become present (R156), and the sources are those of the rows left. -/
def State.rowDone (s : State) (op : Nat) (w : Who) (addr : Nat) (d : GatherDesc) (rows : List Nat) : State :=
  let left := if d.dsp then ((List.range d.n).filter (!rows.contains ·)).flatMap fun i =>
      match sharedKey w.core w.t (d.row i) d.outBytes with
      | some k => linesOf k d.outBytes
      | none => []
    else []
  let srcs := s.gatherSrcs w d rows
  let ready := (((s.pend.get? op).map (·.fills)).getD []).filter (!left.contains ·)
  (s.modOp op fun o => { o with work := .gather addr (some d) rows, srcs := srcs, fills := o.fills.filter left.contains }).filled ready

/-- The gather that a name stands for, which is not held by a failure. -/
def State.gather? (s : State) (op : Nat) : Option (Op × Who × Nat × Option GatherDesc × List Nat) :=
  match s.pend.get? op with
  | none => none
  | some o =>
    match o.work, s.opWho o with
    | .gather addr d rows, some w =>
      if o.leg = .arrived && o.failed.isNone then some (o, w, addr, d, rows) else none
    | _, _ => none

/-- GATHER_ROW_COMPLETE (R240): one row, in any order; a row whose page is not present waits while others proceed. -/
def execGatherRowComplete (op row : Nat) (s : State) : Host.Outcome State Fault Refusal :=
  match s.gather? op with
  | some (o, w, addr, some d, rows) =>
    if d.n ≤ row || rows.contains row then .next s
    else
      match s.gatherRow op o w d row with
      | (.fail c, s) => .next (s.failEngine op c)
      | (.wait ps, s) => .next (s.modOp op fun o => { o with faults := (ps ++ o.faults).eraseDups })
      | (.ok, s) => .next (s.rowDone op w addr d (row :: rows))
  | some (o, w, addr, none, _) => if o.faults = [] then .next (s.gatherDescriptor op o w addr) else .next s
  | none => .next s

/-- GATHER_COMPLETE (R240). -/
def execGatherComplete (op : Nat) (s : State) : Host.Outcome State Fault Refusal :=
  match s.gather? op with
  | some (o, w, addr, none, _) => if o.faults = [] then .next (s.gatherDescriptor op o w addr) else .next s
  | some (_, _, _, some d, rows) => if d.n ≤ rows.length then .next (s.closeOp op) else .next s
  | none => .next s

/-- A gather completes as a skip: the rows not yet written are indeterminate; without a descriptor none is (R240). -/
def State.skipGather (s : State) (op : Nat) (o : Op) (w : Who) (d : Option GatherDesc) (rows : List Nat) : State :=
  match d with
  | none => s
  | some d => forEach ((List.range d.n).filter fun i => !rows.contains i) (fun s i =>
      s.freeRange op o w d.dsp (d.row i) d.outBytes) s

end Sys2Proof.Machine
end

