-- ==== Sys2Proof/Machine/Descent.lean ====
section
/-!
DEFINITION. Tree descent: DESC, ASCD, PMOV and their steps (R241 to R258).
-/

namespace Sys2Proof.Machine

/-! ### Trees (R241 to R243) -/

/-- The descriptor that 64 bytes hold, if it keeps R242 and R243 under a launch record. -/
def treeDesc (bs : List Byte) (r : Record) : Option TreeDesc :=
  let f (i n : Nat) : Nat := leNat ((bs.drop i).take n)
  let d : TreeDesc :=
    { nbase := f 0 8, gbase := f 16 8, nstride := f 24 4, dim := f 32 2, depth := f 34 1, slot := f 35 1,
      bias := f 36 1 = 1 }
  let fmt := slotElem (r.slot d.slot)
  let nb := (elemBytes fmt d.dim + 3) / 4 * 4
  if d.nbase % 16 = 0 && decide (d.nbase < 2 ^ 56) && d.gbase % 4 = 0 && decide (d.gbase < 2 ^ 56)
      && d.nstride % 16 = 0 && decide (32 ≤ d.dim) && decide (d.dim ≤ 4096) && d.dim % 32 = 0
      && decide (1 ≤ d.depth) && decide (d.depth ≤ 32) && decide (d.slot ≤ 7) && decide (f 36 1 ≤ 1)
      && f 37 27 = 0 && [0, 3, 4, 5].contains fmt && decide (nb + (if d.bias then 4 else 0) ≤ d.nstride) then some d
  else none

/-- The bytes of a node before its bias. -/
def TreeDesc.nb (d : TreeDesc) (fmt : Nat) : Nat := (elemBytes fmt d.dim + 3) / 4 * 4
/-- The bytes of a node. -/
def TreeDesc.nodeBytes (d : TreeDesc) (fmt : Nat) : Nat := d.nb fmt + (if d.bias then 4 else 0)
def TreeDesc.nodeAt (d : TreeDesc) (i : Nat) : Nat := (d.nbase + i * d.nstride) % 2 ^ 64
def TreeDesc.rowBytes (d : TreeDesc) : Nat := 4 * (d.dim + (if d.bias then 1 else 0))
def TreeDesc.rowAt (d : TreeDesc) (i : Nat) : Nat := (d.gbase + i * d.rowBytes) % 2 ^ 64
/-- The leaf index of the node that a descent ends at (R241). -/
def TreeDesc.leaf (d : TreeDesc) (node : Nat) : Nat := node + 1 - 2 ^ d.depth

/-- The FP32 pattern of a BF16 pattern. -/
def widen (x : Nat) : Nat := x % 2 ^ 16 * 2 ^ 16

/-- The weights of a node as FP32 patterns of their BF16 expansion (R123, R243). -/
def nodeWeights (fmt dim : Nat) (bs : List Byte) : List Nat :=
  (elemVals fmt bs dim).map fun v => widen (Fmt.bf16.ofVal .rne v).bits

/-- n FP32 or BF16 values from bytes. -/
def unpack (size : Nat) : Nat → List Byte → List Nat
  | 0, _ => []
  | n + 1, bs => leNat (bs.take size) :: unpack size n (bs.drop size)

/-- The dot product of R248. -/
def dotProduct (w x : List Nat) (bias : Option Nat) : Nat :=
  let y := (w.zip x).foldl (fun y p => (Fmt.fp32.fma .rne p.1 p.2 y).bits) 0
  match bias with
  | some b => (Fmt.fp32.add .rne y b).bits
  | none => y

/-! ### Operands (R247) -/

/-- A shared address of a thread: base + index. -/
def Env.sharedAt (e : Env) (s : State) (base idx : BitVec 8) (t : Nat) : Nat :=
  ((e.act.u base.toNat).val + ((e.thread s t).reg idx.toNat).val.setWidth 64).toNat

/-- The place of a range of a team's own allocation on a core. -/
def ownKey (w : Who) (off : Nat) : Nat := spadKey w.core (w.t.spadBase + off)

/-- Whether a range lies in the own allocation. -/
def inOwn (w : Who) (p : Nat × Nat) : Bool := decide (p.1 + p.2 ≤ w.t.spadBytes)

/-- The threads of which a range is misaligned: each is given with its ranges. -/
def askew (l : List (Nat × List (Nat × Nat))) : List Nat :=
  (l.filter fun q => q.2.any fun p => p.1 % 16 ≠ 0).map Prod.fst

/-- The trap of the ranges of an operation's threads (R151, R247): ALIGN before PROT. -/
def rangesTrap (w : Who) (l : List (Nat × List (Nat × Nat))) : Option Nat :=
  if askew l ≠ [] then some 0x03
  else if l.any fun q => q.2.any fun p => !inOwn w p then some 0x05 else none

/-- The trap of the instruction at issue for its ranges: ALIGN over the threads that fail, PROT of the path (R273). -/
def Env.trapRanges (e : Env) (s : State) (l : List (Nat × List (Nat × Nat))) (code : Nat) : State :=
  if code = 0x03 then e.trap s 0x03 (askew l) false else e.trapAll s code

/-- The pieces of memory that hold a tree's nodes: over more than 64 pages, all memory (R258; a write to any of it then
counts as one to a node). -/
def State.treeSegs (s : State) (w : Who) (d : TreeDesc) (fmt : Nat) : List (Nat × Nat) :=
  let n := (2 ^ d.depth - 2) * d.nstride + d.nodeBytes fmt
  if n > 64 * 65536 then [(0, 2 ^ 49)] else s.readable (some (dieOf w.core)) w.root d.nbase n

/-- The operations that a core's descent engine holds (R247). -/
def State.descents (s : State) (core : Nat) : Nat :=
  (s.pend.vals.filter fun o => (match o.work with
    | .desc _ _ _ _ _ _ => true
    | .ascd _ _ _ _ _ => true
    | _ => false) && (s.ctxs.get? o.ctx).any (·.core = core)).length

/-! ### DESC -/

/-- The lines that a thread's dot products fill. -/
def Walker.lines (x : Walker) (w : Who) (d : TreeDesc) : List Nat := linesOf (ownKey w x.dots) (4 * d.depth)

/-- The ranges of a descent's threads. -/
def walkRanges (d : TreeDesc) (dp : Bool) (l : List Walker) : List (Nat × List (Nat × Nat)) :=
  l.map fun x => (x.tid, (x.x, 2 * d.dim) :: if dp then [(x.dots, 4 * d.depth)] else [])

/-- Lines of results that each thread of an operation fills whatever its descriptor says, so that they are cleared at issue while
the descriptor is awaited (R156, R250). -/
def firstLines (w : Who) (n : Nat) (l : List Nat) : List Nat :=
  ((l.filter fun x => inOwn w (x, n)).flatMap fun x => linesOf (ownKey w x) n).eraseDups

/-- A descent takes its descriptor: the lines that it fills are cleared, its sources are watched (R250, R258). -/
def State.takeTree (s : State) (op : Nat) (w : Who) (r : Record) (d : TreeDesc) : State :=
  match s.pend.get? op with
  | none => s
  | some o =>
    match o.work with
    | .desc addr _ hn dp l n =>
      let lines := if dp then (l.flatMap fun x => x.lines w d).eraseDups else []
      let srcs := (l.map fun x => (ownKey w x.x, 2 * d.dim)) ++ s.treeSegs w d (slotElem (r.slot d.slot))
      forEach lines State.clearLine
        (s.modOp op fun o => { o.watch srcs with work := .desc addr (some d) hn dp l n, fills := lines })
    | _ => s

/-- DESC (R247, R248). -/
def execDesc (o : DescentOp) (s : State) : Host.Outcome State Fault Refusal :=
  let dpU : List (Nat × Bool) := match o.dp with
    | some p => [(p.1.toNat, false)]
    | none => []
  let dpV : List (Nat × Bool) := match o.dp with
    | some p => [(p.2.toNat, false)]
    | none => []
  issuePath s { u := (o.a.toNat, o.ra) :: (o.sdesc.toNat, o.rc) :: dpU, v := (o.va.toNat, o.rb) :: dpV,
                dv := [o.d.toNat], dh := [o.hn.toNat] } fun e s =>
    let addr := (e.act.u o.sdesc.toNat).val.toNat
    let walker (t : Nat) : Walker :=
      { tid := t, x := e.sharedAt s o.a o.va t,
        dots := match o.dp with
          | some p => e.sharedAt s p.1 p.2 t
          | none => 0,
        level := 0, node := 0, path := 0, nan := false, complete := false, held := false, lost := false,
        dst := e.lnum s t o.d.toNat }
    let l := e.held.map walker
    let dp := o.dp.isSome
    let early := if dp then firstLines e.who 4 (l.map (·.dots)) else []
    let op : Op := { e.newOp s (.desc addr none o.hn.toNat dp l []) with ov := o.ov, cls := o.sl, reqs := 1, fills := early }
    let start (s : State) (ps : List PageRef) (d : Option TreeDesc) : State :=
      let key := s.readable (some (dieOf e.ctx.core)) e.launch.root addr 64
      let s := forEach l (fun s x =>
        (s.emptyIn e.ref.ctx e.ctx.team e.act.uid (.v x.tid x.dst 0)).emptyIn e.ref.ctx e.ctx.team e.act.uid
          (.h x.tid o.hn.toNat 0)) s
      let (id, _, s) := e.postEngine s 2 { op with faults := ps } key
      e.retire (match d with
        | some d => s.takeTree id e.who e.rcd d
        | none => forEach early State.clearLine s)
    if addr % 64 ≠ 0 then e.trap s 0x03 e.held false
    else if 8 ≤ s.descents e.ctx.core then e.park s (.again .engine)
    else e.engine s fun s =>
      match s.engineDesc e.who none addr (treeDesc · e.rcd) with
      | (.fail c, s) => e.trapAll s c
      | (.wait ps, s) => start s ps none
      | (.ok d, s) =>
        match rangesTrap e.who (walkRanges d dp l) with
        | some c => e.trapRanges s (walkRanges d dp l) c
        | none => start s [] (some d)

/-- A descent or a replay that is not held by a failure, with the record that its launch runs under. -/
def State.tree? (s : State) (op : Nat) : Option (Op × Who × Record) :=
  match s.pend.get? op with
  | none => none
  | some o =>
    if o.leg = .arrived && o.failed.isNone && !s.asking op then
      match s.opWho o, (s.ctxs.get? o.ctx).bind s.launchRecord with
      | some w, some r => some (o, w, r)
      | _, _ => none
    else none

/-- An operation whose descriptor page has been served, or whose descriptor comes from a peer, reads it and checks its ranges. -/
def State.treeDescriptor (s : State) (op : Nat) (o : Op) (w : Who) (r : Record) (addr : Nat)
    (ranges : TreeDesc → List (Nat × List (Nat × Nat))) (take : State → TreeDesc → State) : State :=
  if o.faults ≠ [] then s
  else
    match s.engineDesc w (some (op, o)) addr (treeDesc · r) with
    | (.fail c, s) => s.failEngine op c
    | (.wait ps, s) => s.modOp op fun o => { o with faults := ps }
    | (.ok d, s) =>
      match rangesTrap w (ranges d) with
      | some c => s.failEngine op c
      | none => take s d

/-- The pages of a range under a root. -/
def pagesOf (root va n : Nat) : List PageRef := (pagePieces va n).map fun p => ⟨root, pageOf false p.1⟩

/-- Change the walkers of a descent. -/
def State.modWalkers (s : State) (op : Nat) (f : Walker → Walker) : State :=
  s.modOp op fun o => match o.work with
    | .desc a d h p w n => { o with work := .desc a d h p (w.map f) n }
    | _ => o

/-- The nodes that an operation has fetched (R249). -/
def Work.nodes (w : Work) : Map (List Byte) :=
  match w with
  | .desc _ _ _ _ _ n => n
  | .ascd _ _ _ _ z => z.nodes
  | _ => []

/-- An operation keeps a node. -/
def Work.keepNode (w : Work) (i : Nat) (bs : List Byte) : Work :=
  match w with
  | .desc a d h p l n => .desc a d h p l (n.set i bs)
  | .ascd a d x c z => .ascd a d x c { z with nodes := z.nodes.set i bs }
  | k => k

/-- The bytes of a node, fetched once for an operation (R249). -/
def State.fetchNode (s : State) (op : Nat) (o : Op) (w : Who) (d : TreeDesc) (fmt i : Nat) : DescOut (List Byte) × State :=
  match o.work.nodes.get? i with
  | some bs => (.ok bs, s)
  | none =>
    let (r, s) := s.engineReach w (d.nodeAt i) (d.nodeBytes fmt) .read
    match readyOf [r] with
    | .fail c => (.fail c, s)
    | .wait ps => (.wait ps, s)
    | .ok =>
      if s.segsPoisoned r.segs then (.fail 0x10, s)
      else
        match s.engineRead op o (1 + i) r (d.nodeAt i) (d.nodeBytes fmt) with
        | (none, s) => (.wait [], s)
        | (some bs, s) => (.ok bs, s.modOp op fun o => { o with work := o.work.keepNode i bs })

/-- Whether the lines of pieces are present (R156). -/
def State.present (s : State) (segs : List (Nat × Nat)) : Bool :=
  segs.all fun p => (linesOf p.1 p.2).all s.linePresent

/-- One thread at a node: its dot product, its decision (R248). -/
def State.walkOne (s : State) (op : Nat) (tainted : Bool) (w : Who) (d : TreeDesc) (dp : Bool) (weights : List Nat)
    (bias : Option Nat) (x : Walker) : State :=
  let xs := (unpack 2 d.dim (memReads s.mem (ownKey w x.x) (2 * d.dim))).map widen
  let (y, s) := if tainted then
      let (f, s) := s.free
      (let v := f.toNat % 2 ^ 32; if (Fmt.fp32.value v).isNan then Fmt.fp32.nan else v, s)
    else (dotProduct weights xs bias, s)
  let s := if dp then s.put (ownKey w x.dots + 4 * x.level) (natLE y 4) else s
  let v := Fmt.fp32.value y
  let b := if v.isNan then 0 else if v.isZero || !v.neg? then 1 else 0
  s.modWalkers op fun z => if z.tid = x.tid then
      { z with path := z.path + b * 2 ^ z.level, node := 2 * z.node + 1 + b, level := z.level + 1, nan := z.nan || v.isNan }
    else z

/-- The threads that need a node trap, each over its share: a failed entry of the log (R255). -/
def State.failNode (s : State) (op : Nat) (o : Op) (w : Who) (hn code : Nat) (l : List Walker) : State :=
  let (id, s) := s.name
  let s := s.modWalkers op fun z => if l.any (·.tid = z.tid) then { z with held := true } else z
  let item (x : Walker) : Item := { tid := x.tid, addr := 0, data := 0, data2 := 0, dst := x.dst }
  let a : Access := { kind := .desc op hn, pc := o.pc, len := 1, uid := o.uid, shared := false, strong := false,
                      scope := .lg, ov := o.ov, cls := o.cls, once := false, items := l.map item, sent := o.sent }
  let e : LogEntry := { id := id, acc := a, pages := [], failed := some code }
  (s.addEntry w.ctx e).holdEntry w.ctx e

/-- The threads of a level at one node, from one fetch (R249). -/
def State.walkNode (s : State) (op : Nat) (w : Who) (d : TreeDesc) (fmt hn : Nat) (dp : Bool) (node : Nat)
    (l : List Walker) : State :=
  match s.pend.get? op with
  | none => s
  | some o =>
    match s.fetchNode op o w d fmt node with
    | (.fail c, s) => s.failNode op o w hn c l
    | (.wait ps, s) => s.modOp op fun o => { o with faults := (o.faults ++ ps).eraseDups }
    | (.ok bs, s) =>
      let ws := nodeWeights fmt d.dim bs
      let bias := if d.bias then some (leNat ((bs.drop (d.nb fmt)).take 4)) else none
      forEach l (fun s x => s.walkOne op o.tainted w d dp ws bias x) s

/-- The threads of a descent that can compute a level now: not complete, not held, their node's page not awaited, their
input present. -/
def State.walking (s : State) (o : Op) (w : Who) (d : TreeDesc) (fmt : Nat) (l : List Walker) : List Walker :=
  l.filter fun x => !x.complete && !x.held && decide (x.level < d.depth)
    && !(pagesOf w.root (d.nodeAt x.node) (d.nodeBytes fmt)).any o.faults.contains
    && s.present [(ownKey w x.x, 2 * d.dim)]

/-! ### What a replay can do now (R252, R253, R255) -/

/-- The node that a path names at a depth (R241). -/
def pathNode (path : Nat) : Nat → Nat
  | 0 => 0
  | j + 1 => 2 * pathNode path j + 1 + path / 2 ^ j % 2

/-- Whether a replay's thread has its input and its level gradients, so that they can be read (R156). -/
def State.climberReady (s : State) (w : Who) (d : TreeDesc) (x : Climber) : Bool :=
  s.present [(ownKey w x.x, 2 * d.dim), (ownKey w x.lg, 4 * d.depth)]

/-- The first add that can be made: adds to one row keep their order, so none passes one to its row that waits for a page or a
line (R253, R255). -/
def State.nextAdd (s : State) (o : Op) (w : Who) (d : TreeDesc) (l : List Climber) :
    List Nat → List (Nat × Nat × Nat) → Option (Nat × Climber × Nat)
  | _, [] => none
  | held, (j, t, k) :: rest =>
    match l.find? (·.tid = t) with
    | none => s.nextAdd o w d l held rest
    | some x =>
      let i := pathNode x.path j
      if held.contains i || (pagesOf w.root (d.rowAt i) d.rowBytes).any o.faults.contains || !s.climberReady w d x then
        s.nextAdd o w d l (i :: held) rest
      else some (j, x, k)

/-- The first thread whose input gradient can be formed. -/
def State.nextGrad (s : State) (o : Op) (w : Who) (d : TreeDesc) (fmt : Nat) (l : List Climber) (left : List Nat) : Option Climber :=
  l.find? fun x => left.contains x.tid && s.climberReady w d x && (List.range d.depth).all fun j =>
    !(pagesOf w.root (d.nodeAt (pathNode x.path j)) (d.nodeBytes fmt)).any o.faults.contains

/-- The replays of a context before one. -/
def State.earlierClimbs (s : State) (o : Op) : Bool :=
  s.pend.vals.any fun q => q.ctx = o.ctx && decide (q.num < o.num) && (match q.work with
    | .ascd _ _ _ _ _ => true
    | _ => false)

/-! ### The order of the engine's operations (R256) -/

/-- Whether an operation of a descent engine has something to do now. -/
def State.able (s : State) (id : Nat) (o : Op) : Bool :=
  match s.tree? id with
  | none => false
  | some (_, w, r) =>
    match o.work with
    | .desc _ none _ _ _ _ => o.faults = []
    | .desc _ (some d) _ _ l _ => s.walking o w d (slotElem (r.slot d.slot)) l ≠ []
    | .ascd _ none _ _ _ => o.faults = []
    | .ascd _ (some d) _ l z =>
      !s.earlierClimbs o && ((s.nextAdd o w d l [] z.adds).isSome || (s.nextGrad o w d (slotElem (r.slot d.slot)) l z.grads).isSome)
    | _ => false

/-- Whether an operation of a descent engine has begun. -/
def Op.begun (o : Op) : Bool :=
  match o.work with
  | .desc _ _ _ _ _ n => n ≠ []
  | .ascd _ (some d) _ l z => decide (z.adds.length < d.depth * l.length) || z.adds.any fun p => decide (0 < p.2.2)
  | _ => false

/-- Whether an operation may begin: no earlier one of its context that has something to do has not begun. -/
def State.mayBegin (s : State) (id : Nat) (o : Op) : Bool :=
  o.begun || !(s.pend.any fun q => q.1 ≠ id && q.2.ctx = o.ctx && q.2.tl = 2 && decide (q.2.num < o.num) && !q.2.begun
    && s.able q.1 q.2)

/-- Whether an operation is the one that its core's engine serves next: of those that may go on, none has less slack. -/
def State.serves (s : State) (id : Nat) (o : Op) : Bool :=
  s.able id o && s.mayBegin id o && !(s.pend.any fun q => q.1 ≠ id && q.2.core = o.core && q.2.tl = 2
    && decide (s.slackLeft q.2 < s.slackLeft o) && s.able q.1 q.2 && s.mayBegin q.1 q.2)

/-- DESC_LEVEL (R248, R249): the lowest level that some thread can compute, its nodes in ascending order. -/
def execDescLevel (op : Nat) (s : State) : Host.Outcome State Fault Refusal :=
  match s.tree? op with
  | none => .next s
  | some (o, w, r) =>
    if !s.serves op o then .next s
    else
      match o.work with
      | .desc addr none _ dp l _ =>
        .next (s.treeDescriptor op o w r addr (fun d => walkRanges d dp l) (fun s d => s.takeTree op w r d))
      | .desc _ (some d) hn dp l _ =>
        let fmt := slotElem (r.slot d.slot)
        let go := s.walking o w d fmt l
        match go.map (·.level) with
        | [] => .next s
        | j :: js =>
          let level := js.foldl min j
          let here := go.filter (·.level = level)
          let nodes := sortNat ((here.map (·.node)).eraseDups)
          .next (forEach nodes (fun s i => s.walkNode op w d fmt hn dp i (here.filter (·.node = i))) s)
      | _ => .next s

/-- DESC_THREAD_COMPLETE (R250): a thread's last level is computed. -/
def execDescThreadComplete (op tid : Nat) (s : State) : Host.Outcome State Fault Refusal :=
  match s.tree? op with
  | none => .next s
  | some (o, w, _) =>
    match o.work with
    | .desc _ (some d) hn dp l _ =>
      match l.find? fun x => x.tid = tid && !x.complete && decide (d.depth ≤ x.level) with
      | none => .next s
      | some x =>
        let res : List Res := if x.dst = noDst then []
          else [.v tid x.dst (BitVec.ofNat 32 (d.leaf x.node)), .h tid hn (BitVec.ofNat 64 x.path), .flags tid (flagIf x.nan fDN)]
        let s := forEach res (fun s r => s.deliver o.ctx w.team o.uid r) s
        let s := s.modWalkers op fun z => if z.tid = tid then { z with complete := true } else z
        if dp then
          let rest := l.filter fun z => z.tid ≠ tid && !z.complete
          let lines := (x.lines w d).filter fun k => !(rest.any fun z => (z.lines w d).contains k)
          let s := s.modOp op fun o => { o with fills := o.fills.filter fun k => !lines.contains k }
          .next (s.filled lines)
        else .next s
    | _ => .next s

/-- The dot products of threads that a skip completed are indeterminate (R255). -/
def State.loseDots (s : State) (w : Who) (d : TreeDesc) (l : List Walker) : State :=
  forEach (l.filter (·.lost)) (fun s x => let (bs, s) := s.freeBytes (4 * d.depth); s.put (ownKey w x.dots) bs) s

/-- DESC_COMPLETE (R250): every thread of the batch has completed. -/
def execDescComplete (op : Nat) (s : State) : Host.Outcome State Fault Refusal :=
  match s.tree? op with
  | none => .next s
  | some (o, w, _) =>
    match o.work with
    | .desc _ (some d) _ dp l _ =>
      if l.all (·.complete) then .next ((if dp then s.loseDots w d l else s).closeOp op) else .next s
    | .desc _ none _ _ l _ => if l.all (·.complete) then .next (s.finishOp op) else .next s
    | _ => .next s

/-- A descent completes as a skip: what its threads have not received is indeterminate (R255). -/
def State.skipDesc (s : State) (op : Nat) (o : Op) (w : Who) : State :=
  match o.work with
  | .desc _ d hn dp l _ =>
    let left := l.filter (!·.complete)
    let s := forEach left (fun s x => forEach
      (if x.dst = noDst then [] else [Res.v x.tid x.dst 0, .h x.tid hn 0]) (fun s r => s.freeRes o.ctx o.uid r) s) s
    let s := s.loseWalkers op (left.map (·.tid))
    match d, dp with
    | some d, true => s.loseDots w d (l.map fun x => { x with lost := x.lost || !x.complete })
    | _, _ => s
  | _ => s

/-! ### ASCD -/

/-- The ranges of a replay's threads. -/
def climbRanges (d : TreeDesc) (dx : Bool) (l : List Climber) : List (Nat × List (Nat × Nat)) :=
  l.map fun x => (x.tid, (x.x, 2 * d.dim) :: (x.lg, 4 * d.depth) :: if dx then [(x.dx, 4 * d.dim)] else [])

/-- The lines that a thread's input gradient fills. -/
def Climber.lines (x : Climber) (w : Who) (d : TreeDesc) : List Nat := linesOf (ownKey w x.dx) (4 * d.dim)

/-- All that a replay has to do: the adds by ascending level, then tid (R252, R253). -/
def climbing (d : TreeDesc) (dx : Bool) (l : List Climber) : Climbing :=
  let ts := sortNat (l.map (·.tid))
  { adds := (List.range d.depth).flatMap fun j => ts.map fun t => (j, t, 0), grads := if dx then ts else [], nodes := [] }

/-- A replay takes its descriptor. -/
def State.takeAscent (s : State) (op : Nat) (w : Who) (r : Record) (d : TreeDesc) : State :=
  match s.pend.get? op with
  | none => s
  | some o =>
    match o.work with
    | .ascd addr _ dx l _ =>
      let lines := if dx then (l.flatMap fun x => x.lines w d).eraseDups else []
      let srcs := (l.flatMap fun x => [(ownKey w x.x, 2 * d.dim), (ownKey w x.lg, 4 * d.depth)])
        ++ (if dx then s.treeSegs w d (slotElem (r.slot d.slot)) else [])
      forEach lines State.clearLine
        (s.modOp op fun o => { o.watch srcs with work := .ascd addr (some d) dx l (climbing d dx l), fills := lines })
    | _ => s

/-- ASCD (R251, R252). -/
def execAscd (o : AscentOp) (s : State) : Host.Outcome State Fault Refusal :=
  let dxU : List (Nat × Bool) := match o.dx with
    | some p => [(p.1.toNat, false)]
    | none => []
  let dxV : List (Nat × Bool) := match o.dx with
    | some p => [(p.2.toNat, false)]
    | none => []
  issuePath s { u := (o.sg.toNat, false) :: (o.a.toNat, o.ra) :: (o.sdesc.toNat, o.rc) :: dxU,
                v := (o.va.toNat, o.rb) :: (o.vg.toNat, false) :: dxV, h := [(o.hn.toNat, false)] } fun e s =>
    let addr := (e.act.u o.sdesc.toNat).val.toNat
    let climber (t : Nat) : Climber :=
      { tid := t, x := e.sharedAt s o.a o.va t, lg := e.sharedAt s o.sg o.vg t,
        dx := match o.dx with
          | some p => e.sharedAt s p.1 p.2 t
          | none => 0,
        path := ((e.thread s t).path o.hn.toNat).val.toNat }
    let l := e.held.map climber
    let dx := o.dx.isSome
    let early := if dx then firstLines e.who 128 (l.map (·.dx)) else []
    let op : Op := { e.newOp s (.ascd addr none dx l ⟨[], [], []⟩) with ov := o.ov, cls := o.sl, reqs := 1, fills := early }
    let start (s : State) (ps : List PageRef) (d : Option TreeDesc) : State :=
      let key := s.readable (some (dieOf e.ctx.core)) e.launch.root addr 64
      let (id, _, s) := e.postEngine s 2 { op with faults := ps } key
      e.retire (match d with
        | some d => s.takeAscent id e.who e.rcd d
        | none => forEach early State.clearLine s)
    if addr % 64 ≠ 0 then e.trap s 0x03 e.held false
    else if 8 ≤ s.descents e.ctx.core then e.park s (.again .engine)
    else e.engine s fun s =>
      match s.engineDesc e.who none addr (treeDesc · e.rcd) with
      | (.fail c, s) => e.trapAll s c
      | (.wait ps, s) => start s ps none
      | (.ok d, s) =>
        if d.gbase = 0 then e.trapAll s 0x05
        else
          match rangesTrap e.who (climbRanges d dx l) with
          | some c => e.trapRanges s (climbRanges d dx l) c
          | none => start s [] (some d)

/-- Change what is left of a replay. -/
def State.modClimbing (s : State) (op : Nat) (f : Climbing → Climbing) : State :=
  s.modOp op fun o => match o.work with
    | .ascd a d x l z => { o with work := .ascd a d x l (f z) }
    | _ => o

/-- The inputs of a thread as FP32 patterns. -/
def State.inputs (s : State) (w : Who) (d : TreeDesc) (x : Climber) : List Nat :=
  (unpack 2 d.dim (memReads s.mem (ownKey w x.x) (2 * d.dim))).map widen
/-- The level gradient of a thread. -/
def State.levelGrad (s : State) (w : Who) (x : Climber) (j : Nat) : Nat := memNat s.mem (ownKey w x.lg + 4 * j) 4

/-- Element k of a gradient row after one thread's add (R252): the last element of a row with a bias takes the level gradient
itself. -/
def TreeDesc.added (d : TreeDesc) (g old : Nat) (xs : List Nat) (k : Nat) : Nat :=
  if k < d.dim then (Fmt.fp32.fma .rne g (xs.getD k 0) old).bits else (Fmt.fp32.add .rne old g).bits

/-- A replay has made an add: the row's next element is due, or the row is done. -/
def Climbing.step (z : Climbing) (d : TreeDesc) (j t k : Nat) : Climbing :=
  let next := if k + 1 < d.rowBytes / 4 then [(j, t, k + 1)] else []
  { z with adds := z.adds.flatMap fun p => if p = (j, t, k) then next else [p] }

/-- One add of one thread at one level to one element of a gradient row: one indivisible read-modify-write (R253). The packets of
a row leave with its first element. -/
def State.addOne (s : State) (op : Nat) (o : Op) (w : Who) (d : TreeDesc) (j : Nat) (x : Climber) (k : Nat) : State :=
  let i := pathNode x.path j
  let va := (d.rowAt i + 4 * k) % 2 ^ 64
  let (r, s) := s.engineReach w va 4 .both
  match readyOf [r] with
  | .fail c => s.failEngine op c
  | .wait ps => s.modOp op fun o => { o with faults := (o.faults ++ ps).eraseDups }
  | .ok =>
    if s.segsPoisoned r.segs then s.failEngine op 0x10
    else
      let put (s : State) (old : Nat) : Nat × State :=
        if o.tainted then let (y, s) := s.free; (y.toNat % 2 ^ 32, s)
        else (d.added (s.levelGrad w x j) old (s.inputs w d x) k, s)
      match r with
      | .go (.peer p _) =>
        let step := 2 ^ 40 + (j * 2048 + x.tid) * 8192 + k
        match s.askRead op step p (s.slackLeft o) va 4 with
        | (none, s) => s
        | (some bs, s) =>
          let (y, s) := put s (leNat bs)
          ((s.usedAsks op).askWrite op step p (s.slackLeft o) va (natLE y 4)).modClimbing op (·.step d j x.tid k)
      | _ =>
        let (y, s) := put s (leNat (s.readSegs r.segs))
        let s := ((State.putSegs r.segs (natLE y 4) s).unpoison r.segs).modClimbing op (·.step d j x.tid k)
        if k = 0 then
          let row := s.readable (some (dieOf w.core)) w.root (d.rowAt i) d.rowBytes
          s.sendBlocks op (s.slackLeft o) row row
        else s

/-- The weights of the nodes on a thread's path, by level; none while one is not there. -/
def State.pathWeights (op : Nat) (w : Who) (d : TreeDesc) (fmt : Nat) (x : Climber) :
    List Nat → State → Option (List (List Nat)) × State
  | [], s => (some [], s)
  | j :: js, s =>
    match s.pend.get? op with
    | none => (none, s)
    | some o =>
      match s.fetchNode op o w d fmt (pathNode x.path j) with
      | (.fail c, s) => (none, s.failEngine op c)
      | (.wait ps, s) => (none, s.modOp op fun o => { o with faults := (o.faults ++ ps).eraseDups })
      | (.ok bs, s) =>
        match State.pathWeights op w d fmt x js s with
        | (some l, s) => (some (nodeWeights fmt d.dim bs :: l), s)
        | (none, s) => (none, s)

/-- The input gradient that level gradients and weights make (R252). -/
def climbed (dim : Nat) (gs : List Nat) (ws : List (List Nat)) : List Nat :=
  (gs.zip ws).foldl (fun (acc : List Nat) p => (acc.zip p.2).map fun q => (Fmt.fp32.fma .rne p.1 q.2 q.1).bits)
    (List.replicate dim 0)

/-- n free patterns of 32 bits. -/
def State.freeLanes (s : State) (n : Nat) : List Nat × State :=
  ((List.range n).map fun i => (Config.freeWord (s.fresh + i)).toNat % 2 ^ 32, { s with fresh := s.fresh + n })

/-- The input gradient of one thread (R252): it is written, and its lines that no thread which is left fills are present (R156). -/
def State.inputGrad (s : State) (op : Nat) (o : Op) (w : Who) (d : TreeDesc) (fmt : Nat) (l : List Climber) (left : List Nat)
    (x : Climber) : State :=
  let js := List.range d.depth
  match State.pathWeights op w d fmt x js s with
  | (none, s) => s
  | (some ws, s) =>
    let (out, s) := if o.tainted then s.freeLanes d.dim else (climbed d.dim (js.map (s.levelGrad w x)) ws, s)
    let s := s.put (ownKey w x.dx) (out.flatMap (natLE · 4))
    let rest := l.filter fun z => left.contains z.tid && z.tid ≠ x.tid
    let lines := (x.lines w d).filter fun k => !(rest.any fun z => (z.lines w d).contains k)
    let s := s.modClimbing op fun z => { z with grads := z.grads.filter (· ≠ x.tid) }
    (s.modOp op fun o => { o with fills := o.fills.filter fun k => !lines.contains k }).filled lines

/-- ASCD_COMPLETE (R252, R253, R255): after the earlier replays of its context, a replay makes its next add, or forms an input
gradient, as far as the pages and lines that these need are present; with nothing left it completes. -/
def execAscdComplete (op : Nat) (s : State) : Host.Outcome State Fault Refusal :=
  match s.tree? op with
  | none => .next s
  | some (o, w, r) =>
    match o.work with
    | .ascd addr none dx l _ =>
      if !s.serves op o then .next s
      else .next (s.treeDescriptor op o w r addr (fun d => climbRanges d dx l) (fun s d =>
        if d.gbase = 0 then s.failEngine op 0x05 else s.takeAscent op w r d))
    | .ascd _ (some d) _ l z =>
      let fmt := slotElem (r.slot d.slot)
      if z.adds = [] && z.grads = [] then .next (s.closeOp op)
      else if !s.serves op o then .next s
      else
        match s.nextAdd o w d l [] z.adds, s.nextGrad o w d fmt l z.grads with
        | some (j, x, k), _ => .next (s.addOne op o w d j x k)
        | none, some x => .next (s.inputGrad op o w d fmt l z.grads x)
        | none, none => .next s
    | _ => .next s

/-- A replay completes as a skip: input gradients not yet written are indeterminate (R255). -/
def State.skipAscd (s : State) (w : Who) (d : Option TreeDesc) (l : List Climber) (z : Climbing) : State :=
  match d with
  | some d => forEach (l.filter fun x => z.grads.contains x.tid)
      (fun s x => let (bs, s) := s.freeBytes (4 * d.dim); s.put (ownKey w x.dx) bs) s
  | none => s

/-! ### PMOV (R254) -/

/-- PMOV vd, hn. -/
def execPmovToVector (o : PmovOp) (s : State) : Host.Outcome State Fault Refusal :=
  issueThreads s o.guard { h := [(o.hn.toNat, o.m)], dv := [o.v.toNat, o.v.toNat + 1] } fun e ts s =>
    e.retire (forEach ts (fun s t => e.setV64 s t o.v.toNat ((e.thread s t).path o.hn.toNat).val) s)

/-- PMOV hn, vs. -/
def execPmovToPath (o : PmovOp) (s : State) : Host.Outcome State Fault Refusal :=
  issueThreads s o.guard { v := [(o.v.toNat, o.m), (o.v.toNat + 1, o.m)], dh := [o.hn.toNat] } fun e ts s =>
    e.retire (forEach ts (fun s t => e.modThread s t fun th =>
      { th with h := th.h.set o.hn.toNat ⟨th.pair o.v.toNat, true⟩ }) s)

end Sys2Proof.Machine
end

