-- ==== Sys2Proof/Machine/LaunchUnit.lean ====
section
/-!
DEFINITION. The launch unit: LAUNCH and its acceptance, doorbells, the launch record and its checks, dependences, the
count and the tables, completion (R17, R26, R121, R122, R232, R233, R244, R259 to R265, R410).
-/

namespace Sys2Proof.Machine

/-! ### LAUNCH (R263) and the launch queues (R261) -/

/-- The device launches of a die that are handed over and not accepted. -/
def State.launchesHeld (s : State) (d : Nat) : Nat :=
  s.pend.vals.countP fun o => match o.work with
    | .launch _ _ _ => (s.ctxs.get? o.ctx).any fun c => dieOf c.core = d
    | _ => false

/-- Why LAUNCH waits for earlier accesses of its context: all of them happen before the child's (R190). -/
def Env.launchHeld (e : Env) (s : State) : Option Why :=
  if s.awayAt e.ref.ctx none then some .drain
  else if e.ctx.log.any (·.acc.kind.ordered) then some .log
  else e.memHeld s

/-- LAUNCH (R263): its packet goes to the hub (R20). -/
def execLaunch (o : DescOp) (s : State) : Host.Outcome State Fault Refusal :=
  issuePath s { u := o.base.need o.ra, du := [o.sd.toNat] } fun e s =>
    let addr := (o.base.read e + o.off.bytes 16).toNat
    if addr % 256 ≠ 0 then e.trap s 0x03 e.held false
    else if 256 ≤ s.launchesHeld (dieOf e.ctx.core) then e.park s (.again .engine)
    else
      match e.launchHeld s with
      | some y => e.park s (.again y)
      | none => e.release s fun s =>
        let op : Op := { e.newOp s (.launch o.sd.toNat addr e.launch.root) with
          res := [.u o.sd.toNat 0], cls := o.sl, slack := slackOf e.ctx.slk o.sl }
        let (id, s) := e.post s op
        e.retire (s.sendHub id op.slack addr)

/-- The launch unit takes a record: the launch has the next id (R261). -/
def State.accept (s : State) (root record : Nat) (queue : Option Nat) : Nat × State :=
  let id := s.hub.nextLaunch
  let l : Launch :=
    { root := root, at' := record, record := none, phase := .accepted, count := 0, next := 0, finished := 0, met := [],
      rtab := none, chans := [], sched := [], status := 0, killed := none, since := s.tick, queue := queue, got := 0,
      waits := [], waiting := false }
  (id, { s with launches := s.launches.set id l }.modHub fun h => { h with nextLaunch := id + 1 })

/-- LAUNCH_ACCEPTED (R263): sd receives the launch id. -/
def execLaunchAccepted (op : Nat) (s : State) : Host.Outcome State Fault Refusal :=
  match s.readyOp op (fun w => match w with
    | .launch _ _ _ => true
    | _ => false) with
  | none => .next s
  | some o =>
    match o.work with
    | .launch sd record root =>
      let (id, s) := s.accept root record none
      .next ((s.modOp op fun o => { o with res := [.u sd (BitVec.ofNat 64 id)] }).finishOp op)
    | _ => .next s

/-- The management kernel is told of a launch (R260, R261, R265). -/
def State.report (s : State) (launch cause code : Nat) : State :=
  s.modHub fun h => { h with reports := h.reports ++ [⟨launch, cause, code, 0⟩] }

/-- LAUNCH_DOORBELL (R261): the unit takes a record of a queue; one that is not aligned is never read, and the report of
cause 1 is all that is left of it. -/
def execLaunchDoorbell (queue : Nat) (record : Word) (s : State) : Host.Outcome State Fault Refusal :=
  match s.hub.queues[queue]? with
  | none => .next s
  | some root =>
    let (id, s) := s.accept root record.toNat (some queue)
    if record.toNat % 256 = 0 then .next s
    else .next ((s.modLaunch id fun l => { l with phase := .complete, status := 1 }).report id 1 0)

/-! ### Reading -/

/-- What a read of the launch unit comes to. -/
inductive HubRead where
  | bytes (bs : List Byte)
  | wait (ps : List PageRef)
  | fail
deriving DecidableEq, Repr

/-- A port engine of the hub reads (R174, R175, R191), for a collective operation or, as owner 0, for a launch; a peer device is
asked (R221), and a short answer is its refusal (R222). -/
def State.hubRead (s : State) (owner step slack root va n : Nat) : HubRead × State :=
  let r := s.reachHub root va n .read
  if r.isSc || s.segsPoisoned r.segs then (.fail, s)
  else
    match r with
    | .go (.peer p _) =>
      match s.askRead owner step p slack va n with
      | (none, s) => (.wait [], s)
      | (some bs, s) => (if bs.length = n then .bytes bs else .fail, s)
    | .go (.mem segs _ _) => (.bytes (s.readSegs segs), s)
    | .absent ps => (.wait ps.eraseDups, s)
    | _ => (.fail, s)

/-- The launch unit reads for a launch. -/
def State.unitRead (s : State) (id root va n : Nat) : HubRead × State := s.hubRead 0 id 0 root va n

/-- The answers that the launch unit had for a launch are used. -/
def State.unitDone (s : State) (id : Nat) : State :=
  s.modHub fun h => { h with asks := h.asks.filter fun a => !(a.owner = 0 && a.step = id) }

/-- A launch fails: it runs no team and is ready to complete (R260, R265); without its record it is complete. -/
def State.failLaunch (s : State) (id status : Nat) : State :=
  ((s.unitDone id).modLaunch id fun l => { l with
      status := status, count := 0, next := 0, finished := 0, waits := [],
      phase := if l.record.isNone then .complete else .running }).report id status 0

/-! ### The record (R259, R260) -/

/-- A format slot that R122 allows. -/
def slotOk (w : Word) : Bool :=
  let x := w.toNat
  decide (x < 2 ^ 12) && decide (x / 2 ^ 8 % 8 ≤ 4) && decide (x % 16 ≤ 5) && !(x % 16 = 5 && x / 16 % 16 = 0)

/-- The field of n bytes at a place of the record. -/
def fieldAt (bs : List Byte) (i n : Nat) : Nat := leNat ((bs.drop i).take n)

/-- The record that 256 bytes hold. -/
def parseRecord (bs : List Byte) : Record :=
  let f := fieldAt bs
  { entry := f 0 8, tcount := f 8 4, tsize := f 12 4, caddr := f 16 8, w := f 24 1, band := f 25 1, prio := f 26 1,
    ovt := f 27 1 % 2 = 1, vregs := f 28 2, spare := f 30 2, spad := f 32 2, col := f 34 2, gspill := f 36 4,
    gsbase := f 40 8, fslots := (List.range 8).map fun i => BitVec.ofNat 64 (f (48 + 8 * i) 8), chanp := f 112 8,
    nchan := f 120 1, rtab := f 128 8, tree := f 136 8, sched := f 144 8, slen := f 152 2,
    slk := BitVec.ofNat 64 (f 160 8), trapent := f 168 8,
    deps := (List.range 4).map fun i => (f (176 + 16 * i) 8, f (184 + 16 * i) 8), cinc := f 240 8,
    cval := BitVec.ofNat 64 (f 248 8) }

/-- A virtual address that is a multiple of n (R148, R259). -/
def vaOk (x n : Nat) : Bool := decide (x < 2 ^ 56) && x % n = 0

/-- Row 1 of R260: the fields, reserved bits and format slots of a record. -/
def recordOk (bs : List Byte) (r : Record) : Bool :=
  let f := fieldAt bs
  vaOk r.entry 8 && decide (1 ≤ r.tsize) && decide (r.tsize ≤ 2048) && vaOk r.caddr 4
  && (r.w = 16 || r.w = 32 || r.w = 64) && decide (1 ≤ r.band) && decide (r.band ≤ 16) && decide (r.prio ≤ 3)
  && decide (f 27 1 ≤ 1) && decide (8 ≤ r.vregs) && decide (r.vregs ≤ 224) && r.vregs % 8 = 0 && decide (r.spare ≤ 2047)
  && decide (r.spad ≤ 512) && decide (r.col ≤ 256) && r.gspill % 0x10000 = 0 && (r.gspill = 0 || vaOk r.gsbase 0x10000)
  && r.fslots.all slotOk && decide (r.nchan ≤ 16)
  && (if r.nchan = 0 then decide (r.chanp = 0) else decide (r.chanp ≠ 0) && vaOk r.chanp 16)
  && vaOk r.rtab 16 && vaOk r.tree 64 && vaOk r.sched 2
  && (if r.sched = 0 then decide (r.slen = 0) else decide (1 ≤ r.slen) && decide (r.slen ≤ 256))
  && f 121 7 = 0 && f 155 5 = 0 && decide (r.slk.toNat < 2 ^ 48) && vaOk r.trapent 8
  && r.deps.all (fun d => vaOk d.1 8) && vaOk r.cinc 8

/-- Row 2 of R260: whether some core or pair can hold a team. -/
def Record.fits (r : Record) (windowMiB : Nat) : Bool :=
  decide (r.span ≤ 2048) && (r.pair || decide (r.span ≤ 1024)) && r.tidsOn.all (fun n => decide (r.vregs * n ≤ 65536))
  && decide (r.col ≤ windowMiB)
  && (r.col = 0 || decide (spillArea (r.tidsOn.headD 0) r.vregs ≤ r.col * 2 ^ 20))
  && (r.gspill = 0 || decide (r.spillNeed ≤ r.gspill)) && (r.sched = 0 || decide (r.band ≤ 96))

/-- LAUNCH_RECORD_CHECK (R260, steps 1 and 2). -/
def execLaunchRecordCheck (l : Nat) (s : State) : Host.Outcome State Fault Refusal :=
  match s.launches.get? l with
  | none => .next s
  | some x =>
    if x.phase ≠ .accepted then .next s
    else
      match s.unitRead l x.root x.at' 256 with
      | (.wait ps, s) => .next (s.modLaunch l fun x => { x with waits := ps })
      | (.fail, s) => .next (s.failLaunch l 3)
      | (.bytes bs, s) =>
        let r := parseRecord bs
        let s := (s.unitDone l).modLaunch l fun x => { x with record := some r, phase := .checked, waits := [] }
        if !recordOk bs r then .next (s.failLaunch l 1)
        else if !r.fits s.hub.windowMiB then .next (s.failLaunch l 2)
        else .next s

/-! ### Dependences (R264) -/

/-- Read dependence counters in order: those that are met, or why not all can be read. -/
def readDeps (id root : Nat) : List (Nat × Nat × Nat) → List Nat → State → (HubRead ⊕ List Nat) × State
  | [], met, s => (.inr met, s)
  | (i, cnt, val) :: rest, met, s =>
    if cnt = 0 then readDeps id root rest (met ++ [i]) s
    else
      match s.unitRead id root cnt 8 with
      | (.bytes bs, s) => readDeps id root rest (if val ≤ leNat bs then met ++ [i] else met) s
      | (r, s) => (.inl r, s)

/-- The dependences of a record with their numbers. -/
def Record.depList (r : Record) : List (Nat × Nat × Nat) := r.deps.zipIdx.map fun p => (p.2, p.1)

/-- DEPENDENCE_READ (R264): the counters are read together. -/
def execDependenceRead (l : Nat) (s : State) : Host.Outcome State Fault Refusal :=
  match s.launches.get? l with
  | none => .next s
  | some x =>
    match x.phase, x.record with
    | .checked, some r =>
      match readDeps l x.root r.depList [] s with
      | (.inr met, s) => .next ((s.unitDone l).modLaunch l fun x => { x with met := met, since := s.tick, waits := [] })
      | (.inl (.wait ps), s) => .next (s.modLaunch l fun x => { x with waits := ps })
      | (.inl _, s) => .next (s.failLaunch l 3)
    | _, _ => .next s

/-! ### The count and the tables (R26, R145, R232, R244, R259, R260 step 4) -/

/-- A channel of a table entry, if its values and its teams are in range. -/
def chanEntry (bs : List Byte) (count : Nat) : Option Channel :=
  let f := fieldAt bs
  let c : Channel := { first := f 0 4, last := f 4 4, cons := f 8 4, slots := f 12 2, size := f 14 2, fifo := [] }
  if decide (c.first ≤ c.last) && decide (c.last < count) && decide (c.cons < count) && decide (1 ≤ c.slots)
      && decide (c.slots ≤ 256) && decide (64 ≤ c.size) && decide (c.size ≤ 4096) && c.size % 64 = 0 then some c
  else none

/-- The channels of a table of n entries. -/
def chanTable (bs : List Byte) (count n : Nat) : Option (Map Channel) :=
  (List.range n).foldr (fun i (t : Option (Map Channel)) =>
    match t, chanEntry ((bs.drop (16 * i)).take 16) count with
    | some t, some c => some ((i, c) :: t)
    | _, _ => none) (some [])

/-- An entry of a routing table that R232 allows. -/
def routeEntryOk (x : BitVec 32) : Bool :=
  x.extractLsb' 20 10 = 0 && (x.extractLsb' 30 2 = 3 || x.extractLsb' 0 20 = 0)

/-- Whether a routing table's header keeps R232. -/
def routeHeadOk (bs : List Byte) : Bool :=
  fieldAt bs 0 4 = 0x52540001 && decide (1 ≤ fieldAt bs 4 4) && decide (fieldAt bs 4 4 ≤ 1024) && fieldAt bs 8 8 = 0

/-- What reading one table of a launch comes to. -/
inductive TableRead where
  | got (f : Launch → Launch)
  | fail (status : Nat)
  | wait (ps : List PageRef)

/-- A table from its bytes: `ok` gives the launch's copy, or none where a rule is broken. -/
def tableOf (r : HubRead × State) (ok : List Byte → Option (Launch → Launch)) : TableRead × State :=
  match r with
  | (.bytes bs, s) =>
    match ok bs with
    | some f => (.got f, s)
    | none => (.fail 1, s)
  | (.wait ps, s) => (.wait ps, s)
  | (.fail, s) => (.fail 3, s)

/-- Read the routing table. -/
def State.readRtab (s : State) (id root va : Nat) : TableRead × State :=
  match s.unitRead id root va 16 with
  | (.bytes h, s) =>
    if !routeHeadOk h then (.fail 1, s)
    else
      let n := fieldAt h 4 4
      tableOf (s.unitRead id root (va + 16) (4 * n)) fun bs =>
        let t := (List.range n).map fun i => BitVec.ofNat 32 (fieldAt bs (4 * i) 4)
        if t.all routeEntryOk then some fun l => { l with rtab := some t } else none
  | (.wait ps, s) => (.wait ps, s)
  | (.fail, s) => (.fail 3, s)

/-- Read the next of the count and the tables. -/
def State.readTable (s : State) (l : Nat) (x : Launch) (r : Record) : TableRead × State :=
  match x.got with
  | 0 =>
    if r.caddr = 0 then (.got fun l => { l with count := r.tcount }, s)
    else tableOf (s.unitRead l x.root r.caddr 4) fun bs => some fun l => { l with count := leNat bs }
  | 1 =>
    if r.nchan = 0 then (.got id, s)
    else tableOf (s.unitRead l x.root r.chanp (16 * r.nchan)) fun bs =>
      (chanTable bs x.count r.nchan).map fun t => fun l => { l with chans := t }
  | 2 => if r.rtab = 0 then (.got id, s) else s.readRtab l x.root r.rtab
  | 3 =>
    if r.tree = 0 then (.got id, s)
    else tableOf (s.unitRead l x.root r.tree 64) fun bs => (treeDesc bs r).map fun _ => id
  | _ =>
    if r.sched = 0 then (.got id, s)
    else tableOf (s.unitRead l x.root r.sched (2 * r.slen)) fun bs =>
      let t := (List.range r.slen).map fun i => fieldAt bs (2 * i) 2
      if t.all fun v => v % 128 = 0 then some fun l => { l with sched := t } else none

/-- Read the count and the tables in order, as far as they can be read; a count of zero reads no table. -/
def State.readTables (id : Nat) : Nat → State → State
  | 0, s => s
  | n + 1, s =>
    match s.launches.get? id with
    | none => s
    | some x =>
      match x.record with
      | none => s
      | some r =>
        if 5 ≤ x.got || (x.got = 1 && x.count = 0) then
          s.modLaunch id fun l => { l with phase := .running, since := s.tick, waits := [] }
        else
          match s.readTable id x r with
          | (.got f, s) => State.readTables id n ((s.unitDone id).modLaunch id fun l => { f l with got := l.got + 1, waits := [] })
          | (.wait ps, s) => s.modLaunch id fun l => { l with waits := ps }
          | (.fail c, s) => s.failLaunch id c

/-- DEPENDENCES_MET (R260 step 4, R264). -/
def execDependencesMet (l : Nat) (s : State) : Host.Outcome State Fault Refusal :=
  match s.launches.get? l with
  | none => .next s
  | some x =>
    match x.phase, x.record with
    | .checked, some r =>
      if r.depList.all fun d => x.met.contains d.1 then
        .next (State.readTables l 7 (s.modLaunch l fun x => { x with phase := .tables }))
      else .next s
    | .tables, some _ => .next (State.readTables l 7 s)
    | _, _ => .next s

/-! ### Completion (R265) -/

/-- What a write of the launch unit comes to: it waits for pages or for a peer, it is done, or it is lost (R265). -/
inductive UnitWrite where
  | wait (ps : List PageRef)
  | done
  | lost
deriving DecidableEq, Repr

/-- A write of the launch unit to a peer device: asked once, done with its answer. -/
def State.peerWrite (s : State) (id peer va n : Nat) (kind : BitVec 8) (payload : List Byte) : UnitWrite × State :=
  match s.answerTo 0 id kind va n with
  | none => (.wait [], s.sendAsk 0 id peer 0 kind va n payload)
  | some none => (.wait [], s)
  | some (some bs) => (if bs.length = n then .done else .lost, s.unitDone id)

/-- A write or an atomic add of the launch unit for a launch (R174, R175, R191, R265). -/
def State.unitWrite (s : State) (id root va : Nat) (add : Bool) (n x : Nat) : UnitWrite × State :=
  let r := s.reachHub root va n (if add then .both else .write)
  if va % n ≠ 0 || (!add && r.isSc) || s.writePoisoned r.segs r.segs then (.lost, s)
  else
    match r with
    | .absent ps => (.wait ps.eraseDups, s)
    | .go (.peer p _) =>
      if add then s.peerWrite id p va 8 2 (natLE (atomCode .add) 1 ++ natLE (atomTyCode .uint64) 1 ++ natLE x 8 ++ natLE 0 8)
      else s.peerWrite id p va 0 1 (natLE x n)
    | .go (.mem segs _ _) =>
      let v := if add then leNat (s.readSegs segs) + x else x
      (.done, State.putSegs segs (natLE v n) s)
    | _ => (.lost, s)

/-- Whether every team of a launch is placed and freed, or of a killed launch every team that was placed. -/
def Launch.over (l : Launch) : Bool :=
  decide (l.phase = .running) && l.finished = l.next && (l.killed.isSome || decide (l.count ≤ l.next))

/-- The increment of the completion counter, and the end of the launch; its teams are forgotten. -/
def State.countUp (s : State) (id : Nat) (x : Launch) (r : Record) : State :=
  let done (s : State) : State :=
    { s with teams := s.teams.filter fun p => p.2.launch ≠ id }.modLaunch id fun l =>
      { l with phase := .complete, waits := [] }
  if r.cinc = 0 then done s
  else
    match s.unitWrite id x.root r.cinc true 8 r.cval.toNat with
    | (.wait ps, s) => s.modLaunch id fun l => { l with waits := ps }
    | (.done, s) => done s
    | (.lost, s) => done (s.report id 7 1)

/-- LAUNCH_COMPLETE (R265): STATUS, then the increment; a write that fails is lost and reported. -/
def execLaunchComplete (l : Nat) (s : State) : Host.Outcome State Fault Refusal :=
  match s.launches.get? l with
  | none => .next s
  | some x =>
    match x.record with
    | none => .next s
    | some r =>
      if x.phase = .counting then .next (s.countUp l x r)
      else if !x.over then .next s
      else
        match s.unitWrite l x.root (x.at' + 154) false 1 x.status with
        | (.wait ps, s) => .next (s.modLaunch l fun l => { l with waits := ps })
        | (w, s) =>
          let s := if w = .lost then s.report l 7 0 else s
          let s := s.modLaunch l fun l => { l with phase := .counting, waits := [] }
          .next (s.countUp l { x with phase := .counting } r)

/-- A page that a launch awaits cannot be served (R179, R260, R265). -/
def State.launchUnservable (s : State) (p : PageRef) : State :=
  forEach (s.launches.filter fun q => q.2.waits.contains p) (fun s q =>
    match q.2.phase, q.2.record with
    | .running, _ =>
      (s.report q.1 7 0).modLaunch q.1 fun l => { l with phase := .counting, waits := [] }
    | .counting, _ =>
      ({ s with teams := s.teams.filter fun t => t.2.launch ≠ q.1 }.report q.1 7 1).modLaunch q.1 fun l =>
        { l with phase := .complete, waits := [] }
    | .complete, _ => s
    | _, _ => s.failLaunch q.1 3) s

end Sys2Proof.Machine
end

