-- ==== Sys2Proof/Machine/Coll.lean ====
section
/-!
DEFINITION. Collectives: COLL, the read of its descriptor, the exchanges with the peers, time-outs and completion (R223,
R224, R225, R295). Which bytes each kind takes from each rank, and that rank 0 is the source of a broadcast, are
conventions of the model (see the log).
-/

namespace Sys2Proof.Machine

/-- COLL (R223): its packet goes to the hub (R20). -/
def execColl (o : DescOp) (s : State) : Host.Outcome State Fault Refusal :=
  issuePath s { u := o.base.need o.ra, du := [o.sd.toNat] } fun e s =>
    let addr := (o.base.read e + o.off.bytes 16).toNat
    if addr % 64 ≠ 0 then e.trap s 0x03 e.held false
    else e.engine s fun s =>
      let (id, k, s) := e.postEngine s 4 { e.newOp s (.coll addr none [] 0 ⟨[], none, false⟩) with ov := o.ov, cls := o.sl } []
      e.retire (e.setU (s.sendHub id (slackOf e.ctx.slk o.sl) addr) o.sd.toNat (BitVec.ofNat 64 k))

/-! ### The descriptor (R223) -/

/-- The device ids of a group, if they are distinct and in range. -/
def groupIds (bs : List Byte) (n : Nat) : Option (List Nat) :=
  let l := (List.range n).map fun i => fieldAt bs (2 * i) 2
  if (l.all fun x => decide (1 ≤ x) && decide (x ≤ 0x3FE)) && l.eraseDups.length = n then some l else none

/-- The fields of a descriptor as they stand, its group so many ranks. -/
def collFields (bs : List Byte) : CollDesc :=
  let f := fieldAt bs
  { kind := f 0 1, op := f 1 1, fmt := f 2 1, evt := f 3 1 % 2 = 1, count := f 4 4, src := f 8 8,
    dst := f 16 8, group := List.replicate (f 32 2) 0, rank := f 34 2, alg := f 36 1 }

/-- The descriptor that 64 bytes hold, without its group; and where the group lies and how long it is. -/
def collDesc (bs : List Byte) : Option (CollDesc × Nat × Nat) :=
  let f := fieldAt bs
  let d : CollDesc := { kind := f 0 1, op := f 1 1, fmt := f 2 1, evt := f 3 1 % 2 = 1, count := f 4 4, src := f 8 8,
                        dst := f 16 8, group := [], rank := f 34 2, alg := f 36 1 }
  let n := f 32 2
  if decide (d.kind ≤ 4) && decide (d.op ≤ 2) && decide (d.fmt ≤ 2) && decide (f 3 1 ≤ 1) && decide (1 ≤ d.count)
      && vaOk d.src 1 && vaOk d.dst 1 && vaOk (f 24 8) 1 && decide (2 ≤ n) && decide (n ≤ 1022) && decide (d.rank < n)
      && decide (d.alg ≤ 1) && f 37 3 = 0 && f 48 16 = 0 then some (d, f 24 8, n)
  else none

def CollDesc.elem (d : CollDesc) : Nat := if d.fmt = 1 then 2 else 4
/-- The bytes that one rank contributes to another. -/
def CollDesc.part (d : CollDesc) : Nat := d.count * d.elem
def CollDesc.ranks (d : CollDesc) : Nat := d.group.length
/-- Where this rank's contribution to a rank lies in its source: a block of its own for a reduce-scatter or an all-to-all. -/
def CollDesc.srcFor (d : CollDesc) (rank : Nat) : Nat :=
  if d.kind = 2 || d.kind = 4 then d.src + rank * d.part else d.src
/-- The bytes of the source. -/
def CollDesc.srcBytes (d : CollDesc) : Nat := if d.kind = 2 || d.kind = 4 then d.ranks * d.part else d.part
/-- The bytes of the destination. -/
def CollDesc.dstBytes (d : CollDesc) : Nat := if d.kind = 1 || d.kind = 4 then d.ranks * d.part else d.part
/-- Whether a rank's contribution to this one is needed. -/
def CollDesc.needs (d : CollDesc) (rank : Nat) : Bool := d.kind ≠ 3 || decide (rank = 0)
/-- Whether this rank contributes to others. -/
def CollDesc.sends (d : CollDesc) : Bool := d.kind ≠ 3 || decide (d.rank = 0)
/-- The ranks with which this one has an exchange. -/
def CollDesc.meets (d : CollDesc) : List Nat :=
  (List.range d.ranks).filter fun k => k ≠ d.rank && (d.sends || d.needs k)
/-- The bytes that an exchange with a rank moves. -/
def CollDesc.moved (d : CollDesc) (rank : Nat) : Nat := (if d.sends then d.part else 0) + if d.needs rank then d.part else 0

/-- A collective operation that may go on. -/
structure Coll where
  op : Op
  who : Who
  addr : Nat
  desc : Option CollDesc
  bufs : Map (List Byte)
  status : Nat
  step : Exchange
deriving DecidableEq, Repr

def State.coll? (s : State) (op : Nat) : Option Coll :=
  match s.readyOp op (fun w => match w with
    | .coll _ _ _ _ _ => true
    | _ => false) with
  | none => none
  | some o =>
    match o.work, s.opWho o with
    | .coll a d b st x, some w => some ⟨o, w, a, d, b, st, x⟩
    | _, _ => none

/-- Set what a collective holds. -/
def State.setColl (s : State) (op : Nat) (c : Coll) : State :=
  s.modOp op fun o => { o with work := .coll c.addr c.desc c.bufs c.status c.step }

/-- A read of a collective's engine: its packets leave with the slack that is left (R203). -/
def State.collRead (s : State) (op : Nat) (c : Coll) (va n : Nat) : HubRead × State :=
  match s.hubRead op 0 (s.slackLeft c.op) c.who.root va n with
  | (.bytes bs, s) => (.bytes bs, s.sendFromHub op (s.slackLeft c.op) (s.reachHub c.who.root va n .read).segs [])
  | r => r

/-- Where some bytes of a collective lie, as far as they can be read. -/
def State.collSegs (s : State) (c : Coll) (va n : Nat) : List (Nat × Nat) := s.readable none c.who.root va n

/-- A flit of a peer brings bytes of its contribution to a collective that has its descriptor. -/
def State.collTake (s : State) (f : Flit) : Option State :=
  s.pend.findSome? fun p =>
    match p.2.work with
    | .coll a (some d) bufs 0 x =>
      match d.group.idxOf? f.src.toNat with
      | some k =>
        let got := bufs.getD k []
        if k ≠ d.rank && d.needs k && decide (got.length < d.part) && decide (got.length + f.payload.length ≤ d.part) then
          some (s.modOp p.1 fun o => { o with work := .coll a (some d) (bufs.set k (got ++ f.payload)) 0 x })
        else none
      | none => none
    | _ => none

/-- Flits of collectives that came before their descriptor was read. -/
def State.collPull (s : State) : State :=
  forEach (s.hub.inbox.filter fun q => q.2.kind = 5) (fun s q =>
    match s.collTake q.2 with
    | some s => s.modHub fun h => { h with inbox := h.inbox.erase q }
    | none => s) s

/-- A collective takes its descriptor: its sources are watched (R192). -/
def State.takeColl (s : State) (op : Nat) (c : Coll) (d : CollDesc) (descr : List (Nat × Nat)) : State :=
  let s := s.setColl op { c with desc := some d }
  let s := s.modOp op fun o => (o.watch descr).watch (s.collSegs c d.src d.srcBytes)
  ((s.usedAsks op).modOp op fun o => { o with sent := s.tick }).collPull

/-- COLL_DESCRIPTOR_READ (R223): the descriptor and the group list. -/
def execCollDescriptorRead (op : Nat) (s : State) : Host.Outcome State Fault Refusal :=
  match s.coll? op with
  | none => .next s
  | some c =>
    if c.desc.isSome || c.status ≠ 0 then .next s
    else
      match s.collRead op c c.addr 64 with
      | (.wait ps, s) => .next (s.modOp op fun o => { o with faults := ps })
      | (.fail, s) => .next (s.setColl op { c with status := 2 })
      | (.bytes bs, s) =>
        let raw := { c with desc := some (collFields bs) }
        match collDesc bs with
        | none => .next (s.setColl op { raw with status := 3 })
        | some (d, g, n) =>
          match s.collRead op c g (2 * n) with
          | (.wait ps, s) => .next (s.modOp op fun o => { o with faults := ps })
          | (.fail, s) => .next (s.setColl op { raw with status := 2 })
          | (.bytes gs, s) =>
            match groupIds gs n with
            | none => .next (s.setColl op { raw with status := 3 })
            | some l => .next (s.takeColl op c { d with group := l } (s.collSegs c c.addr 64 ++ s.collSegs c g (2 * n)))

/-! ### Exchanges (R225) -/

/-- A STEP record in the hub's ring (R295), where the descriptor asks for events. -/
def State.stepRecord (s : State) (c : Coll) (d : CollDesc) (peer phase : Nat) : State :=
  let tail := natLE c.step.done.length 4 ++ natLE c.who.t.launch 8 ++ natLE c.op.num 8 ++ natLE peer 2 ++ natLE phase 1 ++ natLE 0 5
    ++ natLE (d.moved peer) 8 ++ natLE (10 * s.tick / 720720) 8
  if d.evt then s.modHub fun h => { h with ring := s.ringPut 0 h.ring 10 0 0 tail } else s

/-- This rank's contribution to an exchange leaves, in flits of at most 224 bytes (R220). -/
def State.collSend (s : State) (op : Nat) (c : Coll) (d : CollDesc) (peer : Nat) : State :=
  if !d.sends then s.setColl op { c with step := { c.step with sent := true } }
  else
    match s.collRead op c (d.srcFor peer) d.part with
    | (.wait ps, s) => s.modOp op fun o => { o with faults := ps }
    | (.fail, s) => s.setColl op { c with status := 2 }
    | (.bytes mine, s) =>
      let s := forEach (flitParts (d.srcFor peer) d.part) (fun s p =>
        s.depart (flitTo (d.group.getD peer 0) c.op.num 5 p.1 ((mine.drop (p.1 - d.srcFor peer)).take p.2)) (s.slackLeft c.op)) s
      s.setColl op { c with step := { c.step with sent := true } }

/-- Whether an exchange has brought and sent all. -/
def Coll.stepDone (c : Coll) (d : CollDesc) (peer : Nat) : Bool :=
  c.step.peer = some peer && c.step.sent && (!d.needs peer || (c.bufs.getD peer []).length = d.part)

/-- An exchange ends. -/
def State.endStep (s : State) (op : Nat) (c : Coll) (d : CollDesc) (peer : Nat) : State :=
  (s.stepRecord c d peer 1).setColl op { c with step := ⟨peer :: c.step.done, none, false⟩ }

/-- COLL_STEP (R225): an exchange with a peer starts, sends this rank's contribution, takes bytes of the peer's, and ends; its start
and its end are recorded where the descriptor asks for it. -/
def execCollStep (op : Nat) (m : CollMsg) (s : State) : Host.Outcome State Fault Refusal :=
  match s.coll? op with
  | none => .next s
  | some c =>
    match c.desc with
    | none => .next s
    | some d =>
      if c.status ≠ 0 || !d.meets.contains m.peer || c.step.done.contains m.peer then .next s
      else
        match m.data, c.step.peer with
        | none, none =>
          let c : Coll := { c with step := { c.step with peer := some m.peer } }
          .next ((((s.stepRecord c d m.peer 0).setColl op c).modOp op fun o => { o with sent := s.tick }).collSend op c d m.peer)
        | none, some p => if p = m.peer && !c.step.sent then .next (s.collSend op c d p) else .next s
        | some bs, _ =>
          let got := c.bufs.getD m.peer []
          if d.part < got.length + bs.length || (bs ≠ [] && !d.needs m.peer) then .next s
          else
            let c : Coll := if bs = [] then c else { c with bufs := c.bufs.set m.peer (got ++ bs) }
            if c.stepDone d m.peer then .next (s.endStep op c d m.peer) else .next (s.setColl op c)

/-- COLL_PEER_TIMEOUT (R224): a step has waited more than 65,536 ticks. -/
def execCollPeerTimeout (op : Nat) (s : State) : Host.Outcome State Fault Refusal :=
  match s.coll? op with
  | none => .next s
  | some c =>
    if c.desc.isSome && c.status = 0 && c.step.peer.isSome && decide (ticksLong 65536 < s.tick - c.op.sent) then
      .next (s.setColl op { c with status := 1 })
    else .next s

/-! ### Results (R224) -/

/-- The elements of a contribution. -/
def CollDesc.elems (d : CollDesc) (bs : List Byte) : List Nat := (List.range d.count).map fun i => fieldAt bs (d.elem * i) d.elem

/-- One reduction step on FP32 patterns or on integers. -/
def CollDesc.combine (d : CollDesc) (x y : Nat) : Nat :=
  if d.fmt = 2 then
    let a : BitVec 32 := BitVec.ofNat 32 x
    let b : BitVec 32 := BitVec.ofNat 32 y
    match d.op with
    | 0 => (a + b).toNat
    | 1 => if a.slt b then y else x
    | _ => if b.slt a then y else x
  else
    match d.op with
    | 0 => (Fmt.fp32.add .rne x y).bits
    | 1 => (Fmt.fp32.minMax true x y).bits
    | _ => (Fmt.fp32.minMax false x y).bits

/-- Reduce the values of one element in ascending rank: BF16 in FP32, rounded once at the end. -/
def CollDesc.reduce (d : CollDesc) (l : List Nat) : Nat :=
  let l := if d.fmt = 1 then l.map widen else l
  let r := match l with
    | [] => 0
    | x :: rest => rest.foldl d.combine x
  if d.fmt = 1 then (Fmt.bf16.ofVal .rne (Fmt.fp32.value r)).bits else r

/-- The destination's bytes from every rank's contribution. -/
def CollDesc.result (d : CollDesc) (bufs : Map (List Byte)) : List Byte :=
  let of (k : Nat) : List Byte := bufs.getD k []
  let all := (List.range d.ranks).map fun k => d.elems (of k)
  match d.kind with
  | 1 => (List.range d.ranks).flatMap of
  | 4 => (List.range d.ranks).flatMap of
  | 3 => of 0
  | _ => (List.range d.count).flatMap fun i => natLE (d.reduce (all.map fun l => l.getD i 0)) d.elem

/-- What a write of the hub comes to: SC pages are protection outcomes (R191), a poisoned sector that it does not cover
cannot be written. -/
def State.hubInto (s : State) (root va n : Nat) : Reach :=
  let r := s.reachHub root va n .write
  if r.isSc || s.writePoisoned r.segs r.segs then .prot else r

/-- A range that a collective's engine writes; a peer device acknowledges. -/
def State.hubPut (s : State) (op : Nat) (o : Op) (step : Nat) (r : Reach) (va : Nat) (bs : List Byte) : State :=
  match r with
  | .go (.peer p _) => s.askWrite op step p (s.slackLeft o) va bs
  | .go (.mem segs _ _) => ((State.putSegs segs bs s).unpoison segs).sendFromHub op (s.slackLeft o) [] segs
  | _ => s

/-- Whether a peer device has taken what a collective wrote there; none before it was written. -/
def State.hubTook (s : State) (op step : Nat) : Option Bool :=
  match s.hub.asks.filter fun a => a.owner = op && a.step = step && a.kind = 1 with
  | [] => none
  | l => some (l.all fun a => a.got = some [])

/-- End a collective: STATUS is written to its descriptor as far as that can be reached; the operation completes once that is
done. -/
def State.endColl (s : State) (op : Nat) (c : Coll) (status : Nat) : State :=
  let r := s.hubInto c.who.root (c.addr + 40) 8
  let s := (s.hubPut op c.op 2 r (c.addr + 40) (natLE status 8)).modOp op fun o => { o with finished := true }
  if r.isPeer || ((s.pend.get? op).any (·.leg = .request)) then s else s.closeOp op

/-- The result of a collective whose exchanges have all ended. -/
def State.collResult (s : State) (op : Nat) (c : Coll) (d : CollDesc) : State :=
  match s.collRead op c (d.srcFor d.rank) d.part with
  | (.wait ps, s) => s.modOp op fun o => { o with faults := ps }
  | (.fail, s) => s.setColl op { c with status := 2 }
  | (.bytes mine, s) =>
    let r := s.hubInto c.who.root d.dst d.dstBytes
    match r, s.hubInto c.who.root (c.addr + 40) 8 with
    | .absent ps, _ => s.modOp op fun o => { o with faults := ps.eraseDups }
    | _, .absent ps => s.modOp op fun o => { o with faults := ps.eraseDups }
    | .go _, _ =>
      let bufs := if d.needs d.rank then c.bufs.set d.rank mine else c.bufs
      let (bs, s) := if c.op.tainted then s.freeBytes d.dstBytes else (d.result bufs, s)
      let s := s.hubPut op c.op 1 r d.dst bs
      if r.isPeer then s else s.endColl op c 0
    | _, _ => s.setColl op { c with status := 2 }

/-- COLL_COMPLETE (R224): with every exchange ended the result is written; after a failure the destination is
indeterminate. -/
def execCollComplete (op : Nat) (s : State) : Host.Outcome State Fault Refusal :=
  match s.coll? op with
  | none => .next s
  | some c =>
    if c.op.finished then .next (s.closeOp op)
    else
      match c.desc, c.status with
      | none, 0 => .next s
      | none, st => .next (s.endColl op c st)
      | some d, 0 =>
        if !d.meets.all c.step.done.contains then .next s
        else
          match s.hubTook op 1 with
          | none => .next (s.collResult op c d)
          | some true => .next (s.endColl op c 0)
          | some false => .next (s.setColl op { c with status := 2 })
      | some d, st =>
        let r := s.hubInto c.who.root d.dst d.dstBytes
        let (bs, s) := s.freeBytes d.dstBytes
        .next ((s.hubPut op c.op 3 r d.dst bs).endColl op c st)

/-- A page that a collective awaits cannot be served: it ends with STATUS 2 (R224). -/
def State.collUnservable (s : State) (op : Nat) : State :=
  s.modOp op fun o => match o.work with
    | .coll a d b _ x => { o with faults := [], work := .coll a d b 2 x }
    | _ => o

end Sys2Proof.Machine
end

