-- ==== Sys2Proof/Machine/Trans.lean ====
section
/-!
DEFINITION. The transcendental units (R125 to R127, R362). FRCP, FRSQ, FSQRT and LOG2 are correctly rounded.
EXP2, FSIN, FCOS, FTANH and EXP2S give one of the values inside their bound, which the manual leaves to the
device: `Config.approxPick` chooses among them, by unit and input. Integers scaled by 2^320 stand for the exact
values: they are nearer to them than any input here can tell.
-/

namespace Sys2Proof.Machine

/-- The bits of the integer square root from bit k − 1 down, added to r. -/
def isqrtFrom (n : Nat) : Nat → Nat → Nat
  | 0, r => r
  | k + 1, r => isqrtFrom n k (if (r + 2 ^ k) * (r + 2 ^ k) ≤ n then r + 2 ^ k else r)

/-- The integer square root of a number below 2^256. -/
def isqrt (n : Nat) : Nat := isqrtFrom n 128 0

/-- 1 / x (R125). -/
def Fmt.recip (f : Fmt) (mode : Rnd) (v : FVal) : FRes :=
  match v with
  | .nan s => f.nanRes s
  | .inf a => f.zeroRes a
  | .fin a m e =>
    if m = 0 then f.infRes a
    else
      let k := bitLen m + 64
      f.round mode a (2 ^ k / m) (-(k : Int) - e) (2 ^ k % m ≠ 0)

/-- m × 2^e with an even exponent. -/
def evenExp (m : Nat) (e : Int) : Nat × Int := if e % 2 = 0 then (m, e) else (2 * m, e - 1)

/-- √x (R125). -/
def Fmt.sqrt (f : Fmt) (mode : Rnd) (v : FVal) : FRes :=
  match v with
  | .nan s => f.nanRes s
  | .inf a => if a then f.nanRes true else f.infRes false
  | .fin a m e =>
    if m = 0 then f.zeroRes a
    else if a then f.nanRes true
    else
      let (m, e) := evenExp m e
      let n := m * 2 ^ 100
      let r := isqrt n
      f.round mode false r (e / 2 - 50) (r * r ≠ n)

/-- 1 / √x (R125). -/
def Fmt.rsqrt (f : Fmt) (mode : Rnd) (v : FVal) : FRes :=
  match v with
  | .nan s => f.nanRes s
  | .inf a => if a then f.nanRes true else f.zeroRes false
  | .fin a m e =>
    if m = 0 then f.infRes a
    else if a then f.nanRes true
    else
      let (m, e) := evenExp m e
      let r := isqrt (2 ^ 160 / m)
      f.round mode false r (-80 - e / 2) (r * r * m ≠ 2 ^ 160)

/-- Bits of log2 of y / 2^256, for y / 2^256 in [1, 2): each squaring gives one, added to t. -/
def log2Bits : Nat → Nat → Nat → Nat
  | 0, _, t => t
  | k + 1, y, t =>
    let z := y * y / 2 ^ 256
    if z ≥ 2 ^ 257 then log2Bits k (z / 2) (2 * t + 1) else log2Bits k z (2 * t)

/-- log2 x (R125). The logarithm of a value that is no power of two is irrational, so 128 bits of it and the
knowledge that more lies below round it. -/
def Fmt.log2 (f : Fmt) (mode : Rnd) (v : FVal) : FRes :=
  match v with
  | .nan s => f.nanRes s
  | .inf a => if a then f.nanRes true else f.infRes false
  | .fin a m e =>
    if m = 0 then f.infRes true
    else if a then f.nanRes true
    else
      let l := bitLen m - 1
      let n : Int := (l : Int) + e
      if m = 2 ^ l then (if n = 0 then f.zeroRes false else f.round mode (n < 0) n.natAbs 0)
      else
        let t : Int := n * 2 ^ 128 + (log2Bits 128 (m * 2 ^ 256 / 2 ^ l) 0 : Nat)
        if t ≥ 0 then f.round mode false t.toNat (-128) true
        else f.round mode true (-t - 1).toNat (-128) true

/-! ### Fixed-point functions, scale 2^320 -/

def fixOne : Nat := 2 ^ 320

/-- The sum of x^k / k! from a term on. -/
def expFrom (x : Nat) : Nat → Nat → Nat → Nat → Nat
  | 0, _, _, s => s
  | n + 1, k, t, s => expFrom x n (k + 1) (t * x / fixOne / k) (s + t)

/-- e^x − 1 for x below 20. -/
def fixExpm1 (x : Nat) : Nat := expFrom x 220 2 x 0

/-- The sum of 2 / ((2k + 1) × 3^(2k+1)), which is ln 2. -/
def ln2From : Nat → Nat → Nat → Nat → Nat
  | 0, _, _, s => s
  | n + 1, k, p, s => ln2From n (k + 2) (p / 9) (s + p / k)
def fixLn2 : Nat := ln2From 110 1 (2 * fixOne / 3) 0

/-- arctan(1 / d) at a scale: alternating terms from 1/d down. -/
def atanFrom (d : Nat) : Nat → Nat → Int → Int → Int
  | 0, _, _, s => s
  | n + 1, k, p, s => atanFrom d n (k + 2) (-(p / ((d * d : Nat) : Int))) (s + p / (k : Int))

/-- 2π at scale 2^480, by Machin's formula. -/
def twoPi480 : Nat :=
  let one : Int := 2 ^ 496
  let a := atanFrom 5 120 1 (one / 5) 0
  let b := atanFrom 239 40 1 (one / 239) 0
  ((8 * (4 * a - b)) / 2 ^ 16).toNat

/-- The alternating sum of x^k / k! over k + 2j. -/
def sinFrom (x : Nat) : Nat → Nat → Int → Int → Int
  | 0, _, _, s => s
  | n + 1, k, t, s =>
    sinFrom x n (k + 2) (-(t * ((x * x / fixOne : Nat) : Int) / (fixOne : Int) / ((k * (k + 1) : Nat) : Int))) (s + t)

/-- A magnitude m × 2^e reduced modulo 2π, scale 2^320. -/
def fixReduce (m : Nat) (e : Int) : Nat :=
  (m * 2 ^ (e + 480).toNat) % twoPi480 / 2 ^ 160

def fixSin (x : Nat) : Int := sinFrom x 80 2 (x : Int) 0
def fixCos (x : Nat) : Int := sinFrom x 80 1 (fixOne : Int) 0

/-! ### The values inside a bound -/

/-- FP32 patterns in numerical order, −0 just below +0. -/
def orderOf (p : Nat) : Int := if p < 2 ^ 31 then (p : Int) else -((p - 2 ^ 31 : Nat) : Int) - 1
def ofOrder (i : Int) : Nat := if i ≥ 0 then i.toNat else 2 ^ 31 + (-i - 1).toNat

/-- One ulp of FP32 at v × 2^e, in units of 2^e. -/
def ulpAt (v : Nat) (e : Int) : Nat :=
  let q := max ((bitLen v : Int) - 1 + e) (-126) - 23
  2 ^ (q - e).toNat

/-- The orders of the smallest and of the greatest value of a format within `bound` of v (both × 2^e). -/
def ordersIn (f : Fmt) (v : Int) (bound : Nat) (e : Int) : Int × Int :=
  let a := v - (bound : Int)
  let b := v + (bound : Int)
  let at32 (p : Nat) : Int := orderOf (Fmt.fp32.ofVal .rne (f.value p)).bits
  (at32 (f.round .ru (a < 0) a.natAbs e).bits, at32 (f.round .rd (b < 0) b.natAbs e).bits)

/-- The device's choice among the FP32 values of an interval of orders (R126). -/
def pickIn (unit : Nat) (input : Nat) (lo hi : Int) : Nat :=
  ofOrder (lo + ((Config.approxPick unit 8 input % (hi - lo + 1).toNat : Nat) : Int))

/-- An FP32 value within `bound` of v (both × 2^e), not below the order `least`: the device's choice (R126). -/
def pickWithin (unit : Nat) (input : Nat) (v : Int) (bound : Nat) (e : Int) (least : Int) : Nat :=
  let (lo, hi) := ordersIn Fmt.fp32 v bound e
  pickIn unit input (max least lo) hi

/-- The interval of orders cut down to what keeps an element format's result within 1 ulp of that format (R126):
only an input that the format can hold is an input of its form. -/
def elementCut (f : Fmt) (input : Nat) (v : Int) (e : Int) (at' : Int × Int) : Int × Int :=
  if (f.ofVal .rne (Fmt.fp32.value input)).flags &&& fNX ≠ 0 then at'
  else
    let q := max ((bitLen v.natAbs : Int) - 1 + e) f.emin - f.mb
    let (lo, hi) := ordersIn f v (2 ^ (q - e).toNat) e
    (max at'.1 lo, min at'.2 hi)

/-- UF of an approximate unit's FP32 result, judged on the exact value v × 2^e rounded with an unbounded exponent
(R115). The manual does not say whether the exact value or the value that the device returns is judged: DESIGN
CHOICE (log 18). -/
def exactUf (neg : Bool) (v : Nat) (e : Int) : BitVec 32 := (Fmt.fp32.round .rne neg v e true).flags &&& fUF

/-- x × 2^320 as an integer, rounded down, for |x| below 2^64. -/
def fixOf (neg : Bool) (m : Nat) (e : Int) : Int := signedInt neg (m * 2 ^ (e + 320).toNat)

/-- 2^x of an FP32 pattern (R125). -/
def exp2F (p : Nat) : FRes :=
  match Fmt.fp32.value p with
  | .nan s => Fmt.fp32.nanRes s
  | .inf a => if a then Fmt.fp32.zeroRes false else Fmt.fp32.infRes false
  | .fin a m e =>
    if (bitLen m : Int) + e > 10 then
      if a then ⟨pickWithin 3 p 1 (ulpAt 1 (-1000)) (-1000) 0, fUF ||| fNX⟩ else ⟨Fmt.fp32.infMag, fOF ||| fNX⟩
    else
      let x := fixOf a m e
      let n := x / (fixOne : Int)
      let fr := (x % (fixOne : Int)).toNat
      if fr = 0 then
        if n < -149 then ⟨pickWithin 3 p 1 (ulpAt 1 n) n 0, fUF ||| fNX⟩ else Fmt.fp32.round .rne false 1 n
      else
        let v := fixOne + fixExpm1 (fr * fixLn2 / fixOne)
        let q : Int := n - 320
        let r := Fmt.fp32.round .rne false v q true
        if r.flags &&& fOF ≠ 0 then ⟨r.bits, r.flags ||| fNX⟩
        else ⟨pickWithin 3 p v (ulpAt v q) q 0, r.flags ||| fNX⟩

/-- EXP2S (R127): mantissa, exponent, flags. "Only a signalling NaN sets a flag" stands beside "the exact cases
give m = 1.0 without NX": the first is taken at its word, and no finite x sets NX (DESIGN CHOICE, log 18). -/
def exp2sF (p : Nat) : Nat × Int × BitVec 32 :=
  match Fmt.fp32.value p with
  | .nan s => (Fmt.fp32.nan, 0, flagIf s fNV)
  | .inf a => (if a then 0 else Fmt.fp32.infMag, 0, 0)
  | .fin a m e =>
    if (bitLen m : Int) + e > 31 then (if a then 0 else Fmt.fp32.infMag, 0, 0)
    else
      let x := fixOf a m e
      if x < -(2 ^ 30 * (fixOne : Int)) then (0, 0, 0)
      else if x ≥ 2 ^ 30 * (fixOne : Int) then (Fmt.fp32.infMag, 0, 0)
      else
        let n := x / (fixOne : Int)
        let fr := (x % (fixOne : Int)).toNat
        if fr = 0 then (0x3F800000, n, 0)
        else
          let v := fixOne + fixExpm1 (fr * fixLn2 / fixOne)
          let r := pickWithin 4 p v (ulpAt v (-320)) (-320) 0x3F800000
          if r ≥ 0x40000000 then (0x3F800000, n + 1, 0) else (r, n, 0)

/-- FSIN and FCOS of an FP32 pattern (R125). -/
def trigF (cos : Bool) (p : Nat) : FRes :=
  match Fmt.fp32.value p with
  | .nan s => Fmt.fp32.nanRes s
  | .inf _ => Fmt.fp32.nanRes true
  | .fin a m e =>
    if m = 0 then (if cos then ⟨0x3F800000, 0⟩ else Fmt.fp32.zeroRes a)
    else
      let r := fixReduce m e
      let v := if cos then fixCos r else if a then -(fixSin r) else fixSin r
      let bound := max (2 * ulpAt v.natAbs (-320)) (2 ^ 296)
      let (lo, hi) :=
        elementCut Fmt.bf16 p v (-320) (elementCut Fmt.fp16 p v (-320) (ordersIn Fmt.fp32 v bound (-320)))
      ⟨pickIn (if cos then 7 else 6) p lo hi, fNX ||| exactUf (v < 0) v.natAbs (-320)⟩

/-- FTANH of an FP32 pattern (R125). -/
def tanhF (p : Nat) : FRes :=
  match Fmt.fp32.value p with
  | .nan s => Fmt.fp32.nanRes s
  | .inf a => ⟨Fmt.fp32.sign a 0x3F800000, 0⟩
  | .fin a m e =>
    if m = 0 then Fmt.fp32.zeroRes a
    else
      let x := if (bitLen m : Int) + e > 8 then 10 * fixOne else (fixOf false m e).toNat
      if x ≥ 10 * fixOne then ⟨Fmt.fp32.sign a 0x3F800000, 0⟩
      else
        let g := fixExpm1 (2 * x)
        let v := g * fixOne / (g + 2 * fixOne)
        ⟨pickWithin 8 p (signedInt a v) (2 * ulpAt v (-320)) (-320) (-(2 ^ 31)),
          fNX ||| exactUf a v (-320)⟩

/-- An approximate unit in an element format (R126): the FP32 result rounded once under rne. NX is the FP32
result's or the rounding's. UF is the element format's (R115): the rounding's, or that of an inexact FP32 result
below the smallest normal element which the format holds as it is. -/
def approxIn (f : Fmt) (g : Nat → FRes) (p : Nat) : FRes :=
  if f = Fmt.fp32 then g p
  else
    let x := (Fmt.fp32.ofVal .rne (f.value p)).bits
    let y := g x
    let r := f.ofVal .rne (Fmt.fp32.value y.bits)
    let sn := flagIf (f.value p).isSnan fNV
    let small := y.flags &&& fNX ≠ 0 && r.flags &&& fNX = 0 && r.bits % 2 ^ (f.eb + f.mb) < 2 ^ f.mb
    ⟨r.bits, sn ||| (y.flags &&& ~~~ fUF) ||| r.flags ||| flagIf small fUF⟩

end Sys2Proof.Machine
end

