-- ==== Sys2Proof/Machine/FloatAlu.lean ====
section
/-!
DEFINITION. The floating instructions (R113 to R116, R125 to R129, R362 to R369) and GNORM (R231).
-/

namespace Sys2Proof.Machine

/-! ### Lanes of elements (R113) -/

/-- A lane from its elements' results; the flags are their union. -/
def packRes (l : List FRes) : Lane × BitVec 32 :=
  (BitVec.ofNat 32 (fromElements (l.map (·.bits))), l.foldl (fun f r => f ||| r.flags) 0)

def lane1 (ty : Ty) (f : Nat → FRes) (x : Nat) : Lane × BitVec 32 := packRes ((elements ty x).map f)
def lane2 (ty : Ty) (f : Nat → Nat → FRes) (x y : Nat) : Lane × BitVec 32 :=
  packRes (List.zipWith f (elements ty x) (elements ty y))
def lane3 (ty : Ty) (f : Nat → Nat → Nat → FRes) (x y z : Nat) : Lane × BitVec 32 :=
  packRes (List.zipWith (fun (g : Nat → FRes) z => g z) (List.zipWith f (elements ty x) (elements ty y)) (elements ty z))

/-- A floating value of source a or c. -/
def srcF (o : Arith) (a : ASrc) (e : Env) (s : State) (t : Nat) : Nat := (a.read o.ty e s t).toNat % 2 ^ 32

/-- Write a lane and its flags at retirement. -/
def Env.putF (e : Env) (s : State) (t d : Nat) (r : Lane × BitVec 32) : State := e.flag (e.setV s t d r.1) t r.2

/-- A floating instruction that writes one lane at retirement (R364). -/
def execLane (o : Arith) (f : Env → State → Nat → Lane × BitVec 32) (s : State) : Host.Outcome State Fault Refusal :=
  issueThreads s o.guard o.needs fun e ts s =>
    e.retire (forEach ts (fun s' t => e.putF s' t o.d.toNat (f e s t)) s)

/-- The two-source floating form of R364. -/
def execFloat2 (o : Arith) (f : Nat → Nat → FRes) (s : State) : Host.Outcome State Fault Refusal :=
  execLane o (fun e s t => lane2 o.ty f (srcF o o.a e s t) (o.b.readFloat o.ty e s t)) s

/-- The transcendental form of R362: long-latency. -/
def execFloat1 (o : Arith) (f : Nat → FRes) (s : State) : Host.Outcome State Fault Refusal :=
  issueThreads s o.guard o.needs fun e ts s =>
    e.retire (e.pending s .latency (ts.flatMap fun t =>
      let r := lane1 o.ty f (o.b.readFloat o.ty e s t)
      [e.resL s t o.d.toNat r.1, Res.flags t r.2]))

/-! ### The instructions -/

/-- FADD (R364). -/
def execFadd (o : Arith) (s : State) : Host.Outcome State Fault Refusal := execFloat2 o (o.ty.fmt.add o.rnd) s
/-- FSUB (R364). -/
def execFsub (o : Arith) (s : State) : Host.Outcome State Fault Refusal := execFloat2 o (o.ty.fmt.sub o.rnd) s
/-- FMUL (R364). -/
def execFmul (o : Arith) (s : State) : Host.Outcome State Fault Refusal := execFloat2 o (o.ty.fmt.mul o.rnd) s
/-- FMIN (R116, R364). -/
def execFmin (o : Arith) (s : State) : Host.Outcome State Fault Refusal := execFloat2 o (o.ty.fmt.minMax false) s
/-- FMAX (R116, R364). -/
def execFmax (o : Arith) (s : State) : Host.Outcome State Fault Refusal := execFloat2 o (o.ty.fmt.minMax true) s

/-- FMA (R367). -/
def execFma (o : Arith) (s : State) : Host.Outcome State Fault Refusal :=
  execLane o (fun e s t =>
    lane3 o.ty (o.ty.fmt.fma o.rnd) (srcF o o.a e s t) (o.b.readFloat o.ty e s t) (srcF o o.c e s t)) s

/-- FLDX (R366): one n for both elements. -/
def execFldx (o : Arith) (s : State) : Host.Outcome State Fault Refusal :=
  execLane o (fun e s t =>
    lane1 o.ty (fun x => o.ty.fmt.ldexp o.rnd x (o.b.readIndex e s t).toInt) (srcF o o.a e s t)) s

/-- FRND (R368). -/
def execFrnd (o : Arith) (s : State) : Host.Outcome State Fault Refusal :=
  execLane o (fun e s t => lane1 o.ty (o.ty.fmt.roundIntegral o.rnd) (o.b.readFloat o.ty e s t)) s

/-- FSPLIT (R369): mantissa and exponent, both at retirement. -/
def execFsplit (o : Arith) (s : State) : Host.Outcome State Fault Refusal :=
  issueThreads s o.guard (o.needs true) fun e ts s =>
    e.retire (forEach ts (fun s' t =>
      let (m, n, f) := fsplit (o.b.readFloat o.ty e s t)
      let d := o.d.toNat
      e.flag (e.setV (e.setV s' t d (BitVec.ofNat 32 m)) t (d + 1) (BitVec.ofInt 32 n)) t f) s)

/-- FRCP (R362). -/
def execFrcp (o : Arith) (s : State) : Host.Outcome State Fault Refusal := execFloat1 o (fun x => o.ty.fmt.recip o.rnd (o.ty.fmt.value x)) s
/-- FRSQ (R362). -/
def execFrsq (o : Arith) (s : State) : Host.Outcome State Fault Refusal := execFloat1 o (fun x => o.ty.fmt.rsqrt o.rnd (o.ty.fmt.value x)) s
/-- FSQRT (R362). -/
def execFsqrt (o : Arith) (s : State) : Host.Outcome State Fault Refusal := execFloat1 o (fun x => o.ty.fmt.sqrt o.rnd (o.ty.fmt.value x)) s
/-- LOG2 (R362). -/
def execLog2 (o : Arith) (s : State) : Host.Outcome State Fault Refusal := execFloat1 o (fun x => o.ty.fmt.log2 o.rnd (o.ty.fmt.value x)) s
/-- EXP2 (R362). -/
def execExp2 (o : Arith) (s : State) : Host.Outcome State Fault Refusal := execFloat1 o (approxIn o.ty.fmt exp2F) s
/-- FSIN (R362). -/
def execFsin (o : Arith) (s : State) : Host.Outcome State Fault Refusal := execFloat1 o (approxIn o.ty.fmt (trigF false)) s
/-- FCOS (R362). -/
def execFcos (o : Arith) (s : State) : Host.Outcome State Fault Refusal := execFloat1 o (approxIn o.ty.fmt (trigF true)) s
/-- FTANH (R362). -/
def execFtanh (o : Arith) (s : State) : Host.Outcome State Fault Refusal := execFloat1 o (approxIn o.ty.fmt tanhF) s

/-- EXP2S (R363): both registers are empty until written together. -/
def execExp2s (o : Arith) (s : State) : Host.Outcome State Fault Refusal :=
  issueThreads s o.guard (o.needs true) fun e ts s =>
    e.retire (e.pending s .latency (ts.flatMap fun t =>
      let (m, n, f) := exp2sF (o.b.readFloat o.ty e s t)
      let d := o.d.toNat
      [e.resL s t d (BitVec.ofNat 32 m), e.resL s t (d + 1) (BitVec.ofInt 32 n), Res.flags t f]))

/-! ### GNORM (R231) -/

/-- The weights of one thread renormalised: their new values and the flags (R231). -/
def gnorm (w : List Nat) : List Nat × BitVec 32 :=
  let add (a : FRes) (x : Nat) : FRes :=
    let r := Fmt.fp32.add .rne a.bits x
    ⟨r.bits, a.flags ||| r.flags⟩
  let sum := w.tail.foldl add ⟨w.headD 0, 0⟩
  if sum.bits % 2 ^ 31 = 0 then
    let r := Fmt.fp32.recip .rne (.fin false w.length 0)
    (w.map fun _ => r.bits, sum.flags ||| r.flags ||| fGZ)
  else
    let rs := w.map fun x => Fmt.fp32.div .rne x sum.bits
    (rs.map (·.bits), rs.foldl (fun f r => f ||| r.flags) sum.flags)

/-- GNORM (R231). -/
def execGnorm (o : GnormOp) (s : State) : Host.Outcome State Fault Refusal :=
  let regs := (List.range o.k.toNat).map (o.d.toNat + ·)
  issueThreads s o.guard { v := regs.map (·, false), dv := regs } fun e ts s =>
    e.retire (forEach ts (fun s' t =>
      let (ws, f) := gnorm (regs.map fun i => ((e.thread s t).reg i).val.toNat)
      e.flag (forEach (List.zip regs ws) (fun s' p => e.setV s' t p.1 (BitVec.ofNat 32 p.2)) s') t f) s)

end Sys2Proof.Machine
end

