-- ==== Sys2Proof/Machine/IntAlu.lean ====
section
/-!
DEFINITION. The integer and bit instructions (R109 to R111, R334 to R335, R345, R346, R353, R359, R370 to R372, R376,
R382, R383, R385 to R387, R392, R394, R399, R408).
-/

namespace Sys2Proof.Machine

/-- What an integer operation computes: from the width, whether the type is signed, the low w bits of sources a, b
and c, and b whole (R334, R345). Its low w bits are the result. -/
abbrev IntFn := Nat → Bool → Word → Word → Word → Word → Word

/-- The value of an integer operation for one thread, or for the path (R334). -/
def intValue (o : Arith) (f : IntFn) (e : Env) (s : State) (t : Nat) : Word :=
  let w := o.ty.width
  let y := o.b.readInt o.ty e s t
  f w o.ty.signed (lowBits w (o.a.read o.ty e s t)) (lowBits w y) (lowBits w (o.c.read o.ty e s t)) y

/-- The form of R334: per thread under a guard, or once per path (R323); written at retirement, no flag (R110). -/
def execInt (o : Arith) (f : IntFn) (s : State) : Host.Outcome State Fault Refusal :=
  if o.uform then
    issuePath s o.needs fun e s => e.retire (e.putU s o.ty o.d.toNat (intValue o f e s 0))
  else
    issueThreads s o.guard o.needs fun e ts s =>
      e.retire (forEach ts (fun s' t => e.putV s' o.ty t o.d.toNat (intValue o f e s t)) s)

/-! ### The operations -/

def opAdd : IntFn := fun _ _ x y _ _ => x + y
def opSub : IntFn := fun _ _ x y _ _ => x - y
def opMul : IntFn := fun _ _ x y _ _ => x * y
/-- Bits [2w−1:w] of the exact product (R371). -/
def opMulh : IntFn := fun w sg x y _ _ => BitVec.ofInt 64 (intOf w sg x * intOf w sg y / 2 ^ w)
def opMad : IntFn := fun _ _ x y z _ => x * y + z
def opMin : IntFn := fun w sg x y _ _ => if intOf w sg x ≤ intOf w sg y then x else y
def opMax : IntFn := fun w sg x y _ _ => if intOf w sg x ≥ intOf w sg y then x else y
def opAbs : IntFn := fun w sg _ y _ _ => BitVec.ofInt 64 ((intOf w sg y).natAbs : Int)
def opNeg : IntFn := fun _ _ _ y _ _ => -y
def opLea (sh : Nat) : IntFn := fun _ _ x y _ _ => x + y <<< sh
def opSel : IntFn := fun _ _ x y z _ => if z = 0 then y else x
def opMov : IntFn := fun _ _ _ y _ _ => y
def opAnd : IntFn := fun _ _ x y _ _ => x &&& y
def opOr : IntFn := fun _ _ x y _ _ => x ||| y
def opXor : IntFn := fun _ _ x y _ _ => x ^^^ y
def opNot : IntFn := fun _ _ _ y _ _ => ~~~y
/-- The shifts (R394): an amount of w or more gives 0, or the sign. -/
def opShl : IntFn := fun w _ x y _ _ => if y.toNat < w then x <<< y.toNat else 0
def opShr : IntFn := fun w _ x y _ _ => if y.toNat < w then x >>> y.toNat else 0
def opSar : IntFn := fun w _ x y _ _ => BitVec.ofInt 64 (signedOf w x / 2 ^ (min y.toNat w))
/-- The rotates (R392). -/
def opRol : IntFn := fun w _ x y _ _ => x <<< (y.toNat % w) ||| x >>> (w - y.toNat % w)
def opRor : IntFn := fun w _ x y _ _ => x >>> (y.toNat % w) ||| x <<< (w - y.toNat % w)
def opPopc : IntFn := fun _ _ _ y _ _ => BitVec.ofNat 64 ((List.range 64).countP fun i => y.getLsbD i)
def opClz : IntFn := fun w _ _ y _ _ => BitVec.ofNat 64 (w - bitLen y.toNat)

/-- The length of the bit field that b packs (R345). -/
def fieldLen (w : Nat) (b : Word) : Nat :=
  let pos := (b.extractLsb' 0 8).toNat
  if pos < w then min (b.extractLsb' 8 8).toNat (w - pos) else 0

def fieldMask (n : Nat) : Word := BitVec.ofNat 64 (2 ^ n - 1)

def opBfe : IntFn := fun w sg x _ _ b =>
  let ln := fieldLen w b
  if ln = 0 then 0
  else
    let f := (x >>> (b.extractLsb' 0 8).toNat) &&& fieldMask ln
    if sg then BitVec.ofInt 64 (signedOf ln f) else f

def opBfi : IntFn := fun w _ x _ z b =>
  let ln := fieldLen w b
  let pos := (b.extractLsb' 0 8).toNat
  if ln = 0 then z
  else (z &&& ~~~(fieldMask ln <<< pos)) ||| ((x &&& fieldMask ln) <<< pos)

/-! ### The instructions -/

/-- IADD (R371). -/
def execIadd (o : Arith) (s : State) : Host.Outcome State Fault Refusal := execInt o opAdd s
/-- ISUB (R371). -/
def execIsub (o : Arith) (s : State) : Host.Outcome State Fault Refusal := execInt o opSub s
/-- IMUL (R371). -/
def execImul (o : Arith) (s : State) : Host.Outcome State Fault Refusal := execInt o opMul s
/-- IMULH (R371). -/
def execImulh (o : Arith) (s : State) : Host.Outcome State Fault Refusal := execInt o opMulh s
/-- IMAD (R372). -/
def execImad (o : Arith) (s : State) : Host.Outcome State Fault Refusal := execInt o opMad s
/-- IMIN (R371). -/
def execImin (o : Arith) (s : State) : Host.Outcome State Fault Refusal := execInt o opMin s
/-- IMAX (R371). -/
def execImax (o : Arith) (s : State) : Host.Outcome State Fault Refusal := execInt o opMax s
/-- IABS (R370). -/
def execIabs (o : Arith) (s : State) : Host.Outcome State Fault Refusal := execInt o opAbs s
/-- INEG (R370). -/
def execIneg (o : Arith) (s : State) : Host.Outcome State Fault Refusal := execInt o opNeg s
/-- LEA (R376). -/
def execLea (o : Arith) (s : State) : Host.Outcome State Fault Refusal := execInt o (opLea o.sh.toNat) s
/-- SEL (R399). -/
def execSel (o : Arith) (s : State) : Host.Outcome State Fault Refusal := execInt o opSel s
/-- MOV (R382). -/
def execMov (o : Arith) (s : State) : Host.Outcome State Fault Refusal := execInt o opMov s
/-- MOVI (R383). -/
def execMovi (o : Arith) (s : State) : Host.Outcome State Fault Refusal := execInt o opMov s
/-- AND (R335). -/
def execAnd (o : Arith) (s : State) : Host.Outcome State Fault Refusal := execInt o opAnd s
/-- OR (R386). -/
def execOr (o : Arith) (s : State) : Host.Outcome State Fault Refusal := execInt o opOr s
/-- XOR (R408). -/
def execXor (o : Arith) (s : State) : Host.Outcome State Fault Refusal := execInt o opXor s
/-- NOT (R385). -/
def execNot (o : Arith) (s : State) : Host.Outcome State Fault Refusal := execInt o opNot s
/-- SHL (R394). -/
def execShl (o : Arith) (s : State) : Host.Outcome State Fault Refusal := execInt o opShl s
/-- SHR (R394). -/
def execShr (o : Arith) (s : State) : Host.Outcome State Fault Refusal := execInt o opShr s
/-- SAR (R394). -/
def execSar (o : Arith) (s : State) : Host.Outcome State Fault Refusal := execInt o opSar s
/-- ROL (R392). -/
def execRol (o : Arith) (s : State) : Host.Outcome State Fault Refusal := execInt o opRol s
/-- ROR (R392). -/
def execRor (o : Arith) (s : State) : Host.Outcome State Fault Refusal := execInt o opRor s
/-- POPC (R387). -/
def execPopc (o : Arith) (s : State) : Host.Outcome State Fault Refusal := execInt o opPopc s
/-- CLZ (R353). -/
def execClz (o : Arith) (s : State) : Host.Outcome State Fault Refusal := execInt o opClz s
/-- BFE (R345). -/
def execBfe (o : Arith) (s : State) : Host.Outcome State Fault Refusal := execInt o opBfe s
/-- BFI (R346). -/
def execBfi (o : Arith) (s : State) : Host.Outcome State Fault Refusal := execInt o opBfi s

/-! ### Division (R111, R359) -/

/-- Quotient, remainder and flags of R111, at width w. -/
def divide (w : Nat) (sg : Bool) (x y : Word) : Int × Int × BitVec 32 :=
  let a := intOf w sg x
  let b := intOf w sg y
  if b = 0 then
    (if sg then (if a ≥ 0 then 2 ^ (w - 1) - 1 else -(2 ^ (w - 1))) else 2 ^ w - 1, a, fDZ)
  else if sg && a = -(2 ^ (w - 1)) && b = -1 then (2 ^ (w - 1) - 1, 0, fOV)
  else (a.tdiv b, a.tmod b, 0)

/-- The result of DIV or REM and its flags. -/
def divValue (o : Arith) (rem : Bool) (e : Env) (s : State) (t : Nat) : Word × BitVec 32 :=
  let (q, r, f) := divide o.ty.width o.ty.signed (o.a.read o.ty e s t) (o.b.readInt o.ty e s t)
  (BitVec.ofInt 64 (if rem then r else q), f)

/-- DIV and REM (R359): long-latency; the uniform form's flags go to every held thread. -/
def execDivide (o : Arith) (rem : Bool) (s : State) : Host.Outcome State Fault Refusal :=
  if o.uform then
    issuePath s o.needs fun e s =>
      let (x, f) := divValue o rem e s 0
      e.retire (e.pending s .latency
        (Res.u o.d.toNat (extend o.ty.width o.ty.signed x) :: e.held.map fun t => Res.flags t f))
  else
    issueThreads s o.guard o.needs fun e ts s =>
      e.retire (e.pending s .latency (ts.flatMap fun t =>
        let (x, f) := divValue o rem e s t
        e.resV s o.ty t o.d.toNat x ++ [Res.flags t f]))

/-- DIV (R359). -/
def execDiv (o : Arith) (s : State) : Host.Outcome State Fault Refusal := execDivide o false s
/-- REM (R359). -/
def execRem (o : Arith) (s : State) : Host.Outcome State Fault Refusal := execDivide o true s

end Sys2Proof.Machine
end

