-- ==== Sys2Proof/Machine/CrossLane.lean ====
section
/-!
DEFINITION. The cross-lane instructions SHFL, SCAT, BCAST, LRED and LSCAN (R342, R378, R379, R397, R398, R400).
-/

namespace Sys2Proof.Machine

/-- Write a moved value: 64 bits to a pair, 32 bits otherwise (R397). -/
def Env.move (e : Env) (s : State) (ty : Ty) (t d : Nat) (x : Word) : State :=
  if ty.is64 then e.setV64 s t d x else e.setV s t d (x.setWidth 32)

/-- Write a value under a type: an integer extended by it (R109), a lane of floating elements whole (R342, R379). -/
def Env.putTyped (e : Env) (s : State) (ty : Ty) (t d : Nat) (x : Word) : State :=
  if ty.isInt then e.putV s ty t d x else e.setV s t d (x.setWidth 32)

/-- The registers of one thread that a vector source reads. -/
def Env.srcRefs (e : Env) (s : State) (ty : Ty) (v : VSrc) (t : Nat) : List RegRef :=
  (v.need ty.is64 false).map fun p => .v t ((e.thread s t).base + p.1)

/-- The index of a cross-lane move: the thread that thread t, at lane position i, reads (R400). -/
def shflFrom (mode : ShflMode) (lanes : List Nat) (t : Nat) (y : Nat) : Nat :=
  let i := lanes.idxOf t
  match mode with
  | .idx => lanes.getD y t
  | .up => if y ≤ i then lanes.getD (i - y) t else t
  | .down => lanes.getD (i + y) t
  | .xor => lanes.getD (i ^^^ y) t

/-- SHFL (R400): each executing thread reads va of the selected held thread, guard or not. An empty selected
register waits in block mode, and traps FEMPTY over the executing threads that selected it in trap mode. The
block-mode sources come first (R409): a trap-mode index that is empty traps once no selected register is waited for. -/
def execShfl (o : LaneOp) (s : State) : Host.Outcome State Fault Refusal :=
  let index : Needs := { u := o.b.needU o.rb, v := o.b.needV false o.rb }
  let dest : Needs := { dv := destV o.d.toNat o.ty.is64 }
  issueThreads s o.guard (if o.rb then dest else { index with dv := dest.dv }) fun e ts s =>
    let unread := index.starved e s ts
    let src (t : Nat) : Nat := shflFrom o.mode e.held t (o.b.readIndex e s t).toNat
    let missing (t : Nat) : List RegRef :=
      if unread.contains t then [] else (e.srcRefs s o.ty o.a (src t)).filter fun r => !e.full s r
    let starved := ts.filter fun t => unread.contains t || !(missing t).isEmpty
    if o.ra = false ∧ (ts.any fun t => !(missing t).isEmpty) then e.park s (.source (ts.flatMap missing))
    else if starved ≠ [] then e.trap s 0x02 starved false
    else e.retire (forEach ts (fun s' t => e.move s' o.ty t o.d.toNat (o.a.read o.ty e s (src t))) s)

/-- SCAT (R398): by ascending lane position; a later writer replaces an earlier one. -/
def execScat (o : LaneOp) (s : State) : Host.Outcome State Fault Refusal :=
  let needs : Needs :=
    { u := o.b.needU o.rb, v := o.b.needV false o.rb ++ o.a.need o.ty.is64 o.ra, dv := destV o.d.toNat o.ty.is64 }
  issueThreads s o.guard needs fun e ts s =>
    e.retire (forEach ts (fun s' t =>
      match e.held[(o.b.readIndex e s t).toNat]? with
      | some u => if ts.contains u then e.move s' o.ty u o.d.toNat (o.a.read o.ty e s t) else s'
      | none => s') s)

/-- BCAST (R342): one thread's va to every executing thread, 0 from a vacant lane. -/
def execBcast (o : LaneOp) (s : State) : Host.Outcome State Fault Refusal :=
  let needs : Needs := { u := o.b.needU o.rb, dv := destV o.d.toNat o.ty.is64 }
  issueThreads s o.guard needs fun e ts s =>
    match e.held[(o.b.readIndex e s 0).toNat]? with
    | none => e.retire (forEach ts (fun s' t => e.putTyped s' o.ty t o.d.toNat 0) s)
    | some u =>
      let missing := (e.srcRefs s o.ty o.a u).filter fun r => !e.full s r
      if missing ≠ [] then (if o.ra then e.trap s 0x02 ts false else e.park s (.source missing))
      else e.retire (forEach ts (fun s' t => e.putTyped s' o.ty t o.d.toNat (o.a.read o.ty e s u)) s)

/-! ### LRED and LSCAN (R379) -/

/-- One integer step. -/
def redInt (op : RedOp) (w : Nat) (sg : Bool) (r x : Word) : Word :=
  match op with
  | .add => lowBits w (r + x)
  | .min => opMin w sg r x 0 0
  | .max => opMax w sg r x 0 0
  | .and => r &&& x
  | .or => r ||| x
  | .xor => r ^^^ x

/-- One floating step on one element, rounded to nearest even. -/
def redFloat (op : RedOp) (f : Fmt) (r x : Nat) : FRes :=
  match op with
  | .min => f.minMax false r x
  | .max => f.minMax true r x
  | _ => f.add .rne r x

/-- One step of a reduction: the value and the flags so far. -/
def redStep (op : RedOp) (ty : Ty) (a : Word × BitVec 32) (x : Word) : Word × BitVec 32 :=
  if ty.isInt then (redInt op ty.width ty.signed a.1 (lowBits ty.width x), a.2)
  else
    let r := lane2 ty (redFloat op ty.fmt) a.1.toNat x.toNat
    (r.1.setWidth 64, a.2 ||| r.2)

/-- The identity of an operation (R379). -/
def redIdentity (op : RedOp) (ty : Ty) : Word :=
  let w := ty.width
  if ty.isInt then
    match op with
    | .add | .or | .xor => 0
    | .and => lowBits w (BitVec.allOnes 64)
    | .min => lowBits w (BitVec.ofInt 64 (if ty.signed then 2 ^ (w - 1) - 1 else 2 ^ w - 1))
    | .max => lowBits w (BitVec.ofInt 64 (if ty.signed then 2 ^ (w - 1) else 0))
  else
    let one (x : Nat) : Word := BitVec.ofNat 64 (if ty.packed then dup16 x else x)
    match op with
    | .min => one ty.fmt.infMag
    | .max => one (ty.fmt.sign true ty.fmt.infMag)
    | _ => 0

/-- The running values of a scan: before and after each element, and the flags at the end. -/
def scanFrom (op : RedOp) (ty : Ty) (a : Word × BitVec 32) : List Word → List (Word × Word) × BitVec 32
  | [] => ([], a.2)
  | x :: xs =>
    let b := redStep op ty a x
    let (l, f) := scanFrom op ty b xs
    ((a.1, b.1) :: l, f)

def redNeeds (o : RedLaneOp) : Needs := { v := o.b.need o.ty.is64 o.rb, dv := destV o.d.toNat o.ty.is64 }

/-- LRED. The executing threads in lane order are `ts`, since a lane map lists them so. With one executing thread R379's
text gives the value as it was read, and no step rounds it: a NaN then keeps its pattern and sets no flag, where R116
has every NaN written canonical. The pseudocode is followed: DESIGN CHOICE (log 18). -/
def execLred (o : RedLaneOp) (s : State) : Host.Outcome State Fault Refusal :=
  issueThreads s o.guard (redNeeds o) fun e ts s =>
    let val (t : Nat) : Word := if o.ty.isInt then lowBits o.ty.width (o.b.read o.ty e s t) else o.b.read o.ty e s t
    let r := (ts.tail.map val).foldl (redStep o.op o.ty) (val (ts.headD 0), 0)
    e.retire (forEach ts (fun s' t => e.flag (e.putTyped s' o.ty t o.d.toNat r.1) t r.2) s)

def execLscan (o : RedLaneOp) (s : State) : Host.Outcome State Fault Refusal :=
  issueThreads s o.guard (redNeeds o) fun e ts s =>
    let vals := ts.map fun t => o.b.read o.ty e s t
    let (l, f) := scanFrom o.op o.ty (redIdentity o.op o.ty, 0) vals
    e.retire (forEach (List.zip ts l) (fun s' p =>
      e.flag (e.putTyped s' o.ty p.1 o.d.toNat (if o.excl then p.2.1 else p.2.2)) p.1 f) s)

end Sys2Proof.Machine
end

