-- ==== Sys2Proof/Machine/Dests.lean ====
section
/-!
DEFINITION. The destinations of an instruction, which a skip fills with indeterminate values (R277).
-/

namespace Sys2Proof.Machine

/-- Destinations: vector, path-trace, uniform and set registers. -/
structure Dests where
  v : List Nat := []
  h : List Nat := []
  u : List Nat := []
  k : List Nat := []
deriving DecidableEq, Repr

/-- The destinations of an arithmetic word. -/
def arithDests (o : Arith) (pairD : Bool := false) : Dests :=
  { v := (Arith.needs o pairD).dv, u := (Arith.needs o pairD).du }

/-- n registers from one. -/
def regsFrom (d n : Nat) : List Nat := (List.range n).map (d + ·)

/-- The destination of a P slot. -/
def slotDests (op : POp) (a : PArgs) : List Nat := if op = .nop then [] else [a.d.toNat]

/-- The destinations of a P word. -/
def pairDests (op : POp) (a : PArgs) (b : PSlot) : Dests := { v := slotDests op a ++ slotDests b.op b.args }

/-- The destinations of the instructions that can trap or be skipped; the others have none. `w` is the launch's lane
group width. -/
def instrDests (i : Instr) (w : Nat) : Dests :=
  match i with
  | .iadd o | .isub o | .imul o | .imulh o | .imad o | .div o | .rem o | .imin o | .imax o | .iabs o | .ineg o | .lea o
  | .sel o | .mov o | .movi o | .and o | .or o | .xor o | .not o | .shl o | .shr o | .sar o | .rol o | .ror o | .popc o
  | .clz o | .bfe o | .bfi o | .fadd o | .fsub o | .fmul o | .fma o | .fmin o | .fmax o | .fldx o | .frnd o | .frcp o
  | .frsq o | .fsqrt o | .exp2 o | .log2 o | .fsin o | .fcos o | .ftanh o => arithDests o
  | .fsplit o | .exp2s o => arithDests o true
  | .cvt o => { v := destV o.d.toNat o.dty.is64 }
  | .qpack o => { v := regsFrom o.d.toNat 5 }
  | .qunp o => { v := regsFrom o.d.toNat (if o.ty = .fp32 then 32 else 16) }
  | .gnorm o => { v := regsFrom o.d.toNat o.k.toNat }
  | .shfl o | .scat o | .bcast o => { v := destV o.d.toNat o.ty.is64 }
  | .lred o | .lscan o => { v := destV o.d.toNat o.ty.is64 }
  | .test o | .testb o => { k := [o.kd.toNat] }
  | .sand o | .sor o | .sxor o | .sandn o | .snot o | .smov o | .sclr o | .sall o | .sheld o | .sfirst o | .suniF o =>
    { k := [o.kd.toNat] }
  | .scnt o => { u := [o.sd.toNat] }
  | .sld o => { k := [o.k.toNat] }
  | .sqpush o => { u := [o.sd.toNat] }
  | .sqpop o => { k := [o.k.toNat], u := [o.sd.toNat] }
  | .wait o => { u := [o.sd.toNat] }
  | .launch o | .gather o | .coll o => { u := [o.sd.toNat] }
  | .spawn o => { v := [o.d.toNat] }
  | .ld o | .lr o => { v := destV o.v.toNat o.ty.is64 }
  | .sc o => { v := [o.d.toNat] }
  | .atom o => { v := if o.ret then destV o.v.toNat (o.ty = .int64 || o.ty = .uint64) else [] }
  | .tagl o => { v := [o.d.toNat] }
  | .gnext o => { v := [o.d.toNat, o.s.toNat] }
  | .route o => { v := [o.d.toNat] }
  | .cpwait o => { u := match o.sd with
      | some d => [d.toNat]
      | none => [] }
  | .bcopy o => { u := [o.sd.toNat] }
  | .tlrd o => { u := [o.sd.toNat] }
  | .chrcv o => { u := [o.sd.toNat] }
  | .mdrnRegisters o => { v := regsFrom o.d.toNat ((o.n1.toNat + 1) * (64 / w)) }
  | .macq o => { u := [o.sd.toNat] }
  | .desc o => { v := [o.d.toNat], h := [o.hn.toNat] }
  | .pmovToVector o => { v := regsFrom o.v.toNat 2 }
  | .pmovToPath o => { h := [o.hn.toNat] }
  | .csrrTsw o => { v := [o.d.toNat] }
  | .csrr o => { u := [o.sd.toNat] }
  | .rdclk sd => { u := regsFrom sd.toNat 2 }
  | .pNop b => { v := slotDests b.op b.args }
  | .pMov a b => pairDests .mov a b
  | .pIadd a b => pairDests .iadd a b
  | .pIsub a b => pairDests .isub a b
  | .pAnd a b => pairDests .and a b
  | .pOr a b => pairDests .or a b
  | .pXor a b => pairDests .xor a b
  | .pShl a b => pairDests .shl a b
  | .pShr a b => pairDests .shr a b
  | .pSar a b => pairDests .sar a b
  | .pImin a b => pairDests .imin a b
  | .pImax a b => pairDests .imax a b
  | .pFadd a b => pairDests .fadd a b
  | .pFsub a b => pairDests .fsub a b
  | .pFmul a b => pairDests .fmul a b
  | .pFmin a b => pairDests .fmin a b
  | .pFmax a b => pairDests .fmax a b
  | .pNot a b => pairDests .not a b
  | .pIneg a b => pairDests .ineg a b
  | .pIabs a b => pairDests .iabs a b
  | _ => {}

/-- The set registers that an instruction names as sources beside its guard. -/
def setsOf (i : Instr) : List Nat :=
  match i with
  | .sand o | .sor o | .sxor o | .sandn o => [o.ka.toNat, o.kb.toNat]
  | .snot o | .smov o | .sfirst o | .suniF o => [o.ka.toNat]
  | .scnt o => [o.ka.toNat]
  | .sst o => [o.k.toNat]
  | .sqpush o => [o.k.toNat]
  | .applyG o | .applyF o => [o.ka.toNat]
  | .fork o => [o.ka.toNat, o.kb.toNat]
  | _ => []

end Sys2Proof.Machine
end

