-- ==== Sys2Proof/Machine/Matrix.lean ====
section
/-!
DEFINITION. The matrix arrays: weight tiles, passes, accumulator rows, drains, the quad reservation table (R122 to
R124, R130 to R146, R380, R381).
-/

namespace Sys2Proof.Machine

/-! ### Tiles (R123, R131) -/

/-- The products per cycle of a format (R123), none for one that the arrays do not take. -/
def matrixRate (elem : Nat) : Option Nat :=
  match elem with
  | 0 => some 1
  | 3 | 4 => some 2
  | 5 => some 4
  | _ => none

/-- The bytes of `outer` rows or columns of K elements (R131). -/
def matrixBytes (elem k outer : Nat) : Nat :=
  match elem with
  | 5 => outer * (k / 32) * 17
  | 0 => outer * k * 2
  | _ => outer * k

/-- Stored elements as BF16 patterns (R123). -/
def bf16s (fmt n : Nat) (bs : List Byte) : List (BitVec 16) :=
  (elemVals fmt bs n).map fun v => BitVec.ofNat 16 (Fmt.bf16.ofVal .rne v).bits

/-- Cut a list into rows of n. -/
def rowsOf {α : Type} (n : Nat) : Nat → List α → List (List α)
  | 0, _ => []
  | k + 1, l => l.take n :: rowsOf n k (l.drop n)

/-- The columns of a tile (R131): column j holds w(0, j) to w(K - 1, j). NB4 tiles are stored by column. -/
def Tile.columns (t : Tile) (n : Nat) : List (List (BitVec 16)) :=
  if t.elem = 5 then rowsOf t.k n t.vals
  else (List.range n).map fun j => (List.range t.k).map fun k => t.vals.getD (k * n + j) 0

/-- The rows of activations (R131): row i holds a(i, 0) to a(i, K - 1); with `.t` they are stored by k. -/
def activationRows (t : Bool) (m k : Nat) (vals : List (BitVec 16)) : List (List (BitVec 16)) :=
  if t then (List.range m).map fun i => (List.range k).map fun q => vals.getD (q * m + i) 0
  else rowsOf k m vals

/-- The sum of one output element (R124): w and a in ascending k, g products in a group. -/
def matrixSum (g : Nat) : Nat → List (BitVec 16 × BitVec 16) → Nat → Nat
  | 0, _, acc => acc
  | n + 1, l, acc =>
    match l.take g with
    | [] => acc
    | p :: ps =>
      let prod (x : BitVec 16 × BitVec 16) (y : Nat) : Nat :=
        (Fmt.fp32.fma .rne (widen x.1.toNat) (widen x.2.toNat) y).bits
      match ps with
      | [] => matrixSum g n (l.drop g) (prod p acc)
      | _ =>
        let s : FRes := addExact p (ps.headD (0, 0))
        let s := (ps.drop 1).foldl (fun y q => prod q y) s.bits
        matrixSum g n (l.drop g) (Fmt.fp32.add .rne acc s).bits
where
  /-- The exact product of a pair plus the exact product of the next, rounded once. -/
  addExact (p q : BitVec 16 × BitVec 16) : FRes :=
    let v (x : BitVec 16) : FVal := Fmt.bf16.value x.toNat
    match (v p.1).mul (v p.2), (v q.1).mul (v q.2) with
    | some a, some b => Fmt.fp32.sum .rne a b
    | _, _ => Fmt.fp32.nanRes false

/-- One output row of a pass. -/
def passRow (g k : Nat) (cols : List (List (BitVec 16))) (a : List (BitVec 16)) (acc : List Nat) : List (BitVec 32) :=
  (cols.zip acc).map fun p => BitVec.ofNat 32 (matrixSum g (k / g) (p.1.zip a) p.2)

/-! ### The weight state ahead (R130, R135) -/

/-- A tile by what checks see of it: K, ELEM, pair. -/
structure TileInfo where
  k : Nat
  elem : Nat
  pair : Bool
deriving DecidableEq, Repr

def Tile.info (t : Tile) : TileInfo := ⟨t.k, t.elem, t.pair⟩

/-- The live and shadow tiles that a context holds once the operations it has issued have taken effect. -/
def State.tilesAhead (s : State) (ctx : Nat) : Option TileInfo × Option TileInfo :=
  match s.ctxs.get? ctx with
  | none => (none, none)
  | some c =>
    (s.opsOf ctx fun _ => true).foldl (fun (p : Option TileInfo × Option TileInfo) o =>
      match o.2.work with
      | .mldw _ k fmt pair => (p.1, some ⟨k, fmt, pair⟩)
      | .mswp _ => (p.2, p.1)
      | _ => p) (c.live.map Tile.info, c.shadow.map Tile.info)

/-- Whether `.pair` is allowed: a pair team, on its leader core (R143). -/
def Env.pairOk (e : Env) : Bool := e.team.cores.length = 2 && e.team.side e.ctx.core = 0

/-- The other core of a pair team. -/
def Team.follower (t : Team) : Option Nat := t.cores[1]?

/-! ### Accumulator rows (R139, R140) -/

/-- The numbers of a run of rows. -/
def rowRun (row n : Nat) : List Nat := (List.range n).map (row + ·)

/-- Whether a team holds a run of rows of a core. -/
def Core.holds (c : Core) (team row n : Nat) : Bool :=
  decide (row + n ≤ 256) && (rowRun row n).all fun r => (c.rows.get? r).any (·.1 = team)

/-- Whether a run of rows of a core is free. -/
def Core.rowsFree (c : Core) (row n : Nat) : Bool := (rowRun row n).all fun r => (c.rows.get? r).isNone

/-- Rows go to a holder; 0 stands for rows that are released and not yet free (R140). -/
def Core.giveRows (c : Core) (team row n : Nat) : Core :=
  { c with rows := (rowRun row n).foldl (fun m r => m.set r (team, false)) c.rows }

/-- The contents of rows are indeterminate from here on. -/
def Core.blankRows (c : Core) (row n : Nat) : Core :=
  { c with acc := c.acc.filter fun p => !(decide (row ≤ p.1) && decide (p.1 < row + n)) }

/-- A row is 64 lanes; one that nothing has written since it was granted is indeterminate (R139). -/
def State.readRow (s : State) (core row : Nat) : List (BitVec 32) × State :=
  match (s.core core).acc.get? row with
  | some l => (l, s)
  | none => let (l, s) := s.freeLanes 64; (l.map (BitVec.ofNat 32), s)

def State.writeAcc (s : State) (core row : Nat) (l : List (BitVec 32)) : State :=
  s.modCore core fun c => { c with acc := c.acc.set row l }

/-- Whether two runs of rows overlap. -/
def runsMeet (a n b m : Nat) : Bool := decide (a < b + m) && decide (b < a + n)

/-- Whether a context's operations before one still use rows of a run: passes, drains, or both. -/
def State.rowsUsed (s : State) (ctx before row n : Nat) (passes drains : Bool) : Bool :=
  s.pend.any fun p => p.2.ctx = ctx && decide (p.1 < before) && (match p.2.work with
    | .mstr _ r m _ _ _ _ _ _ => passes && runsMeet r m row n
    | .mdrn r m _ _ _ => drains && runsMeet r m row n
    | _ => false)

/-- The cores whose arrays a pass runs on, or whose stores hold a row of a pair. -/
def passCores (w : Who) (pair : Bool) : List Nat :=
  match pair, w.t.follower with
  | true, some f => [w.core, f]
  | _, _ => [w.core]

/-- The rows that a pass writes or a drain reads, each a core and a row (R141, R143). -/
def State.rowsOf (s : State) (o : Op) : List (Nat × Nat) :=
  match o.work, s.opWho o with
  | .mstr _ r m _ pair _ _ _ _, some w => (passCores w pair).flatMap fun c => (rowRun r m).map (c, ·)
  | .mdrn r m _ _ pairs, some w => (rowRun r m).flatMap fun k => (passCores w (pairs.contains k)).map (·, k)
  | _, _ => []

/-- The cores whose stores an instruction of a context names: both for a leader's in a pair team (R139, R140). -/
def Env.storeCores (e : Env) : List Nat :=
  match e.pairOk, e.team.follower with
  | true, some f => [e.ctx.core, f]
  | _, _ => [e.ctx.core]

/-- MACQ (R139). -/
def execMacq (o : MacqOp) (s : State) : Host.Outcome State Fault Refusal :=
  issuePath s { du := [o.sd.toNat] } fun e s =>
    let n := o.n1.toNat + 1
    let c := s.core e.ctx.core
    match (List.range (257 - n)).find? fun r => c.rowsFree r n with
    | none => e.retire (e.setU s o.sd.toNat (BitVec.ofInt 64 (-1)))
    | some r =>
      if e.storeCores.all fun k => (s.core k).rowsFree r n then
        let s := forEach e.storeCores (fun s k => s.modCore k fun c => (c.giveRows e.ctx.team r n).blankRows r n) s
        e.retire (e.setU s o.sd.toNat (BitVec.ofNat 64 r))
      else e.retire (e.setU s o.sd.toNat (BitVec.ofInt 64 (-2)))

/-- The rows of a release are free once the context's earlier passes and drains of them are over (R140). Passes and drains of
other contexts that are in flight on them leave or read indeterminate values. -/
def State.freeReleased (s : State) (op : Nat) : State :=
  match s.pend.get? op with
  | none => s
  | some o =>
    match o.work, s.opWho o with
    | .mrel row n, some w =>
      if s.rowsUsed o.ctx op row n true true then s
      else
        let cores : List Nat := if w.t.cores.head? = some w.core then w.t.cores else [w.core]
        let free (c : Core) : Core := { c.blankRows row n with
          rows := c.rows.filter fun p => !(p.2.1 = 0 && decide (row ≤ p.1) && decide (p.1 < row + n)) }
        let s := forEach cores (fun s k => s.modCore k free) s
        let lost (q : Op) : List (Nat × Nat) := (s.rowsOf q).filter fun x => cores.contains x.1 && (rowRun row n).contains x.2
        let s := { s with pend := s.pend.map fun (p : Nat × Op) => (p.1, { p.2 with gone := p.2.gone ++ lost p.2 }) }
        s.finishOp op
    | _, _ => s

/-- MREL (R140): with nothing to wait for, the rows are free at once. -/
def execMrel (o : MrelOp) (s : State) : Host.Outcome State Fault Refusal :=
  issuePath s { u := o.row.need o.ra } fun e s =>
    let n := o.n1.toNat + 1
    let row := (o.row.read e).toNat
    if !(e.storeCores.all fun k => (s.core k).holds e.ctx.team row n) then e.trapAll s 0x0B
    else
      let s := forEach e.storeCores (fun s k => s.modCore k fun c => c.giveRows 0 row n) s
      (e.retire (e.pending s (.mrel row n) [])).freeReleased s.nextId

/-- MREL_ROWS_FREED (R140). -/
def execMrelRowsFreed (op : Nat) (s : State) : Host.Outcome State Fault Refusal := .next (s.freeReleased op)

/-! ### MLDW, MSWP (R134, R135, R381) -/

/-- The address of a matrix instruction, and what R133 says of a range from it: a trap code, or its place. -/
def Env.matrixPlace (e : Env) (addr n : Nat) : Except Nat Nat :=
  if addr % 16 ≠ 0 then .error 0x03
  else
    match sharedKey e.ctx.core e.team addr n with
    | some k => .ok k
    | none => .error 0x05

/-- The trap of a matrix instruction's range: ALIGN is per-thread, PROT of the path (R273). -/
def Env.trapRange (e : Env) (s : State) (code : Nat) : State :=
  if code = 0x03 then e.trap s code e.held false else e.trapAll s code

/-- MLDW (R134, R381). Its MATRIX checks come before its range's: an order that R133 does not give, the model's choice (log 65). -/
def execMldw (o : MldwOp) (s : State) : Host.Outcome State Fault Refusal :=
  issuePath s { u := o.base.need o.ra } fun e s =>
    let k := 8 * o.kq.toNat
    let fmt := slotElem (e.rcd.slot o.slot.toNat)
    let n := if o.pair then 128 else 64
    let bytes := matrixBytes fmt k n
    match matrixRate fmt with
    | none => e.trapAll s 0x0B
    | some r =>
      if 32 * r < k || (fmt = 5 && k % 32 ≠ 0) || (o.pair && !e.pairOk) then e.trapAll s 0x0B
      else
        match e.matrixPlace (o.base.read e + o.off.bytes 16).toNat bytes with
        | .error c => e.trapRange s c
        | .ok key => e.release s fun s =>
            e.retire (e.postEngine s 3 { e.newOp s (.mldw key k fmt o.pair) with
              ov := o.ov, cls := o.sl, srcs := [(key, bytes)] } []).2.2

/-- Whether a context has operations before one of some kinds. -/
def State.before (s : State) (ctx op : Nat) (p : Work → Bool) : Bool :=
  s.pend.any fun q => q.2.ctx = ctx && decide (q.1 < op) && p q.2.work

def Work.isMldw (w : Work) : Bool := match w with
  | .mldw _ _ _ _ => true
  | _ => false
def Work.isMswp (w : Work) : Bool := match w with
  | .mswp _ => true
  | _ => false
def Work.isMdrn (w : Work) : Bool := match w with
  | .mdrn _ _ _ _ _ => true
  | _ => false
def Work.isMstr (w : Work) : Bool := match w with
  | .mstr _ _ _ _ _ _ _ _ _ => true
  | _ => false

/-- Whether it is an operation's turn at the load or drain port of its arrays (R144): of those that can be served there, of other
contexts each its earliest, it has the least slack; at equal slack the oldest goes first (log 65). -/
def State.portTurn (s : State) (can : Nat → Op → Bool) (pairOf : Work → Bool) (op : Nat) (o : Op) : Bool :=
  let cores (q : Op) : List Nat := match s.opWho q with
    | some w => passCores w (pairOf q.work)
    | none => []
  let left := s.slackLeft o
  can op o && !(s.pend.any fun q => q.1 ≠ op && can q.1 q.2 && (cores q.2).any (cores o).contains
    && (decide (s.slackLeft q.2 < left) || (s.slackLeft q.2 = left && decide (q.1 < op))))

/-- Whether a load of weights can be served: the context's earlier loads and exchanges are over (R135, R144), its source lines are
present (R381). -/
def State.mldwCan (s : State) (op : Nat) (o : Op) : Bool :=
  o.work.isMldw && o.arrived? && !s.before o.ctx op (fun w => w.isMldw || w.isMswp) && s.present o.srcs

/-- MLDW_COMPLETE (R134, R381): the tile becomes the context's shadow tile, in its turn at the load port (R144). -/
def execMldwComplete (op : Nat) (s : State) : Host.Outcome State Fault Refusal :=
  match s.readyOp op Work.isMldw with
  | none => .next s
  | some o =>
    match o.work with
    | .mldw key k fmt pair =>
      let n := if pair then 128 else 64
      if !s.portTurn s.mldwCan (fun w => match w with
        | .mldw _ _ _ p => p
        | _ => false) op o then .next s
      else if s.segsPoisoned o.srcs then .next (s.failEngine op 0x10)
      else
        let (vals, s) := if o.tainted then let (l, s) := s.freeLanes (k * n); (l.map (BitVec.ofNat 16), s)
          else (bf16s fmt (k * n) (memReads s.mem key (matrixBytes fmt k n)), s)
        let s := s.modCtx o.ctx fun c => { c with shadow := some ⟨k, fmt, pair, vals⟩ }
        .next (s.finishOp op)
    | _ => .next s

/-- MSWP (R135). -/
def execMswp (pair : Bool) (s : State) : Host.Outcome State Fault Refusal :=
  issuePath s {} fun e s =>
    let t := s.tilesAhead e.ref.ctx
    let bad (x : Option TileInfo) : Bool := x.any (·.pair ≠ pair)
    if bad t.1 || bad t.2 then e.trapAll s 0x0B
    else if t = (none, none) then e.retire s
    else e.retire (e.pending s (.mswp pair) [])

/-- MSWP_TAKES_EFFECT (R135): after the context's earlier loads have completed and its earlier passes have read the live
plane. -/
def execMswpTakesEffect (op : Nat) (s : State) : Host.Outcome State Fault Refusal :=
  match s.readyOp op Work.isMswp with
  | none => .next s
  | some o =>
    if s.before o.ctx op (fun w => w.isMldw || w.isMswp || w.isMstr) then .next s
    else .next ((s.modCtx o.ctx fun c => { c with live := c.shadow, shadow := c.live }).finishOp op)

/-! ### MSTR and the reservation table (R136, R143 to R145) -/

/-- The requests that a quad's table holds (R144), by name. -/
def State.requestsOf (s : State) (quad : Nat) : List (Nat × Op) :=
  s.pend.filter fun p => (match p.2.work with
    | .mstr _ _ _ _ _ _ _ granted _ => !granted
    | _ => false) && (s.ctxs.get? p.2.ctx).any (·.core / 4 = quad)

/-- Whether a context is a home context (R145). -/
def Ctx.isHome (c : Ctx) : Bool := c.app.isNone && !c.bin

/-- MSTR (R136, R143). Its MATRIX checks come before its range's, and the limit of 16 requests (R144) holds in scheduled mode too:
neither is said (R133, R145), both are the model's choice (log 65). -/
def execMstr (o : MstrOp) (s : State) : Host.Outcome State Fault Refusal :=
  issuePath s { u := o.base.need o.ra ++ o.row.need o.rb } fun e s =>
    let m := o.m1.toNat + 1
    let fmt := slotElem (e.rcd.slot o.slot.toNat)
    let row := (o.row.read e).toNat
    match (s.tilesAhead e.ref.ctx).1, matrixRate fmt with
    | some t, some ra =>
      let g := min ((matrixRate t.elem).getD 1) ra
      let cores := passCores e.who o.pair
      if 32 * g < t.k || (fmt = 5 && (o.t || t.k % 32 ≠ 0)) || t.pair ≠ o.pair || (o.pair && !e.pairOk)
          || (e.rcd.sched ≠ 0 && !e.ctx.isHome)
          || !(cores.all fun c => (s.core c).holds e.ctx.team row m) then e.trapAll s 0x0B
      else
        let bytes := matrixBytes fmt t.k m
        match e.matrixPlace (o.base.read e + o.off.bytes 16).toNat bytes with
        | .error c => e.trapRange s c
        | .ok key =>
          if 16 ≤ (s.requestsOf (e.ctx.core / 4)).length then e.park s (.again .matrix)
          else e.release s fun s =>
            let mark (c : Core) : Core :=
              if o.pair then { c with rows := (rowRun row m).foldl (fun r i => r.set i (e.ctx.team, true)) c.rows } else c
            let s := forEach cores (fun s c => s.modCore c mark) s
            e.retire (e.postEngine s 3 { e.newOp s (.mstr key row m fmt o.pair o.clr o.t false none) with
              ov := o.ov, cls := o.sl, srcs := [(key, bytes)] } []).2.2
    | _, _ => e.trapAll s 0x0B

/-- A request of the table: its operation, whose it is, its priority and slack, the cores it needs. -/
structure Bid where
  op : Nat
  o : Op
  w : Who
  prio : Nat
  slack : Nat
  cores : List Nat
  sched : List Nat
deriving DecidableEq, Repr

/-- The order of the table (R144): priority, slack, age. -/
def Bid.beats (a b : Bid) : Bool :=
  if a.prio ≠ b.prio then decide (a.prio > b.prio)
  else if a.slack ≠ b.slack then decide (a.slack < b.slack)
  else decide (a.op < b.op)

/-- The requests of a quad that can be granted in the program order of their contexts, with the exchanges and drains that
precede them done; in reduced service only BF16 (R136). -/
def State.bids (s : State) (quad : Nat) : List Bid :=
  (s.requestsOf quad).filterMap fun p =>
    match p.2.work, s.opWho p.2, s.ctxs.get? p.2.ctx with
    | .mstr _ row m fmt pair _ _ _ _, some w, some c =>
      let first := !(s.requestsOf quad).any fun q => q.2.ctx = p.2.ctx && decide (q.1 < p.1)
      let ready := !s.before p.2.ctx p.1 Work.isMswp && !s.rowsUsed p.2.ctx p.1 row m false true
      let plain := fmt = 0 && c.live.all (·.elem = 0)
      if first && ready && (s.hub.service ≠ .reduced || plain) then
        some { op := p.1, o := p.2, w := w, prio := ((s.launchRecord c).map (·.prio)).getD 0, slack := s.slackLeft p.2,
               cores := passCores w pair, sched := ((s.launches.get? w.t.launch).map (·.sched)).getD [] }
      else none
    | _, _, _ => none

/-- Whether an array runs a pass that a request cannot follow: another context's (R137, R143). -/
def State.arrayBusy (s : State) (core ctx : Nat) : Bool :=
  s.pend.any fun p => (match p.2.work with
    | .mstr _ _ _ _ pair _ _ granted _ => granted && p.2.failed.isNone && p.2.ctx ≠ ctx &&
        (match s.opWho p.2 with
         | some w => (passCores w pair).contains core
         | none => false)
    | _ => false)

/-- The request that the table grants in arbitrated mode (R144): the best one whose arrays are free and that no better one
needs. -/
def State.choose (s : State) (l : List Bid) : Option Bid :=
  l.find? fun b => b.cores.all (fun c => !s.arrayBusy c b.o.ctx)
    && !(l.any fun x => x.beats b && x.cores.any b.cores.contains && x.op ≠ b.op)

/-- The home context of a group of a core's team, until it has retired (R145). -/
def State.homeOf (s : State) (launch core group : Nat) : Option Nat :=
  (s.ctxs.find? fun p => p.2.core = core && p.2.isHome && p.2.group = group &&
    (s.teams.get? p.2.team).any fun t => t.launch = launch).map Prod.fst

/-- The position of the schedule at or after one whose entry names a home context that is there (R145). -/
def State.schedPos (s : State) (launch quad : Nat) (sched : List Nat) : Nat → Nat → Option (Nat × Nat × Bool)
  | 0, _ => none
  | n + 1, pos =>
    let x := sched.getD (pos % sched.length) 0
    match s.homeOf launch (4 * quad + x / 2 ^ 14) (x / 2 ^ 7 % 64) with
    | some c => some (pos % sched.length, c, x / 2 ^ 13 % 2 = 1)
    | none => State.schedPos s launch quad sched n (pos + 1)

/-- Grant a request: its pass takes the live tile (R136); the array's planes are the context's (R130). -/
def State.grant (s : State) (b : Bid) : State :=
  let live := (s.ctxs.get? b.o.ctx).bind (·.live)
  let s := s.modOp b.op fun o => match o.work with
    | .mstr base row m fmt pair clr t _ _ => { o with work := .mstr base row m fmt pair clr t true live }
    | _ => o
  forEach b.cores (fun s c => s.modCore c fun k => { k with plane := some b.o.ctx }) s

/-- MATRIX_PASS_GRANT (R144, R145). -/
def execMatrixPassGrant (quad : Nat) (s : State) : Host.Outcome State Fault Refusal :=
  let l := s.bids quad
  match l.find? (·.sched ≠ []) with
  | none =>
    match s.choose l with
    | some b => .next (s.grant b)
    | none => .next s
  | some x =>
    let d := quad / 96
    let q := ((s.die d).quads.get? (quad % 96)).getD ⟨x.w.t.launch, 0⟩
    let pos := if q.launch = x.w.t.launch then q.pos else 0
    match s.schedPos x.w.t.launch quad x.sched x.sched.length pos with
    | none => .next s
    | some (i, c, pair) =>
      match l.find? fun b => b.o.ctx = c && (b.cores.length = 2) = pair && b.cores.all fun k => !s.arrayBusy k c with
      | none => .next s
      | some b =>
        .next ((s.grant b).modDie d fun y =>
          { y with quads := y.quads.set (quad % 96) ⟨x.w.t.launch, (i + 1) % x.sched.length⟩ })

/-- The columns of a pass on each of its cores. -/
def passColumns (t : Tile) (pair : Bool) : List (List (List (BitVec 16))) :=
  if pair then let l := t.columns 128; [l.take 64, l.drop 64] else [t.columns 64]

/-- Free accumulator lanes; every NaN in an accumulator is canonical (R124). -/
def canonLane (x : Nat) : BitVec 32 := if (Fmt.fp32.value x).isNan then BitVec.ofNat 32 Fmt.fp32.nan else BitVec.ofNat 32 x

/-- MATRIX_PASS_COMPLETE (R136, R146): the activations are read and the rows written. -/
def execMatrixPassComplete (op : Nat) (s : State) : Host.Outcome State Fault Refusal :=
  match s.readyOp op Work.isMstr with
  | none => .next s
  | some o =>
    match o.work, s.opWho o with
    | .mstr key row m fmt pair clr t true (some tile), some w =>
      if s.before o.ctx op Work.isMstr || !s.present o.srcs then .next s
      else if s.segsPoisoned o.srcs then .next (s.failEngine op 0x10)
      else
        let g := min ((matrixRate tile.elem).getD 1) ((matrixRate fmt).getD 1)
        let acts := activationRows t m tile.k (bf16s fmt (m * tile.k) (memReads s.mem key (matrixBytes fmt tile.k m)))
        let parts := (passCores w pair).zip (passColumns tile pair)
        let s := forEach parts (fun s p => forEach acts.zipIdx (fun s a =>
          let r := row + a.2
          let (old, s) := if clr then (List.replicate 64 0#32, s) else s.readRow p.1 r
          let (new, s) := if o.tainted then let (l, s) := s.freeLanes 64; (l.map canonLane, s)
            else (passRow g tile.k p.2 a.1 (old.map (·.toNat)), s)
          if o.gone.contains (p.1, r) then s.modCore p.1 (·.blankRows r 1) else s.writeAcc p.1 r new) s) s
        .next (s.finishOp op)
    | .mstr _ _ _ _ _ _ _ true none, _ => .next (s.finishOp op)
    | _, _ => .next s

/-! ### MDRN (R141, R380) -/

/-- The pair mark of a row (R141). -/
def Core.pairRow (c : Core) (r : Nat) : Bool := (c.rows.get? r).any (·.2)

/-- The registers of a drain (R141): each result holds, until it is written, the number of its column in the drained
rows. -/
def Env.drainRes (e : Env) (s : State) (vd n : Nat) : List Res :=
  let w := e.rcd.w
  (List.range n).flatMap fun k => (List.range 64).filterMap fun j =>
    (e.act.lanes[j % w]?).map fun t => Res.v t (e.lnum s t (vd + k * (64 / w) + j / w)) (BitVec.ofNat 32 (64 * k + j))

/-- A drain of the instruction at issue. -/
def Env.drainOp (e : Env) (s : State) (w : Work) (ov : Bool) (cls : BitVec 2) : Op :=
  { e.newOp s w with ov := ov, cls := cls, slack := slackOf e.ctx.slk cls, sent := s.tick }

/-- MDRN to registers (R141, R380). -/
def execMdrnRegisters (o : MdrnRegOp) (s : State) : Host.Outcome State Fault Refusal :=
  let per := 64 / ((s.env?).map fun e => e.rcd.w).getD 64
  let n := o.n1.toNat + 1
  let vd := o.d.toNat
  if vd + n * per > 224 then issuePath s {} fun e s => e.trapAll s 0x01
  else
    issuePath s { u := o.row.need o.rb, dv := (List.range (n * per)).map (vd + ·) } fun e s =>
      let row := (o.row.read e).toNat
      let c := s.core e.ctx.core
      if !c.holds e.ctx.team row n || (rowRun row n).any c.pairRow then e.trapAll s 0x0B
      else e.retire (e.post s { e.drainOp s (.mdrn row n 0 true []) o.ov o.sl with res := e.drainRes s vd n }).2

/-- The offset of a pair row's drain on each core of the pair, the same in both scratchpads (R141). An address of the partner's
window is taken modulo the scratchpad window; one of the column window, which both cores do not have, is out of range: the rule
says only "at the same offset", the rest is the model's choice (log 65). -/
def pairOffset (addr : Nat) : Nat := if addr < 0x100000 then addr % 0x80000 else addr

/-- The lines that a drain writes: of its address, or for rows of a pair pass on both cores; or a trap code (R133). -/
def Env.drainLines (e : Env) (s : State) (addr row n : Nat) : Except Nat (List Nat) :=
  match e.matrixPlace addr (256 * n) with
  | .error c => .error c
  | .ok _ =>
    let pair (k : Nat) : Bool := (s.core e.ctx.core).pairRow (row + k)
    let at' (core off : Nat) : List Nat := ((sharedKey core e.team off 256).map fun k => linesOf k 256).getD []
    if (List.range n).any pair && e.team.cores.any (fun c => (sharedKey c e.team (pairOffset addr) (256 * n)).isNone) then
      .error 0x05
    else
      .ok ((List.range n).flatMap fun k =>
        if pair k then e.team.cores.flatMap fun c => at' c (pairOffset addr + 256 * k)
        else at' e.ctx.core (addr + 256 * k))

/-- MDRN to scratchpad (R141, R380). Its MATRIX check comes before its range's, as for MLDW (log 65). -/
def execMdrnScratchpad (o : MdrnSpadOp) (s : State) : Host.Outcome State Fault Refusal :=
  issuePath s { u := o.base.need o.ra ++ o.row.need o.rb } fun e s =>
    let n := o.n1.toNat + 1
    let row := (o.row.read e).toNat
    if !(s.core e.ctx.core).holds e.ctx.team row n then e.trapAll s 0x0B
    else
      let addr := (o.base.read e + o.off.bytes 16).toNat
      match e.drainLines s addr row n with
      | .error c => e.trapRange s c
      | .ok lines =>
        let pairs := (rowRun row n).filter (s.core e.ctx.core).pairRow
        let s := (e.post s { e.drainOp s (.mdrn row n addr false pairs) o.ov o.sl with fills := lines }).2
        e.retire (forEach lines State.clearLine s)

/-- Write one row from a shared offset of a core. -/
def State.putRow (s : State) (core : Nat) (t : Team) (off : Nat) (r : List (BitVec 32)) : State :=
  match sharedKey core t off 256 with
  | none => s
  | some k => s.put k (r.flatMap fun x => natLE x.toNat 4)

/-- The row that a drain reads: indeterminate where it was freed before (R140). -/
def State.drainRow (s : State) (gone : List (Nat × Nat)) (core row : Nat) : List (BitVec 32) × State :=
  if gone.contains (core, row) then let (l, s) := s.freeLanes 64; (l.map (BitVec.ofNat 32), s) else s.readRow core row

/-- The rows of a drain to registers. -/
def State.drainRows (core : Nat) (gone : List (Nat × Nat)) : List Nat → State → List (BitVec 32) × State
  | [], s => ([], s)
  | r :: rs, s =>
    let (x, s) := s.drainRow gone core r
    let (l, s) := State.drainRows core gone rs s
    (x ++ l, s)

/-- Whether a drain can be served: the context's earlier drains are over (R144), and its earlier passes into the rows (R141). -/
def State.mdrnCan (s : State) (op : Nat) (o : Op) : Bool :=
  match o.work with
  | .mdrn row n _ _ _ => o.arrived? && !s.before o.ctx op Work.isMdrn && !s.rowsUsed o.ctx op row n true false
  | _ => false

/-- MDRN_COMPLETE (R141): in its turn at the drain port (R144). -/
def execMdrnComplete (op : Nat) (s : State) : Host.Outcome State Fault Refusal :=
  match s.readyOp op Work.isMdrn with
  | none => .next s
  | some o =>
    match o.work, s.opWho o with
    | .mdrn row n addr regs pairs, some w =>
      if !s.portTurn s.mdrnCan (fun w => match w with
        | .mdrn _ _ _ _ p => p ≠ []
        | _ => false) op o then .next s
      else if regs then
        let (vals, s) := State.drainRows w.core o.gone (rowRun row n) s
        let fill (r : Res) : Res := match r with
          | .v t r x => .v t r (vals.getD x.toNat 0)
          | r => r
        .next ((s.modOp op fun o => { o with res := o.res.map fill }).finishOp op)
      else
        let one (s : State) (k : Nat) : State :=
          if pairs.contains (row + k) then
            forEach w.t.cores (fun s c =>
              let (r, s) := s.drainRow o.gone c (row + k)
              s.putRow c w.t (pairOffset addr + 256 * k) r) s
          else
            let (r, s) := s.drainRow o.gone w.core (row + k)
            s.putRow w.core w.t (addr + 256 * k) r
        .next ((forEach (List.range n) one s).finishOp op)
    | _, _ => .next s

end Sys2Proof.Machine
end

