-- ==== Sys2Proof/Machine/Routing.lean ====
section
/-!
DEFINITION. Expert routing: gate slots (GMAX, GNEXT) and ROUTE (R226 to R238).
-/

namespace Sys2Proof.Machine

/-! ### Gate slots (R226) -/

/-- A gate slot's fields. -/
structure Gate where
  max : Nat
  win : List Nat
  round : Nat
deriving DecidableEq, Repr

def State.gate (s : State) (key : Nat) : Gate :=
  { max := memNat s.mem key 8, win := (memReads s.mem (key + 8) 8).map (·.toNat),
    round := min (memNat s.mem (key + 16) 1) 8 }

/-- The orderable score of an FP32 pattern. -/
def orderable (x : BitVec 32) : BitVec 32 := if x.getLsbD 31 then ~~~ x else x ^^^ 0x80000000#32
/-- The pattern of an orderable score. -/
def scoreOf (o : BitVec 32) : BitVec 32 := if o.getLsbD 31 then o ^^^ 0x80000000#32 else ~~~ o

/-- Offer one candidate (R227). -/
def State.offer (s : State) (key : Nat) (x : BitVec 32) (e : Nat) : State :=
  let g := s.gate key
  if e ≥ 0xFF || (Fmt.fp32.value x.toNat).isNan || (g.win.take g.round).contains e then s
  else
    let p := (orderable x).toNat * 2 ^ 32 + (0xFFFFFFFF - e)
    if p > g.max then s.put key (natLE p 8) else s

/-- Take one round of a slot (R228): the index and score, and the state after. -/
def State.takeRound (s : State) (key : Nat) : (BitVec 32 × BitVec 32) × State :=
  let g := s.gate key
  if g.round ≥ 8 then ((0xFFFFFFFF#32, 0), s)
  else
    let s := s.put (key + 16) (natLE (g.round + 1) 1)
    if g.max = 0 then ((0xFFFFFFFF#32, 0), s.put (key + 8 + g.round) (natLE 0xFF 1))
    else
      let e := 0xFFFFFFFF - g.max % 2 ^ 32
      let s := (s.put (key + 8 + g.round) (natLE e 1)).put key (natLE 0 8)
      ((BitVec.ofNat 32 e, scoreOf (BitVec.ofNat 32 (g.max / 2 ^ 32))), s)

/-- The place of a gate slot: the team's own scratchpad or a pair partner's part (R229). -/
def Env.gateKey (e : Env) (a : Nat) : Option Nat :=
  if a < 0x100000 then sharedKey e.ctx.core e.team a 32 else none

/-- The checks of GMAX and GNEXT, strong accesses as they are (R230): what holds the path's memory instructions back (R178, R191),
alignment, place, presence, the threads' own earlier stores to a slot. -/
def Env.gates (e : Env) (s : State) (o : GateOp) (ts : List Nat) (go : (Nat → Nat) → State) : State :=
  let addr (t : Nat) : Nat := e.addrOf s o.base o.idx (o.off.signExtend 64 * 32#64) t
  let key (t : Nat) : Nat := (e.gateKey (addr t)).getD 0
  let al := ts.filter fun t => decide (addr t % 32 ≠ 0)
  let pr := ts.filter fun t => (e.gateKey (addr t)).isNone
  match e.memHeld s with
  | some y => e.park s (.again y)
  | none =>
    if al ≠ [] then e.trap s 0x03 al false
    else if pr ≠ [] then e.trap s 0x05 pr false
    else if ts.any fun t => (linesOf (key t) 32).any (!s.linePresent ·) then e.parkAbsent s
    else if ts.any fun t => overlaps (s.ownStores e.ref.ctx e.ctx.team t) [(key t, 32)] then e.park s (.again .drain)
    else go key

/-- GMAX (R227): performed at once, by ascending tid. -/
def execGmax (o : GmaxOp) (s : State) : Host.Outcome State Fault Refusal :=
  issueThreads s o.guard
    { u := memNeedsU o.base o.ra,
      v := memNeedsV o.idx o.rb ++ o.vs.need false o.rc ++ o.ve.need false false } fun e ts s =>
    e.gates s o.toGateOp ts fun key =>
      let score (t : Nat) : BitVec 32 := (o.vs.read .fp32 e s t).setWidth 32
      let expert (t : Nat) : Nat := (lowBits 32 (o.ve.read .uint32 e s t)).toNat
      e.retire (forEach (sortNat ts) (fun s t => s.offer (key t) (score t) (expert t)) s)

/-- GNEXT (R228): the rounds are taken now, the registers written when it completes. -/
def execGnext (o : GnextOp) (s : State) : Host.Outcome State Fault Refusal :=
  issueThreads s o.guard
    { u := memNeedsU o.base o.ra, v := memNeedsV o.idx o.rb, dv := [o.d.toNat, o.s.toNat] } fun e ts s =>
    e.gates s o.toGateOp ts fun key =>
      let slots := ((sortNat ts).map key).eraseDups
      let step (p : List (Nat × BitVec 32 × BitVec 32) × State) (k : Nat) : List (Nat × BitVec 32 × BitVec 32) × State :=
        let (r, s) := p.2.takeRound k
        ((k, r.1, r.2) :: p.1, s)
      let (rounds, s) := slots.foldl step ([], s)
      let res := ts.flatMap fun t =>
        match rounds.find? fun r => r.1 = key t with
        | some r => [e.resL s t o.d.toNat r.2.1, e.resL s t o.s.toNat r.2.2]
        | none => []
      e.retire (e.pending s .gnext res)

/-- GNEXT_COMPLETE (R228). -/
def execGnextComplete (op : Nat) (s : State) : Host.Outcome State Fault Refusal := completeOp s op fun w => w = .gnext

/-! ### ROUTE (R234 to R237) -/

/-- A route descriptor. -/
structure RouteDesc where
  offs : Nat
  curs : Nat
  map : Nat
  nexp : Nat
deriving DecidableEq, Repr

def routeDesc (bs : List Byte) (shared : Bool) : Option RouteDesc :=
  let f (i n : Nat) : Nat := leNat ((bs.drop i).take n)
  let d : RouteDesc := ⟨f 0 8, f 8 8, f 16 8, f 24 4⟩
  let a (x : Nat) : Bool := x % 4 = 0 && (!shared || decide (x < 2 ^ 32))
  if a d.offs && a d.curs && a d.map && decide (1 ≤ d.nexp) && decide (d.nexp ≤ 1024) && f 28 4 = 0 then some d else none

/-- The kind of an expert in the launch's routing table; 0 is dispatch (R232). -/
def tableKind (rtab : Option (List (BitVec 32))) (e : Nat) : Nat :=
  match rtab with
  | none => 0
  | some t => if e < t.length then ((t.getD e 0).extractLsb' 30 2).toNat else 0

/-- The launch's routing table. -/
def State.rtabOf (s : State) (t : Team) : Option (List (BitVec 32)) := (s.launches.get? t.launch).bind (·.rtab)

/-- The expert of an item. -/
def expertOf (i : Item) : Nat := i.data.toNat % 2 ^ 32

/-- An item of a ROUTE with the words that it accesses: its two offsets and its cursor; none where it accesses no memory (R236). -/
abbrev RouteItem := Item × Option (Reach × Reach)

/-- What the words of items come to; each page is translated once for the offsets and once for the cursors (R169, R237). -/
def State.routeReach (w : Who) (shared : Bool) (d : RouteDesc) (l : List Item) (s : State) : List RouteItem × State :=
  let rtab := s.rtabOf w.t
  let reads (i : Item) : Bool := decide (expertOf i < d.nexp) && tableKind rtab (expertOf i) = 0
  let offs (i : Item) : Nat := d.offs + 4 * expertOf i
  let curs (i : Item) : Nat := d.curs + 4 * expertOf i
  let pages (f : Item → Nat) (n : Nat) : List Nat :=
    if shared then [] else pagesIn ((l.filter reads).map fun i => (f i, n))
  let (ta, s) := State.xlateAll (some w.core) (dieOf w.core) w.root .read (pages offs 8) s
  let (tb, s) := State.xlateAll (some w.core) (dieOf w.core) w.root .both (pages curs 4) s
  let place (t : List (Nat × XOut)) (va n : Nat) : Reach :=
    if shared then
      match sharedKey w.core w.t va n with
      | some k => .go (.mem [(k, n)] false false)
      | none => .prot
    else reachBy t w.root va n (some (dieOf w.core))
  (l.map fun i => (i, if reads i then some (place ta (offs i) 8, place tb (curs i) 4) else none), s)

/-- Bytes for a load of a thread of an operation's path; those of a peer device are asked for and come later (R221). -/
def State.pathRead (s : State) (w : Who) (op : Nat × Op) (step tid : Nat) (r : Reach) (va n : Nat) : Option (List Byte) × State :=
  match r with
  | .go (.peer p _) => s.askRead op.1 step p (s.slackLeft op.2) va n
  | _ => (some (s.seenSegs (s.ownStores w.ctx w.team tid) r.segs), s)

/-- A cursor's value, one added to it in one indivisible update; at a peer device it is an atomic request (R221, R237). -/
def State.cursor (s : State) (op : Nat × Op) (step : Nat) (r : Reach) (va : Nat) : Option Nat × State :=
  match r with
  | .go (.peer p _) =>
    match s.answerTo op.1 step 2 va 4 with
    | some got => (got.map leNat, s)
    | none => (none, s.sendAsk op.1 step p (s.slackLeft op.2) 2 va 4
        (natLE (atomCode .add) 1 ++ natLE (atomTyCode .uint32) 1 ++ natLE 1 4 ++ natLE 0 4))
  | _ =>
    let c := leNat (s.readSegs r.segs)
    (some c, State.putSegs r.segs (natLE (c + 1) 4) s)

/-- Where the items of a ROUTE stand: results, threads that have taken a slot, those that wait for a page, those that fail, those
that are not routed yet. -/
structure Routed where
  res : List Res
  map : List Item
  away : List (Item × List PageRef)
  fail : List (Nat × Item)
  left : List Item
deriving DecidableEq, Repr

/-- Route one thread that has passed R237's first step (R236); after one that waits for a peer device, the others wait in turn. -/
def State.routeOne (w : Who) (op : Nat × Op) (d : RouteDesc) (p : Routed × State) (x : RouteItem) : Routed × State :=
  let (r, s) := p
  let i := x.1
  let e := expertOf i
  let val (x : Nat) : List Res := resAt false i.tid i.dst (BitVec.ofNat 64 x)
  let later (s : State) : Routed × State := ({ r with left := r.left ++ [i] }, s)
  if r.left ≠ [] then later s
  else
    match x.2 with
    | none =>
      if e ≥ d.nexp then ({ r with res := r.res ++ val 0xFFFFFFFF ++ [.flags i.tid fKEY] }, s)
      else ({ r with res := r.res ++ val (0xFFFFFFF0 + tableKind (s.rtabOf w.t) e) }, s)
    | some (a, b) =>
      match readyOf [a, b] with
      | .wait ps => ({ r with away := r.away ++ [(i, ps)] }, s)
      | .fail c => ({ r with fail := r.fail ++ [(c, i)] }, s)
      | .ok =>
        match s.pathRead w op (2 * i.tid + 1) i.tid a (d.offs + 4 * e) 8 with
        | (none, s) => later s
        | (some ob, s) =>
          let lo := leNat (ob.take 4)
          let hi := leNat (ob.drop 4)
          match s.cursor op (2 * i.tid + 2) b (d.curs + 4 * e) with
          | (none, s) => later s
          | (some c, s) =>
            if hi ≥ lo && decide (c < hi - lo) && decide (lo + c < 0xFFFFFFF0) then
              let m : Item := { i with addr := (d.map + 4 * (lo + c)) % 2 ^ 64, data := i.data2, data2 := BitVec.ofNat 64 (lo + c) }
              ({ r with map := r.map ++ [m] }, s)
            else ({ r with res := r.res ++ val 0xFFFFFFFE }, s)

/-- What the MAP stores of a ROUTE come to: those that are performed, with the vd that they write, and of the others those that fail,
each with its code. -/
def State.mapReach (s : State) (w : Who) (a : Access) (l : List Item) : List Got × List (Nat × List Item) × List Got × State :=
  let (g, s) := State.reachAll w a l s
  let go := g.filter fun x => match x.2 with
    | .go _ => true
    | _ => false
  let pois := itemsOf go fun x => s.writePoisoned (go.flatMap (·.2.segs)) x.2.segs
  (go.filter fun x => !pois.contains x.1,
   [(0x05, itemsOf g fun x => x.2 = .prot), (0x04, itemsOf g fun x => x.2 = .bad), (0x10, pois)],
   g, s)

/-- The vd of a thread whose MAP store is performed. -/
def slotRes (l : List Got) : List Res := l.flatMap fun x => resAt false x.1.tid x.1.dst x.1.data2

/-- The access of MAP stores: weak stores, logged under an entry of their own (R236, R237). -/
def Access.mapStores (a : Access) (l : List Item) : Access :=
  { a with kind := .route 0 true, strong := false, items := l }

/-- The MAP stores of threads that have taken a slot (R237): what is performed writes vd; a store whose page is absent, or that fails,
keeps its place in the queue and its entry in the operand log (R178). -/
def State.routeMap (s : State) (w : Who) (a : Access) (l : List Item) : List Res × State :=
  if l = [] then ([], s)
  else
    let am := a.mapStores l
    let (fine, bad, g, s) := s.mapReach w am l
    let (id, s) := s.name
    let s := s.doStores w { am with kind := .st .uint32 } [] id
      (g.map fun x => if fine.contains x then x else (x.1, .absent []))
    let rest := g.filter (!fine.contains ·)
    let en : LogEntry := ⟨id, { am with items := rest.map Prod.fst }, (rest.flatMap (·.2.pages)).eraseDups, none⟩
    let s := if rest = [] then s else s.addEntry w.ctx en
    (slotRes fine, forEach bad (fun s b => s.failItems w.ctx en b.1 b.2) s)

/-- Items of a ROUTE become an entry of the operand log that has failed or awaits pages. -/
def State.routeLog (s : State) (w : Who) (a : Access) (l : List Item) (ps : List PageRef) (failed : Option Nat) : State :=
  if l = [] then s
  else
    let (id, s) := s.name
    let en : LogEntry := ⟨id, { a with items := l }, ps.eraseDups, failed⟩
    let s := s.addEntry w.ctx en
    if failed.isSome then s.holdEntry w.ctx en else s

/-- What R237's first step finds: the traps that leave no effect. -/
def State.routeFirst (s : State) (l : List RouteItem) : List (Nat × Item) :=
  l.flatMap fun x =>
    match x.2 with
    | none => []
    | some (a, b) =>
      match readyOf [a, b] with
      | .fail c => [(c, x.1)]
      | _ => if s.segsPoisoned (a.segs ++ b.segs) then [(0x10, x.1)] else []

/-- What reading a route descriptor comes to: for an operation, or at issue, which has none yet; what a peer device holds then
waits with no page. -/
def State.readRoute (s : State) (w : Who) (a : Access) (addr : Nat) (op : Option (Nat × Op)) : DescOut RouteDesc × State :=
  let i := onceItem addr
  let (r, s) := s.itemReach w { a with kind := .route addr false } i
  match readyOf [r] with
  | .fail c => (.fail c, s)
  | .wait ps => (.wait ps, s)
  | .ok =>
    if s.segsPoisoned r.segs then (.fail 0x10, s)
    else
      let (bs, s) := match op with
        | some p => s.pathRead w p 0 noTid r addr 32
        | none => (if r.isPeer then none else some (s.seenSegs (s.ownStores w.ctx w.team noTid) r.segs), s)
      match bs with
      | none => (.wait [], s)
      | some bs =>
        match routeDesc bs a.shared with
        | some d => (.ok d, s)
        | none => (.fail 0x05, s)

/-- Why a ROUTE waits for earlier accesses, as its loads and its cursor updates do on their own (R178, R185 to R187, R237). -/
def State.routeHeld (s : State) (w : Who) (a : Access) (d : RouteDesc) (before : Nat) (l : List RouteItem) : Option Why :=
  let at' (f : Item → Nat) (g : Reach × Reach → Reach) : List Got :=
    l.filterMap fun x => x.2.map fun p => ({ x.1 with addr := f x.1 }, g p)
  (s.mustDrain w { a with kind := .ld .uint64, strong := false } before (at' (fun i => d.offs + 4 * expertOf i) Prod.fst)).or
    (s.mustDrain w { a with kind := .atom .add .uint32 true } before (at' (fun i => d.curs + 4 * expertOf i) Prod.snd))

/-- The pieces of offsets and of cursors that items access. -/
def routeSegs (l : List RouteItem) : List (Nat × Nat) × List (Nat × Nat) :=
  (l.flatMap fun x => (x.2.map fun p => p.1.segs).getD [], l.flatMap fun x => (x.2.map fun p => p.2.segs).getD [])

/-- Route items for an operation, by ascending tid: their packets leave, results join the operation's, the rest is logged or waits for
a peer device. -/
def State.routeAll (s : State) (w : Who) (id : Nat) (a : Access) (d : RouteDesc) (l : List RouteItem) : State :=
  match s.pend.get? id with
  | none => s
  | some o =>
    let tids := sortNat (l.map (·.1.tid))
    let l := tids.flatMap fun t => l.filter (·.1.tid = t)
    let (r, s) := l.foldl (State.routeOne w (id, o) d) ((⟨[], [], [], [], []⟩ : Routed), s)
    let segs := routeSegs (l.filter fun x => !r.left.contains x.1)
    let s := s.sendBlocks id (s.slackLeft o) (segs.1 ++ segs.2) segs.2
    let (m, s) := s.routeMap w a r.map
    let s := s.modOp id fun o => { o with
      res := o.res ++ r.res ++ m, peer := r.left ≠ [], acc := if r.left = [] then none else some { a with items := r.left } }
    let s := s.routeLog w a (r.away.map Prod.fst) (r.away.flatMap Prod.snd) none
    forEach [0x05, 0x04, 0x10] (fun s c => s.routeLog w a ((r.fail.filter (·.1 = c)).map Prod.snd) [] (some c)) s

/-- The operation of a ROUTE for items. -/
def State.postRoute (s : State) (w : Who) (a : Access) (l : List Item) : Nat × State :=
  let (id, s) := s.name
  (id, { s with pend := s.pend.set id { opOf w a s .route with
    acc := some { a with items := l }, reqs := if a.shared then 0 else 3 * l.length } })

/-- An operation of a ROUTE whose items are all logged has nothing to complete. -/
def State.dropRoute (s : State) (id : Nat) : State :=
  match s.pend.get? id with
  | some o => if o.res = [] && o.acc.isNone && o.leg = .arrived then { s with pend := s.pend.erase id }.dropAsks id else s
  | none => s

/-- A ROUTE whose descriptor's page has translated or been found absent. -/
def Env.proceedRoute (e : Env) (s : State) (a : Access) (addr : Nat) : State :=
  let w := e.who
  let ts := a.items.map (·.tid)
  let empty (s : State) : State := forEach (a.items.flatMap a.dests) (fun s r => s.emptyIn w.ctx w.team w.uid r) s
  let (r, s) := s.itemReach w { a with kind := .route addr false } (onceItem addr)
  match s.mustDrain w { a with strong := false, once := true } s.nextId [(onceItem addr, r)] with
  | some y => e.park s (.again y)
  | none =>
    match s.readRoute w a addr none with
    | (.fail c, s) => e.trap s c ts false
    | (.wait [], s) =>
      let (id, s) := (empty s).postRoute w a a.items
      let s := (s.modOp id fun o => { o with peer := true })
      e.retire (match s.pend.get? id with
        | some o => (s.readRoute w a addr (some (id, o))).2
        | none => s)
    | (.wait ps, s) => e.retire ((empty s).routeLog w a a.items ps none)
    | (.ok d, s) =>
      let (l, s) := State.routeReach w a.shared d a.items s
      match s.routeFirst l with
      | [] =>
        let segs := routeSegs l
        let away := l.any fun x => x.2.any fun p => !(p.1.pages ++ p.2.pages).isEmpty
        if (segs.1 ++ segs.2).any fun p => (linesOf p.1 p.2).any (!s.linePresent ·) then e.parkAbsent s
        else if away && 16 ≤ s.logUsed e.ref.ctx then e.park s (.again .log)
        else if s.requests w.core + (if a.shared then 0 else 3 * a.items.length) > 1024 then e.park s (.again .requests)
        else
          match s.routeHeld w a d s.nextId l with
          | some y => e.park s (.again y)
          | none =>
            let (id, s) := (empty s).postRoute w a []
            e.retire ((s.routeAll w id a d l).dropRoute id)
      | l =>
        let code := if l.any (·.1 = 0x05) then 0x05 else if l.any (·.1 = 0x04) then 0x04 else 0x10
        e.trap s code ((l.filter fun p => p.1 = code).map (·.2.tid)) false

/-- ROUTE (R236). -/
def execRoute (o : RouteOp) (s : State) : Host.Outcome State Fault Refusal :=
  issueThreads s o.guard
    { u := o.base.need o.ra, v := o.e.need false o.rb ++ o.tag.need false o.rc, dv := [o.d.toNat] } fun e ts s =>
    let addr := (o.base.read e).toNat
    let item (t : Nat) : Item :=
      { tid := t, addr := addr, data := (o.e.read .uint32 e s t) &&& 0xFFFFFFFF#64,
        data2 := (o.tag.read .uint32 e s t) &&& 0xFFFFFFFF#64, dst := e.lnum s t o.d.toNat }
    let a := e.acc (.route addr false) o.sp true (fixedScope o.sp) o.ov o.sl (ts.map item) false
    e.accessWith s a fun s => e.proceedRoute s a addr

/-- The items that a ROUTE has left go on: for an operation, at its turn. Items that fail or that await a page leave it for the
operand log. -/
def State.routeGo (s : State) (w : Who) (id : Nat) (o : Op) (a : Access) (addr before : Nat) : State :=
  let none' (s : State) : State := s.modOp id fun o => { o with acc := none, peer := false }
  match s.readRoute w a addr (some (id, o)) with
  | (.fail c, s) => (none' s).routeLog w a a.items [] (some c)
  | (.wait [], s) => s
  | (.wait ps, s) => (none' s).routeLog w a a.items ps none
  | (.ok d, s) =>
    let (l, s) := State.routeReach w a.shared d a.items s
    let bad := s.routeFirst l
    let ok := l.filter fun x => !bad.any fun p => p.2 = x.1
    if (s.routeHeld w a d before ok).isSome then s
    else
      let s := forEach [0x05, 0x04, 0x10] (fun s c => s.routeLog w a ((bad.filter fun p => p.1 = c).map Prod.snd) [] (some c)) s
      s.routeAll w id a d ok

/-- ROUTE_COMPLETE (R236): what a peer device has answered is used; with every thread routed the values are written. -/
def execRouteComplete (op : Nat) (s : State) : Host.Outcome State Fault Refusal :=
  match s.readyOp op fun w => w = .route with
  | none => .next s
  | some o =>
    match o.acc, s.opWho o with
    | some a, some w =>
      match a.kind with
      | .route addr _ => .next (s.routeGo w op o { a with strong := true } addr op)
      | _ => .next ((s.dropAsks op).finishOp op)
    | _, _ => .next ((s.dropAsks op).finishOp op)

/-- A request of a ROUTE has failed at its peer (R222): for the descriptor all of its threads trap, else the one whose turn it is; the
others go on. -/
def State.failRoute (s : State) (id code : Nat) : State :=
  match s.pend.get? id with
  | none => s
  | some o =>
    match o.acc, s.opWho o with
    | some a, some w =>
      let all := s.hub.asks.any fun x => x.owner = id && x.step = 0 && x.got.isNone
      let its := if all then a.items else a.items.take 1
      let rest := a.items.filter (!its.contains ·)
      let s := s.modHub fun h => { h with asks := h.asks.filter fun x => !(x.owner = id && x.got.isNone) }
      (s.modOp id fun o => { o with
        acc := if rest = [] then none else some { a with items := rest }, peer := rest ≠ [] }).routeLog w a its [] (some code)
    | _, _ => s

/-- MAP stores that are logged replay (R237): what reaches its page is performed and writes vd. -/
def State.replayMap (s : State) (w : Who) (l : LogEntry) : State :=
  let a := l.acc
  let (fine, bad, g, s) := s.mapReach w a a.items
  let s := forEach bad (fun s b => s.failItems w.ctx l b.1 b.2) s
  let s := s.replayStores w l fine
  let s := if fine = [] then s else (s.postOp w { opOf w a s .route with res := slotRes fine } []).2
  (s.modCtx w.ctx fun c => c.dropItems l.id fun i => fine.any fun x => x.1 = i).awaitPages w.ctx l (g.flatMap (·.2.pages))

/-- A logged ROUTE replays for its threads: whole, or its MAP stores alone (R237). An earlier faulted store to what it reads or
updates goes first (R178). -/
def State.replayRoute (s : State) (w : Who) (l : LogEntry) (desc : Nat) (mapOnly : Bool) : State :=
  let a := l.acc
  if mapOnly then s.replayMap w l
  else
    let gone (s : State) : State := s.modCtx w.ctx fun c => c.dropItems l.id fun _ => true
    let (r, s) := s.itemReach w a (onceItem desc)
    if ((gone s).mustDrain w { a with strong := false, once := true } l.id [(onceItem desc, r)]).isSome then s.awaitPages w.ctx l []
    else
      match s.readRoute w a desc none with
      | (.fail c, s) => s.failItems w.ctx l c a.items
      | (.wait [], s) =>
        let (id, s) := (gone s).postRoute w a a.items
        let s := s.modOp id fun o => { o with peer := true }
        match s.pend.get? id with
        | some o => (s.readRoute w a desc (some (id, o))).2
        | none => s
      | (.wait ps, s) => s.awaitPages w.ctx l ps
      | (.ok d, s) =>
        let (x, s) := State.routeReach w a.shared d a.items s
        let bad := s.routeFirst x
        let ok := x.filter fun y => !bad.any fun p => p.2 = y.1
        if ((gone s).routeHeld w a d l.id ok).isSome then s.awaitPages w.ctx l []
        else
          let s := forEach [0x05, 0x04, 0x10] (fun s c => s.failItems w.ctx l c ((bad.filter fun p => p.1 = c).map Prod.snd)) s
          let (id, s) := (gone s).postRoute w a []
          (s.routeAll w id a d ok).dropRoute id

end Sys2Proof.Machine
end

