-- ==== Sys2Proof/Machine/Faults.lean ====
section
/-!
DEFINITION. The steps of the store queues, of translation, of the fault service and of traps: STORE_ACK (R186, R405),
TRANSLATION_COMPLETE (R169), the service of faults (R176 to R180), TRAP_ENTRY (R275), held traps (R179, R207), RFT (R277).
-/

namespace Sys2Proof.Machine

/-! ### Stores leave their queue (R178, R186, R405) -/

/-- Whether another context of a team holds an older store of the same thread: one thread's stores become visible in program
order (R186). -/
def State.olderStore (s : State) (ctx : Nat) (c : Ctx) (q : Store) : Bool :=
  s.ctxs.any fun p => p.1 ≠ ctx && p.2.team = c.team && p.2.queue.any fun x => x.tid = q.tid && decide (x.op < q.op)

/-- The oldest store of a context has left its queue; the operation ends with its last store. -/
def State.popStore (s : State) (ctx : Nat) (q : Store) : State :=
  let s := s.modCtx ctx fun c => { c with queue := c.queue.tail }
  if (s.ctxs.get? ctx).any fun c => c.queue.any (·.op = q.op) then s else s.finishOp q.op

/-- The head of a context's queue goes on: it is written, or its request leaves for its peer, whose acknowledgment ends it; `num` of
its operation names the peer (R221). -/
def State.drainStore (s : State) (ctx : Nat) (c : Ctx) (q : Store) : State :=
  if q.faulted || s.olderStore ctx c q then s
  else
    match s.pend.get? q.op with
    | none => s
    | some o =>
      if q.peer then
        if !s.hub.asks.any (·.owner = q.op) then s.askWrite q.op 0 o.num o.slack q.at' q.bytes
        else if s.asking q.op then s
        else (s.dropAsks q.op).popStore ctx q
      else if o.leg = .arrived then (s.put q.at' q.bytes).popStore ctx q
      else s

/-- A store operation of a context whose stores have all left the queue, and that has nothing to wait for. -/
def State.spentStore (s : State) (ctx : Nat) (c : Ctx) : Option Nat :=
  ((s.opsOf ctx fun o => o.work = .store && (o.leg = .arrived || o.peer)).find? fun p =>
    !(c.queue.any (·.op = p.1)) && !s.asking p.1).map Prod.fst

/-- STORE_ACK (R405). -/
def execStoreAck (ctx : Nat) (s : State) : Host.Outcome State Fault Refusal :=
  match s.ctxs.get? ctx with
  | none => .next s
  | some c =>
    match s.spentStore ctx c with
    | some id => .next ((s.dropAsks id).finishOp id)
    | none =>
      match c.queue with
      | q :: _ => .next (s.drainStore ctx c q)
      | [] => .next s

/-! ### Translation (R169) -/

/-- An access whose pages have been walked goes on. -/
def Env.afterWalk (e : Env) (s : State) (a : Access) : State :=
  match a.kind with
  | .sqpush _ _ | .sqpop _ _ => e.proceedSq s a
  | .cpa tag => e.proceedCpa s a tag
  | .strm id => if e.drained then e.proceedStrm s a id else e.park s (.again .drain)
  | .route d false => e.proceedRoute s a d
  | _ => e.proceed s a

/-! ### Replay (R177) -/

/-- Replay an entry by its kind. -/
def State.replayEntry (s : State) (ctx : Nat) (l : LogEntry) : State :=
  match s.who? ctx l.acc.uid with
  | none => s
  | some w =>
    let s := s.note w.core l.acc.uid l.acc.pc fun t => { t with flags := t.flags ||| 2#4 }
    match l.acc.kind with
    | .sqpush _ _ | .sqpop _ _ => s.replaySq w l
    | .cpa tag => s.replayCpa w l tag
    | .strm id => s.replayStrm w l id
    | .route d m => s.replayRoute w l d m
    | .word => s.modCtx ctx fun c => c.dropItems l.id fun _ => true
    | .desc op _ =>
      let ts := l.acc.items.map (·.tid)
      (s.modWalkers op fun z => if ts.contains z.tid then { z with held := false } else z).modCtx ctx fun c =>
        c.dropItems l.id fun _ => true
    | _ => s.replayAcc w l

/-- Entries of a context that await no page any more, only earlier accesses, replay (R177, R178). -/
def State.replayWaiting (s : State) (ctx : Nat) : State :=
  match s.ctxs.get? ctx with
  | none => s
  | some c => forEach (c.log.filter fun l => l.failed.isNone && l.pages = []) (fun s l => s.replayEntry ctx l) s

/-- TRANSLATION_COMPLETE (R169, R171, R175): the walks of the path's instruction are done, and it goes on; with none, entries of
its context that awaited only earlier accesses replay. -/
def execTranslationComplete (r : PathRef) (s : State) : Host.Outcome State Fault Refusal :=
  match s.act? r, s.ctxs.get? r.ctx with
  | some a, some c =>
    match a.status, s.envAt ⟨r, a.pc, 1⟩ with
    | .translating x, some _ =>
      match s.envAt ⟨r, a.pc, x.len⟩ with
      | some e =>
        if !s.running c || s.walking? a.uid then .next s
        else
          let s := s.walked a.uid (dieOf c.core)
          if !x.shared && 16 ≤ s.logUsed r.ctx then .next (e.park s (.again .log)) else .next (e.afterWalk s x)
      | none => .next s
    | _, _ => .next (s.replayWaiting r.ctx)
  | none, some _ => .next (s.replayWaiting r.ctx)
  | _, none => .next s

/-- Replay some items of a failed entry: they become an entry of their own again (R277). -/
def State.retryItems (s : State) (ctx : Nat) (l : LogEntry) (ts : List Nat) : State :=
  let mine (i : Item) : Bool := l.acc.once || ts.contains i.tid
  let its := l.acc.items.filter mine
  if its = [] then s
  else
    let (id, s) := s.name
    let f : LogEntry := { id := id, acc := { l.acc with items := its }, pages := [], failed := none }
    let move (q : Store) : Store := if q.entry = l.id && (its.any (·.tid = q.tid)) then { q with entry := id } else q
    let s := s.modCtx ctx fun c => { c.dropItems l.id mine with queue := c.queue.map move }
    (s.addEntry ctx f).replayEntry ctx f

/-! ### The fault service (R177, R179) -/

/-- Whether a page that is awaited has been served: it is the page named, or one of a 64 MiB page that is present now. -/
def State.served (s : State) (root va : Nat) (p : PageRef) : Bool :=
  p.root = root && (p.page = pageOf false va || (pageOf true p.page = pageOf true va && walk s.mem root p.page ≠ .absent))

/-- Paths whose next instruction lies on a page that has been served are ready. -/
def State.fetchServed (s : State) (hit : PageRef → Bool) : State :=
  let wake (n : Nat) (a : Act) : Act := match a.status with
    | .fetch p => if hit p then { a with status := .ready, since := n } else a
    | _ => a
  let ctx (c : Ctx) : Ctx := { c with p0 := c.p0.map (wake (s.cycOf c.core)), p1 := c.p1.map (wake (s.cycOf c.core)) }
  { s with ctxs := s.ctxs.map fun (p : Nat × Ctx) => (p.1, ctx p.2) }

/-- Engine operations know the sources that lie on pages now present (R192). -/
def State.rewatch (s : State) : State :=
  let now (o : Op) : List (Nat × Nat) :=
    match o.work, s.opWho o, (s.ctxs.get? o.ctx).bind s.launchRecord with
    | .bcopy src _ n _, some w, _ => if o.finished then [] else s.readable (some (dieOf w.core)) w.root src n
    | .gather _ (some d) rows, some w, _ => s.gatherSrcs w d rows
    | .desc _ (some d) _ _ _ _, some w, some r => s.treeSegs w d (slotElem (r.slot d.slot))
    | _, _, _ => []
  { s with pend := s.pend.map fun (p : Nat × Op) =>
      (p.1, { p.2 with srcs := p.2.srcs ++ (now p.2).filter (!p.2.srcs.contains ·) }) }

/-- FAULT_SERVICE_COMPLETE (R177): the table word is written; entries that await the page replay in log order, engine
operations and fetches go on. -/
def execFaultServiceComplete (p : PageService) (s : State) : Host.Outcome State Fault Refusal :=
  let s := (s.put (dieKey p.entryAt) (natLE p.entry.toNat 8)).relock
  let hit (q : PageRef) : Bool := s.served p.root p.va.toNat q
  let s := s.fetchServed hit
  let s := { s with pend := s.pend.map fun (q : Nat × Op) => (q.1, { q.2 with faults := q.2.faults.filter (!hit ·) }) }.rewatch
  let todo := s.ctxs.flatMap fun q => (q.2.log.filter fun l => l.failed.isNone && l.pages.any hit).map fun l => (q.1, l)
  .next (forEach todo (fun s q => s.replayEntry q.1 q.2) s).sweepLogs

/-- A page of an entry cannot be served: its logged threads trap PAGE (R179); a WAIT traps at its own instruction. -/
def State.entryUnservable (s : State) (ctx : Nat) (l : LogEntry) : State :=
    match l.acc.kind with
    | .word =>
      let s := s.modCtx ctx fun c => c.dropItems l.id fun _ => true
      match ([0, 1].find? fun slot => (s.act? ⟨ctx, slot⟩).any (·.uid = l.acc.uid)).map fun slot => PathRef.mk ctx slot with
      | some r =>
        match s.act? r with
        | some a =>
          match a.status with
          | .wait _ => s.trap r { code := 0x04, pc := l.acc.pc, uni := true, tids := a.lanes, entry := none, op := none, len := l.acc.len }
          | _ => s
        | none => s
      | none => s
    | _ => s.failItems ctx l 0x04 l.acc.items

/-- Threads of a descent whose node lies where a page or a peer's bytes are missing trap; the others go on (R222, R255). -/
def State.failWalkers (s : State) (id : Nat) (o : Op) (code : Nat) (at' : Who → Nat → Nat → Bool) : Option State :=
  match o.work, s.opWho o, (s.ctxs.get? o.ctx).bind s.launchRecord with
  | .desc _ (some d) hn _ l _, some w, some r =>
    let need := l.filter fun x => !x.complete && !x.held && decide (x.level < d.depth)
      && at' w (d.nodeAt x.node) (d.nodeBytes (slotElem (r.slot d.slot)))
    some (if need = [] then s else s.failNode id o w hn code need)
  | _, _, _ => none

/-- An operation's page cannot be served: a descent's node is left to its threads (R255), a stream ends (R160), every other
engine operation holds a uniform trap (R179). -/
def State.opUnservable (s : State) (id : Nat) (hit : PageRef → Bool) : State :=
  match s.pend.get? id with
  | none => s
  | some o =>
    match o.work with
    | .stream slot _ _ => s.failStream o.ctx slot id 0x04
    | .coll _ _ _ _ _ => s.collUnservable id
    | _ =>
      let t := s.modOp id fun o => { o with faults := o.faults.filter (!hit ·) }
      (t.failWalkers id o 0x04 fun w va n => (pagesOf w.root va n).any hit).getD (s.failEngine id 0x04)

/-- FAULT_UNSERVABLE (R179, R332). -/
def execFaultUnservable (root : Nat) (va : Word) (s : State) : Host.Outcome State Fault Refusal :=
  let hit (q : PageRef) : Bool := q.root = root && q.page = pageOf false va.toNat
  let ops := (s.pend.filter fun q => q.2.faults.any hit).map Prod.fst
  let todo := s.ctxs.flatMap fun q => (q.2.log.filter fun l => l.failed.isNone && l.pages.any hit).map fun l => (q.1, l)
  let paths := s.ctxs.flatMap fun q => [0, 1].filterMap fun slot =>
    match (q.2.stack slot).head? with
    | some a => (match a.status with
      | .fetch p => if hit p then some ((PathRef.mk q.1 slot), a) else none
      | _ => none)
    | none => none
  let s := forEach ops (fun s id => s.opUnservable id hit) s
  let s := forEach todo (fun s q => s.entryUnservable q.1 q.2) s
  let s := forEach paths (fun s q => s.fetchTrap q.1 q.2 0x04) s
  .next (s.sweepLogs.launchUnservable ⟨root, pageOf false va.toNat⟩)

/-- PAGE_INVALIDATION (R180): no TLB holds the page any more. -/
def execPageInvalidation (root : Nat) (va : Word) (s : State) : Host.Outcome State Fault Refusal :=
  let keep (t : TlbEntry) : Bool := !(t.root = root && t.page = pageOf t.big va.toNat)
  .next { s with
    dies := s.dies.map (fun (p : Nat × Die) => (p.1, { p.2 with tlb := p.2.tlb.filter keep })),
    cores := s.cores.map fun (p : Nat × Core) => (p.1, { p.2 with tlb := p.2.tlb.filter keep }) }

/-- LR_RESERVATION_EXPIRY (R196). -/
def execLrReservationExpiry (team tid : Nat) (s : State) : Host.Outcome State Fault Refusal :=
  match (s.thread team tid).bind (·.resv) with
  | some r => if 4096 ≤ s.cycOf (((s.thread team tid).map (·.core)).getD 0) - r.since then .next (s.modThread team tid fun th => { th with resv := none }) else .next s
  | none => .next s

/-! ### Engine operations that a handler lets go (R179, R240, R255, R277) -/

/-- A weight tile or accumulator rows that a skip leaves indeterminate. -/
def State.freeRows (s : State) (cores : List Nat) (row m : Nat) : State :=
  forEach cores (fun s c => s.modCore c fun k => k.blankRows row m) s

/-- A held engine operation completes as a skip. -/
def State.skipOp (s : State) (id : Nat) : State :=
  match s.pend.get? id with
  | none => s
  | some o =>
    match s.opWho o with
    | none => s
    | some w =>
      let s := match o.work with
        | .bcopy _ dst n dsp => s.freeRange id o w dsp dst n
        | .gather _ d rows => s.skipGather id o w d rows
        | .desc _ _ _ _ _ _ => s.skipDesc id o w
        | .ascd _ d _ l z => s.skipAscd w d l z
        | .mldw _ k fmt pair =>
          let (l, s) := s.freeLanes (k * if pair then 128 else 64)
          s.modCtx o.ctx fun c => { c with shadow := some ⟨k, fmt, pair, l.map (BitVec.ofNat 16)⟩ }
        | .mstr _ row m _ pair _ _ _ _ => s.freeRows (passCores w pair) row m
        | _ => s
      (s.dropAsks id).finishOp id

/-- A held engine operation goes on (R277, retry). -/
def State.retryOp (s : State) (id : Nat) : State := s.modOp id fun o => { o with failed := none, faults := [] }

/-! ### Held traps (R179, R207) -/

/-- The path that a held trap was for has ended: entries and operations issued once per path complete as skips; the threads of
a per-thread entry take the trap where they are now. -/
def State.dropHeld (s : State) (ctx : Nat) (h : Held) : State :=
  let s := s.modCtx ctx fun c => { c with held := c.held.erase h }
  match h.trap.op, h.trap.entry with
  | some id, _ => s.skipOp id
  | none, some id =>
    match s.entry? id with
    | none => s
    | some (c, l) =>
      if l.acc.once then s.skipItems c l fun _ => true
      else s.holdEntry c { l with acc := { l.acc with items := l.acc.items.filter fun i => h.trap.tids.contains i.tid } }
  | none, none => s

/-- HELD_TRAP_RAISE (R179): at the path's instruction boundary; or a held trap whose path has ended is dropped. -/
def execHeldTrapRaise (r : PathRef) (s : State) : Host.Outcome State Fault Refusal :=
  match s.ctxs.get? r.ctx with
  | none => .next s
  | some c =>
    match c.held.find? fun h => !c.alive h.uid with
    | some h => .next ((s.dropHeld r.ctx h).settle c.team)
    | none =>
      if s.running c then
        match s.raiseHeld r with
        | some s => .next s
        | none => .next s
      else .next s

/-- OVERDUE_TRAP (R207): the first trap held for the path is OVERDUE, and the path is about to issue. -/
def execOverdueTrap (r : PathRef) (s : State) : Host.Outcome State Fault Refusal :=
  match s.ctxs.get? r.ctx with
  | none => .next s
  | some c =>
    match (c.stack r.slot).head? with
    | none => .next s
    | some a =>
      match c.held.find? (·.uid = a.uid) with
      | some h =>
        if h.trap.code = 0x0A && s.running c then
          match s.raiseHeld r with
          | some s => .next s
          | none => .next s
        else .next s
      | none => .next s

/-- TRAP_ENTRY (R275): a path that was stopped by its trap starts its handler once the context runs no other. -/
def execTrapEntry (r : PathRef) (s : State) : Host.Outcome State Fault Refusal :=
  match s.ctxs.get? r.ctx with
  | none => .next s
  | some c =>
    match (c.stack r.slot).head? with
    | none => .next s
    | some a =>
      match a.status with
      | .trapped t => if !c.nest && s.running c then .next (s.trap r t) else .next s
      | _ => .next s

/-! ### RFT (R277) -/

/-- The destinations of a skipped instruction become full with indeterminate values. -/
def State.skipDests (s : State) (r : PathRef) (team w : Nat) (a : Act) (i : Instr) (ts : List Nat) : State :=
  let d := instrDests i w
  let base (t : Nat) : Nat := ((s.thread team t).map (·.base)).getD 0
  let res : List Res := (ts.flatMap fun t => (d.v.map fun n => Res.v t (base t + n) 0) ++ d.h.map fun n => Res.h t n 0)
    ++ (d.u.map fun n => Res.u n 0) ++ d.k.map fun n => Res.k n .empty
  forEach res (fun s x => s.freeRes r.ctx a.uid x) s

/-- CALL, CALLV and RET move the path's one code position: resume and skip act as retry. -/
def movesCode (i : Instr) : Bool :=
  match i with
  | .call _ | .callv _ | .ret => true
  | _ => false

/-- The threads that were to execute the trapping instruction and were not in the handler. -/
def Act.others (a : Act) (ts : List Nat) : List Nat := (a.only.getD a.lanes).filter fun x => !ts.contains x

/-- The trapping path goes on after its instruction; the others, if there are any, execute it first, alone. -/
def Act.past (t : TrapInfo) (ts : List Nat) (a : Act) : Act :=
  if t.uni || a.others ts = [] then { a with pc := t.pc + 8 * t.len, only := none } else { a with only := some (a.others ts) }

def State.resumePast (s : State) (r : PathRef) (team : Nat) (t : TrapInfo) (ts : List Nat) : State :=
  (s.modAct r (·.past t ts)).settle team

/-- RFT on a trap of an instruction: the handler's threads and the others by ACT. -/
def State.afterTrap (s : State) (r : PathRef) (team w act : Nat) (t : TrapInfo) (ts : List Nat) : State :=
  match s.act? r with
  | none => s
  | some a =>
    let i : Instr := match a.last with
      | some f => f.instr.1
      | none => .illegalWord
    let act := if act ≠ 3 && (t.len = 0 || movesCode i) then 1 else act
    match act with
    | 0 => s.resumePast r team t ts
    | 1 => s
    | 2 => (s.skipDests r team w a i ts).resumePast r team t ts
    | _ => (if t.len = 0 then s else s.modAct r (·.past t ts)).endThreads team ts

/-- RFT on a trap of an operand-log entry. -/
def State.afterEntry (s : State) (team act id : Nat) (ts : List Nat) : State :=
  let s := match s.entry? id with
    | none => s
    | some (c, l) =>
      if act = 1 then s.retryItems c l ts
      else s.skipItems c l fun i => l.acc.once || ts.contains i.tid
  if act = 3 then s.endThreads team ts else s.settle team

/-- RFT on a trap of an engine operation. -/
def State.afterOp (s : State) (team act id : Nat) (ts : List Nat) : State :=
  let s := if act = 1 then s.retryOp id else s.skipOp id
  if act = 3 then s.endThreads team ts else s.settle team

/-- RFT (R277). -/
def execRft (s : State) : Host.Outcome State Fault Refusal :=
  issuePath s {} fun e s =>
    match e.act.kind with
    | .handler t =>
      let act := e.ctx.actField
      let ts := e.act.lanes
      let team := e.ctx.team
      let s := (((e.retire s).endHandler e.ref team ts).resume e.ref)
      match t.entry, t.op with
      | some id, _ => s.afterEntry team act id ts
      | none, some id => s.afterOp team act id ts
      | none, none =>
        if t.code = 0x0A then (if act = 3 then s.endThreads team ts else s)
        else s.afterTrap e.ref team e.rcd.w act t ts
    | _ => e.trapAll s 0x01

end Sys2Proof.Machine
end

