-- ==== Sys2Proof/Machine/Place.lean ====
section
/-!
DEFINITION. The distributors: what a team takes on a core, where a band goes, how a team starts, when it is freed, and how
a killed launch ends its teams (R11, R14, R24 to R29, R36, R145, R150, R152, R265, R266, R276, R278).
-/

namespace Sys2Proof.Machine

/-- The lowest place of a block of n bytes among blocks that are taken. -/
def holeIn (taken : List (Nat × Nat)) (n limit : Nat) : Option Nat :=
  let free (b : Nat) : Bool :=
    decide (b + n ≤ limit) && taken.all fun p => p.2 = 0 || n = 0 || decide (b + n ≤ p.1) || decide (p.1 + p.2 ≤ b)
  ((sortNat (0 :: taken.map fun p => p.1 + p.2)).find? free)

/-- What a team asks of its cores: tids and contexts on each, registers of a thread, scratchpad and column bytes. -/
structure Room where
  tids : List Nat
  ctxs : List Nat
  vregs : Nat
  spad : Nat
  col : Nat
  sched : Bool
  slots : Nat
deriving DecidableEq, Repr

/-- What a team of a record asks (R29, R36, R259): its home contexts leave four slots of 128 free. -/
def Record.room (r : Record) : Room :=
  let lead := min r.tsize 1024
  { tids := r.tidsOn, vregs := r.vregs, spad := r.spad * 1024, col := r.col * 2 ^ 20, sched := decide (r.sched ≠ 0),
    ctxs := if r.pair then [(lead + r.w - 1) / r.w, (r.tsize - 1024 + r.w - 1) / r.w] else [(lead + r.w - 1) / r.w],
    slots := 124 }

/-- Whether a quad follows a schedule or a scheduled team needs it empty (R145). -/
def State.quadFree (s : State) (core : Nat) (sched : Bool) : Bool :=
  if sched then
    (List.range 4).all fun i => (s.teamsOn (core / 4 * 4 + i)).isEmpty
  else ((s.die (dieOf core)).quads.get? (quadOf core)).isNone

/-- The slices that a team would take on consecutive cores from one, beside those that its band has taken (R24, R36). -/
def State.fitTeam (s : State) (a : Room) (band : List Slice) (core : Nat) : Option (List Slice) :=
  let n := a.tids.length
  let cores := (List.range n).map (core + ·)
  let here (c : Nat) : List Slice := s.slices c ++ band.filter (·.core = c)
  let fits (q : Nat × Nat × Nat) : Bool :=
    let l := here q.1
    decide (l.length < (if a.sched then 1 else 16)) && decide ((l.map (·.tids)).sum + q.2.1 ≤ 1024)
    && decide ((l.map (·.regs)).sum + a.vregs * q.2.1 + s.packedRegs q.1 ≤ 65536)
    && decide ((s.slotsTaken q.1).length + (l.map (·.ctxs)).sum + q.2.2 ≤ a.slots) && s.quadFree q.1 a.sched
    && !s.appWaits q.1
  let parts := cores.zip (a.tids.zip a.ctxs)
  if !parts.all fits then none
  else
    let spadOf (l : List Slice) : List (Nat × Nat) := l.map fun x => (x.spadBase, x.spad)
    let colOf (l : List Slice) : List (Nat × Nat) := l.map fun x => (x.colBase, x.col)
    match holeIn (cores.flatMap fun c => spadOf (here c)) a.spad 0x80000,
        holeIn (colOf (here core)) a.col (s.hub.windowMiB * 2 ^ 20) with
    | some sb, some cb =>
      some (parts.map fun q => { core := q.1, tids := q.2.1, regs := a.vregs * q.2.1, ctxs := q.2.2, spadBase := sb,
                                 spad := a.spad, colBase := cb, col := if q.1 = core then a.col else 0 })
    | _, _ => none

/-- Place the teams of a band from a core on, each on the last team's cores or on the next (R27); `stop` bounds the run. -/
def State.fitBand (s : State) (stop : Nat) : List Room → List Slice → Nat → List (List Slice) → Option (List (List Slice))
  | [], _, _, out => some out
  | a :: rest, band, core, out =>
    let n := a.tids.length
    let at' (c : Nat) : Option (List Slice) := if c + n ≤ stop then s.fitTeam a band c else none
    match at' core with
    | some l => State.fitBand s stop rest (band ++ l) core (out ++ [l])
    | none =>
      if out = [] then none
      else
        match at' (core + n) with
        | some l => State.fitBand s stop rest (band ++ l) (core + n) (out ++ [l])
        | none => none

/-- The lowest run of cores of a die that takes a band (R27, R145, R266). -/
def State.bandOnDie (s : State) (d : Nat) (band : List Room) : Option (List (List Slice)) :=
  match band with
  | [] => none
  | a :: _ =>
    let step := if a.sched then 4 else a.tids.length
    (List.range (384 / step)).findSome? fun i =>
      let core := 384 * d + step * i
      State.fitBand s (min (384 * (d + 1)) (core + a.tids.length * band.length)) band [] core []

/-- The free thread slots of a die (R266). -/
def State.freeTids (s : State) (d : Nat) : Nat :=
  384 * 1024 - (s.teams.filterMap fun p =>
    if !p.2.freed && !p.2.saved && p.2.cores.any (fun c => dieOf c = d) then some p.2.span else none).sum

/-- The dies with the most free thread slots first, the lowest number among equals. -/
def State.diesByRoom (s : State) : List Nat :=
  let insert (d : Nat) (l : List Nat) : List Nat :=
    l.takeWhile (fun x => decide (s.freeTids d ≤ s.freeTids x)) ++ d :: l.dropWhile (fun x => decide (s.freeTids d ≤ s.freeTids x))
  ([0, 1, 2, 3].foldl (fun l d => insert d l) []).filter fun d => !(s.die d).off && !(s.die d).held

/-- Where a band goes, among the dies that a test allows (R266). -/
def State.bandPlace (s : State) (band : List Room) (on : Nat → Bool) : Option (List (List Slice)) :=
  (s.diesByRoom.filter on).findSome? fun d => s.bandOnDie d band

/-! ### Waiting bands -/

/-- Whether a launch has a band to place. -/
def Launch.waitsBand (l : Launch) : Bool := decide (l.phase = .running) && l.killed.isNone && decide (l.next < l.count)

def Launch.prioOf (l : Launch) : Nat := (l.record.map (·.prio)).getD 0

/-- The ids of a launch's next band (R27). -/
def Launch.band (l : Launch) (r : Record) : List Nat :=
  (List.range (min r.band (l.count - l.next))).map (l.next + ·)

/-- The teams of a team's band. -/
def State.bandOf (s : State) (team : Nat) : List (Nat × Team) :=
  match s.teams.get? team with
  | none => []
  | some t => s.teams.filter fun p => p.2.launch = t.launch && p.2.band = t.band && !p.2.freed

/-- The die of a team. -/
def Team.die (t : Team) : Nat := dieOf (t.cores.headD 0)

/-- Whether a band of higher priority waits on a die: one that is to be placed waits on each, one that is to be restored on
its own (R266). -/
def State.higherWaits (s : State) (prio d : Nat) : Bool :=
  (s.launches.vals.any fun l => l.waitsBand && decide (prio < l.prioOf))
  || s.teams.vals.any fun t =>
      t.saved && !t.freed && t.die = d && (s.launches.get? t.launch).any fun l => decide (prio < l.prioOf)

/-- Whether a launch's next band may go to a die now: one that waits lets those of higher priority go first (R266). -/
def State.mayPlace (s : State) (x : Launch) (prio d : Nat) : Bool := !(x.waiting && s.higherWaits prio d)

/-! ### A team starts (R29, R150) -/

/-- Memory without the bytes of a range. -/
def clearRange (m : List Host.Cell) (k n : Nat) : List Host.Cell :=
  m.filter fun c => !(decide (k ≤ c.1) && decide (c.1 < k + n))

/-- The scratchpad of a team on a core, and on its leader the visible window, read zero; every presence bit is set, no
tag is valid (R150, R152). -/
def State.clearTeam (s : State) (t : Team) (core : Nat) : State :=
  let sk := spadKey core t.spadBase
  let ck := colKey core t.colBase
  let vis := if t.cores.head? = some core then t.visible else 0
  let lo := t.spadBase / 128
  let hi := (t.spadBase + t.spadBytes) / 128
  let out (i : Nat) : Bool := decide (i < lo) || decide (hi ≤ i)
  let s := { s with mem := clearRange (clearRange s.mem sk t.spadBytes) ck vis,
                    poison := s.poison.filter fun x => !(decide (ck ≤ 64 * x) && decide (64 * x + 64 ≤ ck + vis)) }
  s.modCore core fun c => { c with absent := c.absent.filter out, tags := c.tags.filter fun p => out p.1 }

/-- Form a home context (R29); its group counts the home contexts of its core (R145). -/
def State.formHome (s : State) (key : Nat) (t : Team) (r : Record) (core : Nat) (lanes : List Nat) : State :=
  match s.freeSlot core with
  | none => s
  | some slot =>
    let mk (ser uid : Nat) : Ctx :=
      { newCtx key core slot ser (newAct uid r.entry lanes .home (s.cycOf core)) [0] r.slk with
        group := lanes.headD 0 % 1024 / max 1 r.w }
    (s.addCtx core slot mk t.launch 0).2

/-- The core of a tid of a team (R25). -/
def Team.coreOf (t : Team) (tid : Nat) : Nat := t.cores.getD (if t.cores.length = 2 && decide (1024 ≤ tid) then 1 else 0) 0

/-- A team starts on the cores of its slices: threads, frame, home contexts (R25, R29, R150). -/
def State.startTeam (s : State) (launch id : Nat) (r : Record) (band : Nat) (l : List Slice) : State :=
  let (key, s) := s.name
  let p := l.headD ⟨0, 0, 0, 0, 0, 0, 0, 0⟩
  let t : Team :=
    { launch := launch, id := id, band := band, cores := l.map (·.core), size := r.tsize, span := r.span,
      spadBase := p.spadBase, spadBytes := p.spad, colBase := p.colBase, colBytes := p.col,
      visible := if r.col = 0 then 0 else p.col - spillArea (r.tidsOn.headD 0) r.vregs,
      spillBase := if r.gspill = 0 then 0 else (r.gsbase + id * r.gspill) % 2 ^ 64,
      frames := [(0, ⟨0, List.range r.tsize⟩)], apps := [], bars := [], slots := [], saved := false, stopAt := none,
      freed := false, placed := key }
  let s := { s with teams := s.teams.set key t }
  let s := forEach t.cores (fun s c => s.clearTeam t c) s
  let s := forEach (List.range r.tsize) (fun s i =>
    { s with threads := s.threads.set (tkey key i) (Thread.start (t.coreOf i)) }) s
  forEach (List.range ((r.tsize + r.w - 1) / r.w)) (fun s g =>
    let lanes := (List.range (min r.w (r.tsize - g * r.w))).map (g * r.w + ·)
    s.formHome key t r (t.coreOf (g * r.w)) lanes) s

/-- The quads of a scheduled band's cores follow its launch's schedule (R145). -/
def State.holdQuads (s : State) (launch : Nat) (cores : List Nat) : State :=
  forEach cores (fun s c => s.modDie (dieOf c) fun d => { d with quads := d.quads.set (quadOf c) ⟨launch, 0⟩ }) s

/-- BAND_PLACEMENT (R266): the next band of a launch is placed whole, or waits. -/
def execBandPlacement (l : Nat) (s : State) : Host.Outcome State Fault Refusal :=
  match s.launches.get? l with
  | none => .next s
  | some x =>
    match x.record with
    | none => .next s
    | some r =>
      if !x.waitsBand then .next s
      else
        let ids := x.band r
        match s.bandPlace (ids.map fun _ => r.room) (s.mayPlace x r.prio) with
        | none => .next (s.modLaunch l fun y => { y with waiting := true })
        | some p =>
          let s := forEach (ids.zip p) (fun s q => s.startTeam l q.1 r (x.next / r.band) q.2) s
          let s := if r.sched = 0 then s else s.holdQuads l (p.flatMap fun l => l.map (·.core))
          .next (s.modLaunch l fun y => { y with next := y.next + ids.length, since := s.tick, waiting := false })

/-! ### A team ends -/

/-- Whether every thread of a team is done and none of its contexts is left (R164, R278). -/
def State.teamOver (s : State) (key : Nat) : Bool :=
  !(s.threads.any fun q => q.1 / 2048 = key && !q.2.done) && !(s.ctxs.any fun q => q.2.team = key)

/-- A quad whose scheduled launch has no team on it any more follows no schedule. -/
def State.freeQuads (s : State) (cores : List Nat) : State :=
  forEach cores (fun s c =>
    if (List.range 4).all fun i => (s.teamsOn (c / 4 * 4 + i)).isEmpty then
      s.modDie (dieOf c) fun d => { d with quads := d.quads.erase (quadOf c) }
    else s) s

/-- The rows of a core that operations were to release (R140). -/
def Core.freeRows (c : Core) (rows : List Nat) : Core :=
  { c with rows := c.rows.filter fun p => !rows.contains p.1, acc := c.acc.filter fun p => !rows.contains p.1 }

/-- The releases of a team that have not had their effect: each a core, a row and a count (R140). -/
def State.releases (s : State) (key : Nat) (t : Team) : List (Nat × Nat × Nat) :=
  s.pend.vals.flatMap fun o =>
    match o.work with
    | .mrel row n =>
      if o.team ≠ key then []
      else (if t.cores.head? = some o.core then t.cores else [o.core]).map fun c => (c, row, n)
    | _ => []

/-- Free a team's allocations: slot, scratchpad, column, set slots, accumulator rows, those that it was about to release among
them (R140, R278). -/
def State.freeTeam (s : State) (key : Nat) : State :=
  match s.teams.get? key with
  | none => s
  | some t =>
    let due := s.releases key t
    let rows (k : Nat) (c : Core) : Core :=
      let mine := (c.rows.filter fun p => p.2.1 = key).map Prod.fst
      c.freeRows (mine ++ (due.filter fun q => q.1 = k).flatMap fun q => (List.range q.2.2).map (q.2.1 + ·))
    let s := forEach t.cores (fun s c => s.modCore c (rows c)) s
    let s := { s with pend := s.pend.filter fun p => p.2.team ≠ key }
    let s := { s with threads := s.threads.filter fun q => q.1 / 2048 ≠ key }
    let s := s.modTeam key fun t => { t with freed := true, frames := [], apps := [], bars := [], slots := [] }
    let s := s.modLaunch t.launch fun l => { l with finished := l.finished + 1 }
    s.freeQuads t.cores

/-- TEAM_FREE (R278). -/
def execTeamFree (team : Nat) (s : State) : Host.Outcome State Fault Refusal :=
  match s.teams.get? team with
  | none => .next s
  | some t => if !t.freed && s.teamOver team then .next (s.freeTeam team) else .next s

/-! ### A launch is killed (R276) -/

/-- Whether an operation of a killed launch must complete: it may still change what other launches see. -/
def Op.mustFinish (o : Op) : Bool :=
  o.faults = [] && o.failed.isNone && (match o.work with
    | .store | .atomic | .sc | .queue | .gnext | .route | .launch _ _ _ => true
    | .bcopy _ _ _ _ | .gather _ _ _ | .ascd _ _ _ _ _ | .coll _ _ _ _ _ => true
    | _ => false)

/-- Whether an operation releases accumulator rows: those that a team was about to release are freed with it (R140). -/
def Op.releases (o : Op) : Bool :=
  match o.work with
  | .mrel _ _ => true
  | _ => false

/-- The keys of a launch's teams. -/
def State.launchTeams (s : State) (l : Nat) : List Nat := (s.teams.filter fun p => p.2.launch = l).map Prod.fst

/-- LAUNCH_KILL (R276): once what must complete has completed, the rest is discarded and all teams become done. -/
def execLaunchKill (l : Nat) (s : State) : Host.Outcome State Fault Refusal :=
  match s.launches.get? l with
  | none => .next s
  | some x =>
    if x.killed.isNone || x.phase ≠ .running then .next s
    else
      let teams := s.launchTeams l
      let ctxs := s.ctxs.filter fun p => teams.contains p.2.team
      let mine (o : Op) : Bool := ctxs.any fun p => p.1 = o.ctx
      if (s.pend.vals.any fun o => mine o && o.mustFinish) || ctxs.any fun p => p.2.queue.any (!·.faulted) then .next s
      else
        let stop (p : Nat × Thread) : Nat × Thread :=
          if teams.contains (p.1 / 2048) then (p.1, { p.2 with done := true, v := [], h := [], resv := none, bins := [] }) else p
        .next { s with
          threads := s.threads.map stop,
          ctxs := s.ctxs.filter fun p => !teams.contains p.2.team,
          pend := s.pend.filter fun p => !mine p.2 || p.2.releases,
          cores := s.cores.map fun (p : Nat × Core) =>
            (p.1, { p.2 with bins := p.2.bins.filter fun b => !teams.contains b.2.team }) }

end Sys2Proof.Machine
end

