-- ==== Sys2Proof/Machine/Preempt.lean ====
section
/-!
DEFINITION. Pre-emption, saved contexts and migration (R27, R64, R68, R257, R267, R269 to R272).
-/

namespace Sys2Proof.Machine

/-- Whether a team is pinned: a column allocation, or accumulator rows (R140, R267). -/
def State.pinned (s : State) (key : Nat) (t : Team) : Bool :=
  decide (t.colBytes ≠ 0) || t.cores.any fun c => (s.core c).rows.any fun p => p.2.1 = key

/-! ### Choosing victims (R269) -/

/-- Put a team before those that were placed earlier. -/
def insertPlaced (p : Nat × Team) : List (Nat × Team) → List (Nat × Team)
  | [] => [p]
  | q :: r => if q.2.placed ≤ p.2.placed then p :: q :: r else q :: insertPlaced p r

/-- The first team of each unpinned band of lower priority on a die, those of lowest priority first, and among equals
the most recently placed. -/
def State.victims (s : State) (d prio : Nat) : List Nat :=
  let prioOf (t : Team) : Nat := ((s.launches.get? t.launch).map Launch.prioOf).getD 0
  let cand (p : Nat × Team) : Bool :=
    let band := s.bandOf p.1
    !p.2.freed && decide (prioOf p.2 < prio) && s.teamRuns p.1 && p.2.cores.any (fun c => dieOf c = d)
      && band.head?.map Prod.fst = some p.1 && !(band.any fun q => s.pinned q.1 q.2)
  let l := (s.teams.filter cand).foldr insertPlaced []
  [0, 1, 2].flatMap fun n => (l.filter fun p => prioOf p.2 = n).map Prod.fst

/-- The state in which some bands have been saved, as far as placement looks at it. -/
def State.asSaved (s : State) (bands : List Nat) : State :=
  let keys := bands.flatMap fun k => (s.bandOf k).map Prod.fst
  { s with
    teams := s.teams.map fun p => if keys.contains p.1 then (p.1, { p.2 with saved := true }) else p,
    ctxs := s.ctxs.map fun p =>
      if keys.contains p.2.team && decide (p.2.phase = .resident) then (p.1, { p.2 with phase := .saved }) else p }

/-- The fewest victims of a die whose saving makes room for a band. -/
def State.victimsFor (s : State) (d prio : Nat) (band : List Room) : Option (List Nat) :=
  let l := s.victims d prio
  ((List.range l.length).find? fun i => ((s.asSaved (l.take (i + 1))).bandOnDie d band).isSome).map fun i => l.take (i + 1)

/-- Whether the next band of a launch has waited as long as a die's setting asks (R269). -/
def State.waited (s : State) (x : Launch) (d : Nat) : Bool :=
  x.waitsBand && decide (ticksLong (s.die d).preemptAfter ≤ s.tick - x.since)

/-- The dies on which a launch's next band may pre-empt others now. -/
def State.canPreempt (s : State) (x : Launch) (prio d : Nat) : Bool :=
  s.waited x d && !(s.die d).off && !(s.die d).held && s.mayPlace x prio d

/-- PREEMPTION_TIMER (R269): the victims stop next. -/
def execPreemptionTimer (l : Nat) (s : State) : Host.Outcome State Fault Refusal :=
  match s.launches.get? l with
  | none => .next s
  | some x =>
    match x.record with
    | none => .next s
    | some r =>
      let band := (x.band r).map fun _ => r.room
      if !x.waitsBand || (s.teams.vals.any fun t => t.stopAt.isSome) || (s.bandPlace band (s.mayPlace x r.prio)).isSome then .next s
      else
        match ([0, 1, 2, 3].filter (s.canPreempt x r.prio)).findSome? fun d => s.victimsFor d r.prio band with
        | none => .next s
        | some l => .next { s with agenda := s.agenda ++ l.map fun k => Turn.event 0 (.preemptionStop k) }

/-! ### Stopping and saving (R270, R271) -/

/-- Whether a launch's next band takes a team's band as its next victim: with the bands that stop already saved, it would still
find no place, and the team's band comes first of those whose saving makes room (R269). -/
def State.nextVictim (s : State) (team : Nat) (t : Team) (x : Launch) : Bool :=
  match x.record with
  | none => false
  | some r =>
    let stops := (s.teams.filter fun p => p.2.stopAt.isSome && !p.2.freed).map Prod.fst
    let s' := s.asSaved stops
    let band := (x.band r).map fun _ => r.room
    s.canPreempt x r.prio t.die && (s'.bandPlace band (s.mayPlace x r.prio)).isNone
      && ((s'.victimsFor t.die r.prio band).bind List.head?).any fun k => (s.bandOf team).any (·.1 = k)

/-- PREEMPTION_STOP (R270): issue stops in every context of a victim's band at an instruction boundary; its LR
reservations end (R196). -/
def execPreemptionStop (team : Nat) (s : State) : Host.Outcome State Fault Refusal :=
  match s.teams.get? team with
  | none => .next s
  | some t =>
    let band := s.bandOf team
    if t.freed || !(s.teamRuns team) || !(s.launches.vals.any (s.nextVictim team t)) then .next s
    else
      let keys := band.map Prod.fst
      .next { s with
        teams := s.teams.map fun p => if keys.contains p.1 then (p.1, { p.2 with stopAt := some (s.cyc t.die) }) else p,
        threads := s.threads.map fun p => if keys.contains (p.1 / 2048) then (p.1, { p.2 with resv := none }) else p }

/-- Whether a load can be entered in the operand log: its access is known. -/
def Op.logs (o : Op) : Bool :=
  (match o.work with
   | .load | .sld _ => true
   | _ => false) && o.acc.any fun a => !a.items.isEmpty

/-- Whether some thread of a descent does not wait: it is neither complete nor held, and its node's page is not awaited. -/
def State.someWalks (s : State) (id : Nat) (o : Op) (d : TreeDesc) (l : List Walker) : Bool :=
  match s.tree? id with
  | none => true
  | some (_, w, r) => l.any fun x => !x.complete && !x.held && !(decide (x.level < d.depth)
      && (pagesOf w.root (d.nodeAt x.node) (d.nodeBytes (slotElem (r.slot d.slot)))).any o.faults.contains)

/-- Whether an operation keeps a context from being saved: it runs to completion first, a descent or a replay until the threads
that are left all wait (R257, R270). -/
def State.keeps (s : State) (id : Nat) (o : Op) : Bool :=
  match o.work with
  | .word _ | .launch _ _ _ | .walk _ | .code _ => false
  | .desc _ (some d) _ _ l _ => o.failed.isNone && (l.all (·.complete) || s.someWalks id o d l)
  | .ascd _ (some _) _ _ _ =>
    o.failed.isNone && (s.asking id || !o.arrived? || s.able id o || (o.faults = [] && !s.earlierClimbs o))
  | _ => o.faults = [] && o.failed.isNone

/-- Whether all that must run to completion has, apart from loads; and whether loads are outstanding. -/
def State.quiet (s : State) (keys : List Nat) : Bool × Bool :=
  let l := s.ctxs.filter fun p => keys.contains p.2.team
  let ops := l.flatMap fun p => (s.opsOf p.1 fun _ => true).filter fun q => s.keeps q.1 q.2
  (ops.all (·.2.logs) && l.all (fun p => p.2.queue.all (·.faulted)), !ops.isEmpty)

/-- The value of a load that was performed when it issued: what its replay writes (R186; log 9). -/
def Op.performed (o : Op) (i : Item) : Item :=
  let lane (n : Nat) : Nat := (o.res.findSome? fun r => match r with
    | .v t m x => if t = i.tid && m = n then some x.toNat else none
    | _ => none).getD 0
  { i with data := BitVec.ofNat 64 (lane i.dst + 2 ^ 32 * lane (i.dst + 1)), data2 := Sys2Proof.Machine.performed }

/-- A load that is still outstanding is entered in its context's operand log for its outstanding threads, and its reply is
discarded (R270). One that was performed when it issued keeps its value, one that a peer device answers is asked again, and an
image that is here is written now (log 9). -/
def State.logLoad (s : State) (id : Nat) (o : Op) : State :=
  match o.acc, o.work with
  | none, _ => s
  | some a, w =>
    if (match w with
      | .sld _ => !o.peer
      | _ => false) then s.finishOp id
    else
      let due (i : Item) : Bool := a.once || o.res.any fun r => match r with
        | .v t _ _ => t = i.tid
        | _ => false
      let kind := match a.kind with
        | .lr ty => if o.peer then .lr ty else .ld ty
        | k => k
      let items := (a.items.filter due).map fun i => if o.peer then i else o.performed i
      let l : LogEntry := { id := id, acc := { a with kind := kind, items := items }, pages := [], failed := none }
      let s := { s with pend := s.pend.erase id }.dropAsks id
      if items.isEmpty then s else s.modCtx o.ctx fun c => { c with log := c.log ++ [l] }

/-- The contexts of teams are saved; their slots and registers return to the core. -/
def State.saveTeams (s : State) (keys : List Nat) : State :=
  let s := forEach keys (fun s k => s.saveImages k) s
  { s with
    teams := s.teams.map fun p => if keys.contains p.1 then (p.1, { p.2 with saved := true, stopAt := none }) else p,
    ctxs := s.ctxs.map fun p =>
      if keys.contains p.2.team && decide (p.2.phase = .resident) then (p.1, { p.2 with phase := .saved }) else p }

/-- LOAD_DRAIN_TIMEOUT (R270): loads that are outstanding after 4096 cycles are logged, and the band is saved. -/
def execLoadDrainTimeout (team : Nat) (s : State) : Host.Outcome State Fault Refusal :=
  match s.teams.get? team, (s.teams.get? team).bind (·.stopAt) with
  | some tm, some t =>
    let keys := (s.bandOf team).map Prod.fst
    let q := s.quiet keys
    if !q.1 || (q.2 && decide (s.cyc tm.die - t < 4096)) then .next s
    else
      let mine (o : Op) : Bool := (s.ctxs.get? o.ctx).any fun c => keys.contains c.team
      let loads := s.pend.filter fun p => mine p.2 && p.2.logs && p.2.faults = [] && p.2.failed.isNone
      .next ((forEach loads (fun s p => s.logLoad p.1 p.2) s).saveTeams keys)
  | _, _ => .next s

/-! ### Moving a team (R267, R272) -/

/-- A move of a team's part on one core: from a core and scratchpad base to another, with its length. -/
structure Move where
  src : Nat
  srcBase : Nat
  dst : Nat
  dstBase : Nat
  bytes : Nat
deriving DecidableEq, Repr

def Move.line (m : Move) (i : Nat) : Nat := i - m.srcBase / 128 + m.dstBase / 128
/-- Whether a line of the source core lies in the part. -/
def Move.has (m : Move) (i : Nat) : Bool := decide (m.srcBase / 128 ≤ i) && decide (i < (m.srcBase + m.bytes) / 128)
/-- The new key of a key of memory in the part. -/
def Move.key (m : Move) (k : Nat) : Option Nat :=
  let lo := spadKey m.src m.srcBase
  if lo ≤ k && k < lo + m.bytes then some (k - lo + spadKey m.dst m.dstBase) else none
def moveKey (ms : List Move) (k : Nat) : Nat := (ms.findSome? (·.key k)).getD k
/-- The new key of a line of a core (see `lineKey`). -/
def moveLine (ms : List Move) (k : Nat) : Nat :=
  (ms.findSome? fun m => if k / 4096 = m.src && m.has (k % 4096) then some (m.dst * 4096 + m.line (k % 4096)) else none).getD k
def moveCore (ms : List Move) (c : Nat) : Nat := ((ms.find? (·.src = c)).map (·.dst)).getD c

/-- Scratchpad bytes, presence bits and tags move (R267). -/
def State.moveBytes (s : State) (ms : List Move) : State :=
  let cells := s.mem.filterMap fun c => (ms.findSome? (·.key c.1)).map fun k => (k, c.2)
  let gone := ms.foldl (fun m x => clearRange m (spadKey x.src x.srcBase) x.bytes) s.mem
  let clear := ms.foldl (fun m x => clearRange m (spadKey x.dst x.dstBase) x.bytes) gone
  let absent := ms.map fun m => (m, (s.core m.src).absent.filter m.has)
  let tags := ms.map fun m => (m, (s.core m.src).tags.filter fun p => m.has p.1)
  let s := { s with mem := cells.foldl (fun m c => memWrite m c.1 c.2) clear }
  let s := forEach ms (fun s m => s.modCore m.src fun c =>
    { c with absent := c.absent.filter (!m.has ·), tags := c.tags.filter fun p => !m.has p.1 }) s
  let s := forEach absent (fun s p => s.modCore p.1.dst fun c =>
    { c with absent := sortNat (c.absent ++ p.2.map p.1.line) }) s
  forEach tags (fun s p => s.modCore p.1.dst fun c =>
    { c with tags := p.2.foldl (fun m t => m.set (p.1.line t.1) t.2) c.tags }) s

/-- The spawn bins of a team move to its new core. -/
def State.moveBins (s : State) (key : Nat) (ms : List Move) : State :=
  forEach ms (fun s m =>
    let mine := (s.core m.src).bins.filter fun b => b.2.team = key
    let s := s.modCore m.src fun c => { c with bins := c.bins.filter fun b => b.2.team ≠ key }
    forEach mine (fun s b => s.modCore m.dst fun c =>
      let i := ((List.range (64 + c.bins.length)).find? fun i => (c.bins.get? i).isNone).getD 0
      { c with bins := c.bins.set i b.2 }) s) s

/-- A logged copy's destinations move. -/
def LogEntry.move (l : LogEntry) (ms : List Move) (core : Nat) : LogEntry :=
  match l.acc.kind with
  | .cpa _ =>
    let one (i : Item) : Item := { i with dst := (moveKey ms (spadKey core i.dst) - 2 ^ 49) % 2 ^ 19 }
    { l with acc := { l.acc with items := l.acc.items.map one } }
  | _ => l

/-- An operation's places in the scratchpad move. -/
def Op.move (o : Op) (ms : List Move) (core : Nat) : Op :=
  let off (d : Nat) : Nat := (moveKey ms (spadKey core d) - 2 ^ 49) % 2 ^ 19
  let work := match o.work with
    | .cpa t i d x n => .cpa t i (off d) x n
    | w => w
  let item (i : Item) : Item := { i with dst := off i.dst }
  let acc : Option Access := match o.work with
    | .cpa _ _ _ _ _ => o.acc.map fun a => { a with items := a.items.map item }
    | _ => o.acc
  { o with core := moveCore ms o.core, work := work, acc := acc, fills := o.fills.map (moveLine ms), srcs := o.srcs.map fun p => (moveKey ms p.1, p.2) }

/-- The moves of a team to the cores and the scratchpad base of its new slices. -/
def Team.moves (t : Team) (l : List Slice) : List Move :=
  let base := (l.headD ⟨0, 0, 0, 0, 0, 0, 0, 0⟩).spadBase
  (t.cores.zip (l.map (·.core))).map fun p => Move.mk p.1 t.spadBase p.2 base t.spadBytes

/-- A team whose bytes have moved stands on other cores, at another scratchpad base; only `%core`, `%quad` and time can
tell (R267). -/
def State.moveTeam (s : State) (key : Nat) (l : List Slice) : State :=
  match s.teams.get? key with
  | none => s
  | some t =>
    let base := (l.headD ⟨0, 0, 0, 0, 0, 0, 0, 0⟩).spadBase
    let ms := t.moves l
    let coreOf (ctx : Nat) : Option Nat := (s.ctxs.get? ctx).bind fun c => if c.team = key then some c.core else none
    let ops := s.pend.map fun p => match coreOf p.2.ctx with
      | some c => (p.1, p.2.move ms c)
      | none => p
    let s := s.moveBins key ms
    let ctx (c : Ctx) : Ctx := { c with core := moveCore ms c.core, log := c.log.map (·.move ms c.core) }
    let app (a : App) : App :=
      { a with lead := moveCore ms a.lead, todo := a.todo.map fun q => { q with core := moveCore ms q.core } }
    let s := { s with
      pend := ops,
      ctxs := s.ctxs.map (fun (p : Nat × Ctx) => if p.2.team = key then (p.1, ctx p.2) else p),
      threads := s.threads.map fun (p : Nat × Thread) => if p.1 / 2048 = key then (p.1, { p.2 with core := moveCore ms p.2.core }) else p }
    s.modTeam key fun t => { t with cores := l.map (·.core), spadBase := base, apps := t.apps.map fun p => (p.1, app p.2) }

/-- What a saved or running team asks of the cores that it moves to. -/
def State.roomOf (s : State) (key : Nat) (t : Team) (r : Record) : Room :=
  let on (side : Nat) : Nat := (s.ctxs.vals.filter fun c =>
    c.team = key && decide (c.phase ≠ .lent) && decide (t.side c.core = side)).length
  { r.room with ctxs := if t.cores.length = 2 then [on 0, on 1] else [on 0], slots := 128 }

/-- The state without some teams, as far as placement looks at it. -/
def State.without (s : State) (keys : List Nat) : State :=
  { s with
    teams := s.teams.map fun p => if keys.contains p.1 then (p.1, { p.2 with freed := true }) else p,
    ctxs := s.ctxs.map fun p => if keys.contains p.2.team then (p.1, { p.2 with phase := .saved }) else p }

/-! ### Coming back (R272) -/

/-- Saved contexts of a team take slots again; each issues from its slot 0 first (R272). -/
def State.loadCtxs (s : State) (key : Nat) : State :=
  forEach (s.ctxs.filter fun p => p.2.team = key && decide (p.2.phase = .saved)) (fun s p =>
    match s.freeSlot p.2.core with
    | some slot => (s.unlend p.1 slot).modCtx p.1 fun c => { c with restored := true }
    | none => s) s

/-- Put the teams of a band on other cores of their die, saved contexts and all; the bytes of all of them move together,
since a team may go where another one of the band stood. -/
def State.settleOn (s : State) (band : List (Nat × Team)) (p : List (List Slice)) (r : Record) (launch : Nat) : State :=
  let old := band.flatMap fun q => q.2.cores
  let s := s.moveBytes ((band.zip p).flatMap fun q => q.1.2.moves q.2)
  let s := forEach (band.zip p) (fun s q => s.moveTeam q.1.1 q.2) s
  let s := s.freeQuads old
  let s := if r.sched = 0 then s else s.holdQuads launch (p.flatMap fun l => l.map (·.core))
  let keys := band.map Prod.fst
  let (n, s) := s.name
  let s := { s with teams := s.teams.map fun q =>
    if keys.contains q.1 then (q.1, { q.2 with saved := false, placed := n }) else q }
  forEach keys (fun s k => s.loadCtxs k) s

/-- TEAM_RESTORE (R272): the whole band of a saved team is placed again on the lowest run of its die that takes it (R266),
every context reloaded before any issues; logged loads replay. -/
def execTeamRestore (team core : Nat) (s : State) : Host.Outcome State Fault Refusal :=
  match s.teams.get? team with
  | none => .next s
  | some t =>
    match s.launches.get? t.launch with
    | none => .next s
    | some x =>
      match x.record with
      | none => .next s
      | some r =>
        let band := s.bandOf team
        let d := t.die
        if t.freed || !(band.all fun q => q.2.saved) || x.killed.isSome || s.higherWaits r.prio d || (s.die d).held || (s.die d).off then
          .next s
        else
          match (s.without (band.map Prod.fst)).bandOnDie d (band.map fun q => s.roomOf q.1 q.2 r) with
          | none => .next s
          | some p =>
            if (p.head?.bind List.head?).map (·.core) ≠ some core then .next s
            else
              let ids := band.flatMap fun q => s.teamCtxs q.1
              let s := (forEach ids (fun s i => s.loadImage i) s).settleOn band p r t.launch
              .next (forEach ids (fun s i => (s.replayWaiting i).checkSets i) s).sweepLogs

/-- TEAM_MIGRATION (R267): an unpinned band moves to other cores of its die while some band waits; as in pre-emption its
work drains first and its LR reservations end. -/
def execTeamMigration (team core : Nat) (s : State) : Host.Outcome State Fault Refusal :=
  match s.teams.get? team with
  | none => .next s
  | some t =>
    match (s.launches.get? t.launch).bind (·.record) with
    | none => .next s
    | some r =>
      let band := s.bandOf team
      let keys := band.map Prod.fst
      let q := s.quiet keys
      if t.freed || !(s.teamRuns team) || (band.any fun q => s.pinned q.1 q.2) || !q.1 || q.2
          || !(s.launches.vals.any (·.waitsBand)) || dieOf core ≠ t.die then .next s
      else
        let asks := band.map fun q => s.roomOf q.1 q.2 r
        let n := (asks.map fun a => a.tids.length).sum
        match State.fitBand (s.without keys) (min (384 * (t.die + 1)) (core + n)) asks [] core [] with
        | none => .next s
        | some p =>
          if t.cores.length = 2 && core % 2 = 1 || r.sched ≠ 0 && core % 4 ≠ 0 then .next s
          else
            let s := { s with threads := s.threads.map fun (p : Nat × Thread) =>
              if keys.contains (p.1 / 2048) then (p.1, { p.2 with resv := none }) else p }
            .next ((s.saveTeams keys).settleOn band p r t.launch)

end Sys2Proof.Machine
end

