-- ==== Sys2Proof/Machine/Sched.lean ====
section
/-!
DEFINITION. The steps of the issue scheduler and of the core's slots and bins (R36, R42, R44, R268, R332, R409).
-/

namespace Sys2Proof.Machine

/-- The context and running activation of a path whose context may act. -/
def State.runningAct (s : State) (r : PathRef) : Option (Ctx × Act) :=
  match s.ctxs.get? r.ctx with
  | none => none
  | some c =>
    if decide (c.phase = .resident) && s.teamRuns c.team then (c.stack r.slot).head?.map fun a => (c, a) else none

/-- INSTRUCTION_FETCH (R332): the words of a path's next instruction come in, or it waits for their page, or traps. -/
def execInstructionFetch (r : PathRef) (s : State) : Host.Outcome State Fault Refusal :=
  match s.runningAct r with
  | none => .next s
  | some (c, a) =>
    let waits : Bool := match a.status with
      | .ready | .fetch _ => true
      | _ => false
    if !waits || c.held.any (·.uid = a.uid) then .next s
    else
      match s.launchOf c with
      | none => .next s
      | some l =>
        let (f, s) := s.fetchAt c.core (s.launchId c) l.root a.pc
        let s := s.fetched r a f
        .next (if a.status = .ready then s.modAct r fun x => { x with since := a.since }
          else s.modAct r fun x => { x with since := s.cycOf c.core })

/-- SCOREBOARD_WAKE (R409): the registers that an instruction waits for are full. -/
def execScoreboardWake (r : PathRef) (s : State) : Host.Outcome State Fault Refusal :=
  match s.ctxs.get? r.ctx with
  | none => .next s
  | some c =>
    match (c.stack r.slot).head? with
    | none => .next s
    | some a =>
      match a.status with
      | .source _ => if s.canIssue c a then .next (s.wake r) else .next s
      | _ => .next s

/-- The pair that is chosen issues next. -/
def State.chosen (s : State) (r : Option PathRef) : State :=
  match r with
  | none => s
  | some r => { s with agenda := .issue 0 r :: s.agenda }

/-- QUARTER_ISSUE (R18, R268). -/
def execQuarterIssue (core quarter : Nat) (s : State) : Host.Outcome State Fault Refusal :=
  .next (s.chosen (best (s.cands (some core) (some quarter))))

/-- FAIRNESS_TIMER (R44, R268): a pair that has been ready for 448 cycles. -/
def execFairnessTimer (core : Nat) (s : State) : Host.Outcome State Fault Refusal :=
  .next (s.chosen (best ((s.cands (some core) none).filter (·.aged))))

/-- CONTEXT_LEND (R36). -/
def execContextLend (ctx : Nat) (s : State) : Host.Outcome State Fault Refusal :=
  match s.ctxs.get? ctx with
  | some c => if c.lends && s.teamRuns c.team then .next (s.lend ctx) else .next s
  | none => .next s

/-- CONTEXT_UNLEND (R36): a lent context takes the lowest free slot of its core; as it resumes, a set register that breaks the forms
traps SETSPACE (R64, R68). -/
def execContextUnlend (ctx : Nat) (s : State) : Host.Outcome State Fault Refusal :=
  match s.ctxs.get? ctx with
  | some c =>
    if decide (c.phase = .lent) && s.teamRuns c.team then
      match s.freeSlot c.core with
      | some slot => .next ((s.unlend ctx slot).checkSets ctx)
      | none => .next s
    else .next s
  | none => .next s

/-! ### Bins (R42) -/

/-- BIN_TIMER_EXPIRY (R42). -/
def execBinTimerExpiry (core bin : Nat) (s : State) : Host.Outcome State Fault Refusal :=
  match s.firstDue core with
  | some (k, _) => if k = bin then .next (s.formBin core k) else .next s
  | none => .next s

/-- BIN_FORM_ON_SLOT (R42). -/
def execBinFormOnSlot (core : Nat) (s : State) : Host.Outcome State Fault Refusal :=
  match s.firstDue core with
  | some (k, _) => .next (s.formBin core k)
  | none => .next s

/-- BIN_PLACEMENT_RESUME (R42): spawned threads of a pair team are placed on the follower core (R25, R260). -/
def execBinPlacementResume (r : PathRef) (s : State) : Host.Outcome State Fault Refusal :=
  match s.runningAct r with
  | none => .next s
  | some (c, a) =>
    match a.status with
    | .placing spawn todo =>
      let cores := ((s.teams.get? c.team).map (·.cores)).getD []
      let core := if spawn && decide (cores.length = 2) then cores.getD 1 c.core else c.core
      .next (s.placeFor r core c.team spawn todo)
    | _ => .next s

end Sys2Proof.Machine
end

