-- ==== Sys2Proof/Machine/Debug.lean ====
section
/-!
DEFINITION. Holding a die, checkpoint intervals and capture, the precise stop at a named point, a debugger's register
change (R64, R271, R279 to R287), and writes by the host (R283).
-/

namespace Sys2Proof.Machine

/-! ### Holding and arming (R285) -/

/-- DIE_HOLD (R285). -/
def execDieHold (die : Nat) (s : State) : Host.Outcome State Fault Refusal :=
  .next (s.modDie die fun d => { d with held := true })

/-- DIE_ARM (R285). -/
def execDieArm (die : Nat) (s : State) : Host.Outcome State Fault Refusal :=
  .next (s.modDie die fun d => { d with armed := true })

/-- DIE_DISARM (R285). -/
def execDieDisarm (die : Nat) (s : State) : Host.Outcome State Fault Refusal :=
  .next (s.modDie die fun d => { d with armed := false })

/-! ### Capture and intervals (R281, R282) -/

/-- CAPTURE_ENABLE (R279, R282): intervals count from 0 again. -/
def execCaptureEnable (die : Nat) (s : State) : Host.Outcome State Fault Refusal :=
  .next ((s.modDie die fun d => { d with capturing := true, capture := [] }).startInterval die 0)

/-- CAPTURE_DISABLE (R282). -/
def execCaptureDisable (die : Nat) (s : State) : Host.Outcome State Fault Refusal :=
  .next (s.modDie die fun d => { d with capturing := false })

/-- The next interval of a die. -/
def State.nextInterval (s : State) (die : Nat) : State := s.startInterval die (((s.die die).interval + 1) % 2 ^ 32)

/-- CHECKPOINT_INTERVAL_START (R281): an interval of the die's length is over. -/
def execCheckpointIntervalStart (die : Nat) (s : State) : Host.Outcome State Fault Refusal :=
  let d := s.die die
  if d.held || decide (s.cyc die - d.intervalAt < d.intervalLen) then .next s else .next (s.nextInterval die)

/-- INTERVAL_EARLY_END (R281): a capture log would overflow. The 257th context of a slot ends the interval as it forms
(see `State.addCtx`). -/
def execIntervalEarlyEnd (die : Nat) (s : State) : Host.Outcome State Fault Refusal :=
  let d := s.die die
  if d.held || !d.capturing then .next s else .next (s.nextInterval die)

/-! ### The parts of a device that belong to one die -/

/-- Whether a key of memory lies on a die: its die memory, the scratchpads and column windows of its cores. -/
def onDie (d k : Nat) : Bool :=
  if k < 2 ^ 48 then k / 2 ^ 40 % 4 = d
  else if k < 2 ^ 49 then false
  else if k < 2 ^ 50 then dieOf ((k - 2 ^ 49) / 2 ^ 19) = d
  else dieOf ((k - 2 ^ 50) / 2 ^ 29) = d

/-- Cells of two memories in rising order: those of a die from the first, the others from the second. -/
def mergeMem (d : Nat) (a b : List Host.Cell) : List Host.Cell :=
  (a.filter fun c => onDie d c.1).foldl (fun m c => memWrite m c.1 c.2) (b.filter fun c => !onDie d c.1)

/-- Entries of two maps: those that a test takes from the first, the others from the second. -/
def mergeMap {α : Type} (mine : Nat → α → Bool) (a b : Map α) : Map α :=
  (a.filter fun p => mine p.1 p.2).foldl (fun m p => m.set p.1 p.2) (b.filter fun p => !mine p.1 p.2)

/-- The device `b` with what belongs to a die as `a` has it (R284 to R286). Launches are as `b` has them, apart from the
channels whose consumer's team runs on the die, whose rings lie there. -/
def Snap.withDie (b a : Snap) (d : Nat) : Snap :=
  let team (k : Nat) : Bool := match (a.teams.get? k).orElse fun _ => b.teams.get? k with
    | some t => t.die = d
    | none => false
  let op (o : Op) : Bool := match (a.ctxs.get? o.ctx).orElse fun _ => b.ctxs.get? o.ctx with
    | some c => dieOf c.core = d
    | none => false
  let consumer (l cons : Nat) : Bool := a.teams.vals.any fun t => t.launch = l && t.id = cons && t.die = d
  let chans (l : Nat) (x y : Launch) : Launch := { y with chans := mergeMap (fun _ c => consumer l c.cons) x.chans y.chans }
  { b with
    mem := mergeMem d a.mem b.mem,
    threads := mergeMap (fun k _ => team (k / 2048)) a.threads b.threads,
    ctxs := mergeMap (fun _ c => dieOf c.core = d) a.ctxs b.ctxs,
    teams := mergeMap (fun _ t => t.die = d) a.teams b.teams,
    launches := b.launches.map fun p => match a.launches.get? p.1 with
      | some x => (p.1, chans p.1 x p.2)
      | none => p,
    cores := mergeMap (fun k _ => dieOf k = d) a.cores b.cores,
    dies := mergeMap (fun k _ => k = d) a.dies b.dies,
    pend := mergeMap (fun _ o => op o) a.pend b.pend,
    probes := mergeMap (fun _ p => p.die = d) a.probes b.probes,
    poison := sortNat ((a.poison.filter fun x => onDie d (64 * x)) ++ b.poison.filter fun x => !onDie d (64 * x)),
    nextId := max a.nextId b.nextId, fresh := max a.fresh b.fresh }

/-- Put a device's state in place; captures and what a debugger looks at stay. -/
def State.load (s : State) (x : Snap) : State :=
  { s with
    mem := x.mem, threads := x.threads, ctxs := x.ctxs, teams := x.teams, launches := x.launches, cores := x.cores,
    dies := x.dies.map fun p => (p.1, { s.die p.1 with toDieCore := p.2 }), pend := x.pend, probes := x.probes,
    poison := x.poison, hub := x.hub, now := x.now, tick := x.tick, nextId := x.nextId, fresh := x.fresh }

/-! ### The precise stop (R284 to R286) -/

/-- PRECISE_STOP (R285): on a held die, for a point of a kept interval: the snapshot is restored (which undoes every later
store), and the turns of that interval are to run again until the named context has retired its count. -/
def execPreciseStop (p : Point) (s : State) : Host.Outcome State Fault Refusal :=
  let d := dieOf p.core
  let x := s.die d
  match x.capture.find? (·.interval = p.interval) with
  | none => .next s
  | some c =>
    if !x.held || x.changed || s.replaying || p.core ≥ 1536 then .next s
    else
      let live := x.live.getD s.snap
      let s := (s.modDie d fun y => { y with live := some (s.snap.withDie live d), target := some p }).load c.snap
      .next { s.modDie d (fun y => { y with held := false }) with agenda := c.turns, cur := none }

/-- Whether the named context of a point has retired its count (R279, R285). -/
def State.atPoint (s : State) (p : Point) : Bool :=
  s.ctxs.vals.any fun c => c.core = p.core && c.slot = p.slot && c.serial = p.serial && decide (c.phase = .resident)
    && decide (p.count ≤ c.count)

/-- A re-execution has reached its point, or the end of its turns: the die stands there and is held, all else of the device is
as it was; trace rings and garnet countdowns are not written by a re-execution (R284). -/
def State.replayStop (s : State) : Option State :=
  match s.dies.find? fun p => p.2.target.isSome with
  | none => none
  | some (d, x) =>
    match x.target, x.live with
    | some p, some live =>
      if s.atPoint p || s.agenda = [] then
        let rings (q : Nat × Core) : Nat × Core :=
          let old := live.cores.getD q.1 Core.reset
          (q.1, { q.2 with ring := old.ring, garnet := old.garnet, tagged := old.tagged })
        let past : Snap := { s.snap with cores := s.cores.map rings }
        let s := { s.load (live.withDie past d) with agenda := [], cur := none }
        some (s.modDie d fun y => { y with target := none, held := true })
      else none
    | _, _ => none

/-- A BRK that held its die retires when the die resumes (R280). -/
def State.retireBreaks (s : State) (d : Nat) : State :=
  forEach s.ctxs (fun s q =>
    if dieOf q.2.core ≠ d then s
    else forEach [0, 1] (fun s slot =>
      match (q.2.stack slot).head? with
      | none => s
      | some a => if a.status = .again .held then s.retireAt ⟨q.1, slot⟩ (a.pc + 8) else s) s) s

/-- DIE_RESUME (R286): the die stands again where it was held, and runs live; after a register change it runs live from
where it stands, and the captures of its past go. A changed set register may trap SETSPACE (R64). In a re-execution a resume of
an earlier hold only lets the die go on (R284). -/
def execDieResume (die : Nat) (s : State) : Host.Outcome State Fault Refusal :=
  let x := s.die die
  if !x.held then .next s
  else
    let s := match x.live with
      | some live => if x.changed || s.replaying then s else s.load (s.snap.withDie live die)
      | none => s
    let s := s.modDie die fun d =>
      if s.replaying then { d with held := false }
      else { d with held := false, live := none, changed := false, capture := if x.changed then [] else d.capture }
    let ids := (s.ctxs.filter fun q => dieOf q.2.core = die && decide (q.2.phase = .resident)).map Prod.fst
    .next ((forEach ids (fun s i => s.checkSets i) s).retireBreaks die)

/-! ### A debugger's change (R64, R271, R286) -/

/-- DEBUGGER_REGISTER_CHANGE (R271, R286): one uniform or set register of a path, on a held die or in a saved context. -/
def execDebuggerRegisterChange (r : PathRef) (c : RegChange) (s : State) : Host.Outcome State Fault Refusal :=
  match s.ctxs.get? r.ctx with
  | none => .next s
  | some x =>
    let d := dieOf x.core
    if !((s.die d).held || decide (x.phase = .saved)) then .next s
    else
      let s := if (s.die d).held then s.modDie d fun y => { y with changed := true } else s
      match c with
      | .s n val =>
        if n.toNat < 160 then
          .next ((s.modAct r fun a => { a with s := a.s.set n.toNat ⟨val, (a.u n.toNat).full⟩ }).changeImage x r.slot
            (144 + 8 * n.toNat) (natLE val.toNat 8))
        else .next s
      | .k n bits =>
        .next ((s.modAct r fun a => { a with k := a.k.set n.toNat ⟨formOf bits, (a.kr n.toNat).full⟩ }).changeImage x r.slot
          (1448 + 16 * n.toNat) (natLE bits.toNat 16))

/-- HOST_WRITE_INTO_DIE_MEMORY (R283). -/
def execHostWriteIntoDieMemory (pa : Nat) (bytes : List Byte) (s : State) : Host.Outcome State Fault Refusal :=
  if pa + bytes.length ≤ 2 ^ 48 then
    .next ((s.put (dieKey pa) bytes).unpoison [(dieKey pa, bytes.length)]).relock
  else .next s

end Sys2Proof.Machine
end

