-- ==== Sys2Proof/Machine/Trace.lean ====
section
/-!
DEFINITION. Garnet samples and the trace rings: the steps that tag, record, synchronise, report loss, drop and move pages
(R288 to R294).
-/

namespace Sys2Proof.Machine

/-! ### Garnet (R288, R289) -/

/-- The major opcode of an instruction's first word, 0xFF for a P word (R289). -/
def wordOpc (w : Word) : Nat := if w.getLsbD 63 then 0xFF else (w.extractLsb' 55 8).toNat

/-- A value from 1 to 24,575 (R288); the draw is a free value. -/
def State.drawGap (s : State) : Nat × State := let (x, s) := s.free; (1 + x.toNat % 24575, s)

/-- Count the words of an instruction that a core issues down (R288). -/
def State.countIssue (s : State) (core len : Nat) : State :=
  if (s.die (dieOf core)).sampling then s.modCore core fun c => { c with garnet := c.garnet - len } else s

/-- Whether the next issue of a core brings the countdown to zero. -/
def State.tagDue (s : State) (core : Nat) : Bool :=
  (s.die (dieOf core)).sampling && decide ((s.core core).garnet ≤ 1)

/-- The guard that an F word names (R37). -/
def wordGuard (w : Word) : Guard := if !w.getLsbD 63 && w.getLsbD 54 then some (w.extractLsb' 50 4) else none

/-- What garnet notes of an instruction as it issues. -/
def State.tagOf (s : State) (r : PathRef) (c : Ctx) (a : Act) (f : Fetched) : Tagged :=
  let lanes := match s.envAt ⟨r, a.pc, f.instr.2⟩ with
    | some e => (e.exec s (wordGuard f.word)).length
    | none => a.lanes.length
  let p : Point := { interval := (s.die (dieOf c.core)).interval, core := c.core, slot := c.slot, serial := c.serial, count := c.count }
  { ctx := r.ctx, path := r.slot, uid := a.uid, point := p, lanes := lanes, pc := a.pc, opc := wordOpc f.word, ready := a.since,
    issued := s.cycOf c.core, result := none, level := 0, flags := 0, slackOut := none, slackIn := none }

/-- GARNET_TAG (R288): the instruction that issues next on a core is tagged, and a new gap is drawn. -/
def execGarnetTag (core : Nat) (s : State) : Host.Outcome State Fault Refusal :=
  if !s.tagDue core then .next s
  else
    match best (s.cands (some core) none) with
    | none => .next s
    | some r =>
      match s.ctxs.get? r.ctx with
      | none => .next s
      | some c =>
        match (c.stack r.slot).head?, s.launchOf c with
        | some a, some l =>
          match s.wordsFor c a l.root with
          | (.words f, s) =>
            let t := s.tagOf r c a f
            let (gap, s) := s.drawGap
            .next (s.modCore core fun k => { k with garnet := gap + f.instr.2, tagged := k.tagged ++ [t] })
          | (f, s) => .next (s.fetched r a f)
        | _, _ => .next s

/-- The trap that a tagged instruction has raised, if any. -/
def Ctx.trapOf (c : Ctx) (t : Tagged) : Option Nat :=
  (c.stack t.path).findSome? fun a =>
    match a.kind, a.status with
    | .handler x, _ => if x.pc = t.pc && x.entry.isNone && x.op.isNone then some x.code else none
    | _, .trapped x => if a.uid = t.uid && x.pc = t.pc then some x.code else none
    | _, _ => none

/-- Whether work of a tagged instruction is outstanding: an operation, an entry of the operand log. -/
def State.tagWorks (s : State) (t : Tagged) (c : Ctx) : Bool :=
  (s.pend.any fun p => p.2.ctx = t.ctx && p.2.uid = t.uid && p.2.pc = t.pc)
    || c.log.any fun l => l.acc.uid = t.uid && l.acc.pc = t.pc

/-- Whether a tagged instruction has had its last write-back, with the trap that it raised, or 0 (R288, R289). -/
def State.tagOver (s : State) (t : Tagged) : Option Nat :=
  match s.ctxs.get? t.ctx with
  | none => some 0
  | some c =>
    match c.trapOf t with
    | some code => some code
    | none =>
      let waits := (c.byUid t.uid).any fun a => a.pc = t.pc && decide (a.status ≠ .stopped) && c.count = t.point.count
      if waits || s.tagWorks t c then none else some 0

/-- A field of a length in bytes, holding at its greatest value. -/
def heldLE (x n : Nat) : List Byte := natLE (min x (2 ^ (8 * n) - 1)) n

/-- A slack field: 0xFFFF where there is none (R289). -/
def slackLE (x : Option Nat) : List Byte :=
  natLE (match x with
    | some n => min n 4095
    | none => 0xFFFF) 2

/-- The stages of R289 at a cycle: the model fetches in the cycle of issue, and collects operands in none (log 66). -/
def Tagged.stages (t : Tagged) (trap now : Nat) : List Nat :=
  let first := if trap = 0 then t.result.getD now else now
  [0, t.issued - t.ready, 0, first - t.issued, now - first]

/-- The record of R289. -/
def Tagged.tail (t : Tagged) (trap now : Nat) : List Byte :=
  natLE t.point.count 4 ++ natLE t.point.interval 4 ++ natLE t.point.core 2 ++ natLE t.point.serial 1 ++ natLE t.lanes 1
    ++ natLE t.pc 8 ++ (t.stages trap now).flatMap (heldLE · 4) ++ natLE t.level 1 ++ natLE trap 1 ++ natLE t.flags.toNat 1
    ++ natLE t.opc 1 ++ slackLE t.slackOut ++ slackLE t.slackIn ++ natLE 0 12

/-- GARNET_RECORD (R288, R289): the first followed instruction that is over is recorded. -/
def execGarnetRecord (core : Nat) (s : State) : Host.Outcome State Fault Refusal :=
  match (s.core core).tagged.find? fun t => (s.tagOver t).isSome with
  | none => .next s
  | some t =>
    let tail := t.tail ((s.tagOver t).getD 0) (s.cycOf core)
    .next (s.modCore core fun c =>
      { c with tagged := c.tagged.erase t, ring := s.ringPut (dieOf core) c.ring 8 t.point.slot t.path tail })

/-! ### Trace rings (R290 to R294) -/

def State.ringOf (s : State) (r : RingRef) : Ring :=
  match r with
  | .core c => (s.core c).ring
  | .hub => s.hub.ring

def State.modRing (s : State) (r : RingRef) (f : Ring → Ring) : State :=
  match r with
  | .core c => s.modCore c fun k => { k with ring := f k.ring }
  | .hub => s.modHub fun h => { h with ring := f h.ring }

/-- The die whose clock a ring's records count. -/
def ringDie (r : RingRef) : Nat :=
  match r with
  | .core c => dieOf c
  | .hub => 0

/-- Whether a die's core rings are enabled: by set-trace recording or by sampling (R288, R293). -/
def Die.ringsOn (d : Die) : Bool := d.tracing.isSome || d.sampling

/-- Whether a ring is enabled; the hub's is from its first record on (log 52). -/
def State.ringOn (s : State) (r : RingRef) : Bool :=
  match r with
  | .core c => (s.die (dieOf c)).ringsOn
  | .hub => s.hub.ring.data ≠ []

/-- Records of a die's cores begin: a ring takes the SYNC records of the ticks from here on (R294). -/
def State.ringsFrom (s : State) (die : Nat) : State :=
  if (s.die die).ringsOn then s else s.modDie die fun d => { d with traceFrom := s.ticks / 1024 }

/-- SAMPLING_ENABLE (R288). -/
def execSamplingEnable (die : Nat) (s : State) : Host.Outcome State Fault Refusal :=
  .next ((s.ringsFrom die).modDie die fun d => { d with sampling := true })

/-- SET_TRACE_ENABLE (R293): for one launch, or for every launch. -/
def execSetTraceEnable (die : Nat) (launch : Option Nat) (s : State) : Host.Outcome State Fault Refusal :=
  .next ((s.ringsFrom die).modDie die fun d => { d with tracing := some launch })

/-- TRACE_SYNC (R294): the SYNC records of the ticks up to this one. -/
def execTraceSync (ring : RingRef) (s : State) : Host.Outcome State Fault Refusal :=
  if s.ringOn ring then .next (s.modRing ring (s.ringUp (ringDie ring))) else .next s

/-- TRACE_LOSS (R291, R294): a LOSS record at the first tick after the drop. -/
def execTraceLoss (ring : RingRef) (s : State) : Host.Outcome State Fault Refusal :=
  if (s.ringOf ring).lossDue.isSome then .next (s.modRing ring (s.ringUp (ringDie ring))) else .next s

/-- TRACE_PAGE_DROP (R291). -/
def execTracePageDrop (ring : RingRef) (s : State) : Host.Outcome State Fault Refusal :=
  let r := s.ringUp (ringDie ring) (s.ringOf ring)
  if r.mustDrop then .next (s.modRing ring fun _ => r.turn s.ticks (s.cycTick (ringDie ring) s.ticks)) else .next s

/-- TRACE_READ_PAGE_MOVE (R290): the pages that the read page passes are read. -/
def execTraceReadPageMove (ring : RingRef) (page : Nat) (s : State) : Host.Outcome State Fault Refusal :=
  if page < (s.ringOf ring).pages then
    .next (s.modRing ring fun r =>
      { r with read := page, data := r.data.filter fun p => !((r.passed page).contains p.1 && p.1 ≠ r.write) })
  else .next s

end Sys2Proof.Machine
end

