-- ==== Sys2Proof/Machine/Life.lean ====
section
/-!
DEFINITION. Boot, firmware, attestation, device status, repair of columns and buses, monitors, clocks and shutdown
(R174, R210, R269, R281, R298 to R312).
-/

namespace Sys2Proof.Machine

/-! ### Boot (R298 to R300) -/

/-- DEVICE_RESET (R298): stage 1. What lies outside the device or in fuses and on NVMe stays: host memory, the firmware
image, the fused values, the reference clock; launch ids are never reused (R261). -/
def execDeviceReset (s : State) : Host.Outcome State Fault Refusal :=
  let host (k : Nat) : Bool := decide (2 ^ 48 ≤ k) && decide (k < 2 ^ 49)
  .next { State.reset with
    mem := s.mem.filter (fun c => host c.1), tick := s.tick,
    dies := [0, 1, 2, 3].map (fun d => (d, { Die.reset with tickAt := s.tick })), fresh := s.fresh, nextId := s.nextId,
    hub := { Hub.reset with stage := 1, nextLaunch := s.hub.nextLaunch, nvme := s.hub.nvme,
                            fuseVersion := s.hub.fuseVersion, fuseMeasure := s.hub.fuseMeasure } }

/-- Whether the ROM accepts an image (R300). -/
def Hub.accepts (h : Hub) (f : FwImage) : Bool := f.sigOk && decide (h.fuseVersion ≤ f.version)

/-- The ROM accepts an image: stage 2 ends, and the measurement log begins (R298, R301). -/
def Hub.boot (h : Hub) (f : FwImage) (recovery : Bool) : Hub :=
  { h with stage := 2, service := .booting, recoveryImage := recovery, measured := [h.fuseMeasure, f.measure] }

/-- FIRMWARE_VERIFY (R298, R300). -/
def execFirmwareVerify (s : State) : Host.Outcome State Fault Refusal :=
  if s.hub.stage ≠ 1 then .next s
  else .next (s.modHub fun h =>
    match h.nvme with
    | some f => if h.accepts f then h.boot f false else { h with service := .recovery }
    | none => { h with service := .recovery })

/-- RECOVERY_DOORBELL (R300): the pushed image is verified in the same way. -/
def execRecoveryDoorbell (f : FwImage) (s : State) : Host.Outcome State Fault Refusal :=
  if s.hub.service ≠ .recovery then .next s
  else .next (s.modHub fun h =>
    let h := { h with window := some f }
    if h.accepts f then h.boot f true else h)

/-- FIRMWARE_NVME_WRITE (R300): an accepted recovery image goes to NVMe. -/
def execFirmwareNvmeWrite (s : State) : Host.Outcome State Fault Refusal :=
  if s.hub.recoveryImage && decide (3 ≤ s.hub.stage) then .next (s.modHub fun h => { h with nvme := h.window }) else .next s

/-- A private window that R14 allows. -/
def windowOk (n : Nat) : Bool := decide (n ≤ 256) && n % 32 = 0

/-- MGMT_KERNEL_START (R14, R174, R298, R301): stage 3. -/
def execMgmtKernelStart (k : KernelSetup) (s : State) : Host.Outcome State Fault Refusal :=
  if s.hub.stage ≠ 2 || !windowOk k.windowMiB then .next s
  else .next (s.modHub fun h =>
    { h with stage := 3, windowMiB := k.windowMiB, queues := k.roots, peerRoot := k.peerRoot, kBits := k.kBits,
             measured := h.measured ++ [k.configMeasure, k.remapMeasure] }).relock

/-- A ring at a change of its die's clock: what is due before it, then a SYNC record (R294). -/
def State.syncRing (s : State) (r : RingRef) : State :=
  if s.ringOn r then
    s.modRing r fun x => (s.ringUp (ringDie r) x).sync s.ticks (s.cycTick (ringDie r) s.ticks)
  else s

/-- Dies change their clock in one tick: enabled rings take a SYNC record, and the cycle count goes on from here (R294, R297, R299,
R312). -/
def State.setClock (s : State) (dies : List Nat) (mhz : Nat) : State :=
  let cores := (s.cores.filter fun p => dies.contains (dieOf p.1)).map Prod.fst
  let s := forEach cores (fun s c => s.syncRing (.core c)) s
  let s := if dies.contains 0 then s.syncRing .hub else s
  forEach dies (fun s d => s.modDie d fun x => { x with mhz := mhz, countAt := s.cyc d, tickAt := s.tick }) s

/-- REDUCED_SERVICE_BEGIN (R298, R299): stage 4. -/
def execReducedServiceBegin (s : State) : Host.Outcome State Fault Refusal :=
  if s.hub.stage ≠ 3 then .next s
  else .next ((s.modHub fun h => { h with stage := 4, service := .reduced }).setClock [0, 1, 2, 3] 800)

/-- STACK_CALIBRATION (R298): stage 5; what it finds are steps of their own (R305 to R308). -/
def execStackCalibration (s : State) : Host.Outcome State Fault Refusal :=
  if s.hub.stage ≠ 4 then .next s else .next (s.modHub fun h => { h with stage := 5 })

/-- FULL_SERVICE_BEGIN (R298, R299): stage 6. -/
def execFullServiceBegin (s : State) : Host.Outcome State Fault Refusal :=
  if s.hub.stage ≠ 5 then .next s
  else .next ((s.modHub fun h => { h with stage := 6, service := .full }).setClock [0, 1, 2, 3] 1600)

/-! ### Attestation (R301, R302) -/

/-- An answer of the responder, which the management kernel runs: its response code (of SPDM 1.3, see the log) and its data. -/
def State.spdmReply (s : State) (code : Nat) (data : List Nat) : State :=
  if 3 ≤ s.hub.stage then s.modHub fun h => { h with spdm := h.spdm ++ data.map fun d => (code, d) } else s

/-- GET_VERSION (R302): version 1.3. -/
def execGetVersion (s : State) : Host.Outcome State Fault Refusal := .next (s.spdmReply 0x04 [0x13])

/-- GET_CAPABILITIES (R302); the capability word is a free value. -/
def execGetCapabilities (s : State) : Host.Outcome State Fault Refusal :=
  .next (s.spdmReply 0x61 [(Config.spdmAnswer 0x61).toNat])

/-- UnsupportedRequest. -/
def State.spdmUnsupported (s : State) : State := s.spdmReply 0x7F [0x07]

/-- NEGOTIATE_ALGORITHMS (R302): the one set, ECDSA P-521 with SHA-512, or none; its code is a free value. -/
def execNegotiateAlgorithms (offered : Bool) (s : State) : Host.Outcome State Fault Refusal :=
  if offered then .next (s.spdmReply 0x63 [(Config.spdmAnswer 0x63).toNat]) else .next s.spdmUnsupported

/-- GET_DIGESTS (R302); the digest is a free value. -/
def execGetDigests (s : State) : Host.Outcome State Fault Refusal :=
  .next (s.spdmReply 0x01 [(Config.spdmAnswer 0x01).toNat])

/-- GET_CERTIFICATE (R302); the chain is a free value. -/
def execGetCertificate (s : State) : Host.Outcome State Fault Refusal :=
  .next (s.spdmReply 0x02 [(Config.spdmAnswer 0x02).toNat])

/-- CHALLENGE (R302); the signature depends on the nonce and is a free value. -/
def execChallenge (nonce : Nat) (s : State) : Host.Outcome State Fault Refusal :=
  .next (s.spdmReply 0x03 [(Config.spdmAnswer (256 * nonce + 0x03)).toNat])

/-- GET_MEASUREMENTS (R301, R302): the measurement log, in order. -/
def execGetMeasurements (s : State) : Host.Outcome State Fault Refusal := .next (s.spdmReply 0x60 s.hub.measured)

/-- The request codes that the responder supports. -/
def spdmCodes : List Nat := [0x81, 0x82, 0x83, 0x84, 0xE0, 0xE1, 0xE3]

/-- SPDM_UNSUPPORTED (R302). -/
def execSpdmUnsupported (code : Nat) (s : State) : Host.Outcome State Fault Refusal :=
  if spdmCodes.contains code then .next s else .next s.spdmUnsupported

/-! ### DSTAT (R303) -/

/-- One bit for each die that has a core of a kind. -/
def State.dieBits (s : State) (p : Core → Bool) : BitVec 4 :=
  [0, 1, 2, 3].foldl (fun b d => if s.cores.any fun q => dieOf q.1 = d && p q.2 then b ||| (1#4 <<< d) else b) 0

def Service.code (x : Service) : BitVec 2 :=
  match x with
  | .booting => 0
  | .reduced => 1
  | .full => 2
  | .recovery => 3

/-- The device status word. -/
def State.dstat (s : State) : Word :=
  let degraded (c : Core) : Bool := !c.layersLost.isEmpty || c.remapBad
  0#50 ++ s.hub.service.code ++ s.dieBits degraded ++ s.dieBits (·.poisoned) ++ BitVec.ofBool (!s.hub.throttled.isEmpty)
    ++ BitVec.ofBool s.hub.recoveryImage ++ BitVec.ofBool s.hub.ovChanged ++ 0#1

/-- DSTAT_READ (R303). -/
def execDstatRead (s : State) : Host.Outcome State Fault Refusal :=
  .next (s.modHub fun h => { h with dstat := s.dstat, ovChanged := false })

/-! ### Columns and buses (R304 to R309) -/

/-- A bus of a column is dead with more than 16 failed wires; with both dead, or its remap tables lost and not yet rebuilt,
the column's traffic is poisoned (R307, R308). -/
def Core.busDead (c : Core) (bus : Nat) : Bool := decide (16 < (c.badWires.getD bus []).length)
def Core.judge (c : Core) : Core := { c with poisoned := (c.busDead 0 && c.busDead 1) || c.remapBad }

/-- The stripes of a column: 64 MiB in each layer, by sectors of 64 bytes (R304). -/
def stripes : Nat := 2 ^ 20

/-- COLUMN_LOSS (R305, R306): a layer is lost, and its rebuild begins; or one sector is lost, poisoned if a second one of its
stripe is unreadable too. -/
def execColumnLoss (l : Loss) (s : State) : Host.Outcome State Fault Refusal :=
  match l with
  | .layer core layer =>
    if layer < 8 then .next (s.modCore core fun c =>
      { c with layersLost := if c.layersLost.contains layer then c.layersLost else c.layersLost ++ [layer], rebuilt := 0 })
    else .next s
  | .sector key second =>
    if second && !s.poison.contains key then .next { s with poison := insertNat key s.poison } else .next s

/-- STRIPE_REBUILD (R306): the next stripe, in ascending order; with the last the column is whole. -/
def execStripeRebuild (core : Nat) (s : State) : Host.Outcome State Fault Refusal :=
  let c := s.core core
  if c.layersLost.isEmpty && !c.remapBad || stripes ≤ c.rebuilt then .next s
  else .next (s.modCore core fun c =>
    { c with rebuilt := c.rebuilt + 1, layersLost := if c.rebuilt + 1 = stripes then [] else c.layersLost })

/-- BUS_WIRE_REMAP (R307): one more wire of a bus has failed; it is remapped while spares last. -/
def execBusWireRemap (core bus wire : Nat) (s : State) : Host.Outcome State Fault Refusal :=
  if bus < 2 && decide (wire < 256) then .next (s.modCore core fun c =>
    let l := c.badWires.getD bus []
    (Core.judge { c with badWires := c.badWires.set bus (if l.contains wire then l else l ++ [wire]) }))
  else .next s

/-- BUS_CALIBRATION (R307, R310): every wire of a bus is measured. -/
def execBusCalibration (core bus : Nat) (failed : List Nat) (s : State) : Host.Outcome State Fault Refusal :=
  if bus < 2 && failed.all (fun w => decide (w < 256)) then
    .next (s.modCore core fun c => Core.judge { c with badWires := c.badWires.set bus failed.eraseDups })
  else .next s

/-- REMAP_TABLE_RELOAD (R308): all three copies have failed: the column's traffic is poisoned and the tables are reloaded;
once the column is rebuilt the poison is lifted. -/
def execRemapTableReload (core : Nat) (s : State) : Host.Outcome State Fault Refusal :=
  .next (s.modCore core fun c =>
    if !c.remapBad then Core.judge { c with remapBad := true, rebuilt := 0 }
    else if c.rebuilt = stripes then Core.judge { c with remapBad := false }
    else c)

/-- PATROL_SCRUB (R310): no result changes. -/
def execPatrolScrub (_core : Nat) (s : State) : Host.Outcome State Fault Refusal := .next s

/-- PARITY_ERROR (R310): a TLB entry or the words of an instruction cache are dropped; a dirty set slot is lost, a clean one is
corrected from its home. -/
def execParityError (p : ParityAt) (s : State) : Host.Outcome State Fault Refusal :=
  match p with
  | .dieTlb die i => .next (s.modDie die fun d => { d with tlb := d.tlb.eraseIdx i })
  | .coreTlb core i => .next (s.modCore core fun c => { c with tlb := c.tlb.eraseIdx i })
  | .icache core =>
    let drop (l : List Act) : List Act := l.map fun a => { a with ibuf := none }
    .next ({ s with ctxs := s.ctxs.map fun (p : Nat × Ctx) =>
      if p.2.core = core then (p.1, { p.2 with p0 := drop p.2.p0, p1 := drop p.2.p1 }) else p }.modCore core fun c =>
        { c with icache := [] })
  | .setSlot team side slot =>
    if side < 2 then .next (s.modTeam team fun t => { t with slots := t.slots.modify (slotKey side slot) fun x =>
      if x.dirty then { x with poisoned := true } else x })
    else .next s

/-! ### Monitors, clocks, shutdown (R311, R312) -/

/-- TELEMETRY (R311); with the monitors the management kernel reads the dies' overdue counters (R206). -/
def execTelemetry (r : Readings) (s : State) : Host.Outcome State Fault Refusal :=
  .next (s.modHub fun h => { h with readings := some r, counters := [0, 1, 2, 3].map fun d => (s.die d).overdue })

/-- Whether a clock lies on the ladder of R312 and one step from another. -/
def clockStepOk (old new : Nat) : Bool :=
  decide (800 ≤ new) && decide (new ≤ 1600) && new % 100 = 0 && (new = old + 100 || old = new + 100)

/-- CLOCK_STEP (R312). -/
def execClockStep (die mhz : Nat) (s : State) : Host.Outcome State Fault Refusal :=
  if s.hub.service ≠ .full || !clockStepOk (s.die die).mhz mhz then .next s
  else
    let thr (l : List Nat) : List Nat := if mhz < 1600 then insertNat die (l.filter (· ≠ die)) else l.filter (· ≠ die)
    .next ((s.setClock [die] mhz).modHub fun h => { h with throttled := thr h.throttled })

/-- STACK_SHUTDOWN (R312): every launch with a team on the stack is killed with STATUS 6; each is reported, and the shutdown of the
stack itself as cause 7 (log 44). -/
def execStackShutdown (die : Nat) (s : State) : Host.Outcome State Fault Refusal :=
  let here (t : Team) : Bool := !t.freed && t.cores.any fun c => dieOf c = die
  let hit := ((s.teams.vals.filter here).map (·.launch)).eraseDups
  .next ((forEach hit (fun s l => s.kill l 6 0 0) (s.modDie die fun d => { d with off := true })).modHub fun h =>
    { h with reports := h.reports ++ [⟨0, 7, die, 0⟩] })

/-- MGMT_CONFIG_WRITE (R210, R269, R281, R290): a setting within its range; a ring's pages while it holds no record. -/
def execMgmtConfigWrite (w : Setting) (s : State) : Host.Outcome State Fault Refusal :=
  match w with
  | .probeAfter die n =>
    if 1024 ≤ n && decide (n ≤ 65535) then .next (s.modDie die fun d => { d with probeAfter := n }) else .next s
  | .preemptAfter die n =>
    if 1000 ≤ n && decide (n ≤ 1000000) then .next (s.modDie die fun d => { d with preemptAfter := n }) else .next s
  | .intervalLength die n =>
    if 2 ^ 20 ≤ n && decide (n ≤ 2 ^ 32) then .next (s.modDie die fun d => { d with intervalLen := n }) else .next s
  | .ringPages ring n =>
    if 1 ≤ n && decide (n ≤ 65536) && (s.ringOf ring).data = [] then .next (s.modRing ring fun r => { r with pages := n })
    else .next s

end Sys2Proof.Machine
end

