-- ==== Sys2Proof/Machine/Net.lean ====
section
/-!
DEFINITION. The crossbar, slack epochs, deadlock recovery, and the Nymnex links with peer accesses seen from both ends
(R199 to R222).
-/

namespace Sys2Proof.Machine

/-! ### Buffers of a crossbar (R199, R200, R212) -/

/-- The input ports that hold packets. -/
def Xbar.inputs (x : Xbar) : List Nat := (x.pkts.map (·.inp)).eraseDups

/-- Whether a buffer belongs to a confirmed cycle, and so takes packets only into its recovery slot (R212). -/
def State.recovering (s : State) (d port : Nat) : Bool := s.probes.any fun p => p.2.confirmed && p.2.path.contains (d, port)

/-- What a granted packet becomes, and on which die: at its target a request is served and its reply, a packet of its own, takes the
slack that is left (R205); a packet for another die enters there at its bridge (R219); one that the hub or the host serves is
answered at that bridge. None where it has arrived, or leaves the device. -/
def Packet.next (d : Nat) (p : Packet) : Option (Nat × Packet) :=
  let answer (inp out : Nat) : Packet :=
    { p with reply := true, inp := inp, out := out, data := p.back, back := 0, counted := false, recov := false }
  if p.reply then
    if p.fromDie = d || 4 ≤ p.fromDie then none
    else some (p.fromDie, { p with inp := p.bridge, out := p.fromPort, recov := false })
  else if p.toDie = d then some (d, answer p.toPort (if p.fromDie = d then p.fromPort else p.bridge))
  else if p.toDie < 4 then some (p.toDie, { p with inp := p.bridge, out := p.toPort, recov := false })
  else if p.flit.isSome then none
  else some (d, answer p.bridge p.fromPort)

/-- Whether there is room where a packet goes: in the buffer that it would enter, on a die that is not held (R200, R287). -/
def State.accepts (s : State) (d : Nat) (p : Packet) : Bool :=
  match p.next d with
  | none => true
  | some (d', q) => (s.die d').xbar.room q.inp && !s.recovering d' q.inp && (d' = d || !(s.die d').held)

/-! ### Slack (R204, R206) -/

/-- A packet after the epoch boundaries that it has been held across. -/
def Packet.aged (p : Packet) (from' now : Nat) : Packet := { p with slack := p.slack - boundaries (max p.since from') now }

/-- Process the epoch boundaries that have passed on a die: each held packet loses slack, and one that reaches 0 is counted
once. -/
def State.epochs (s : State) (d : Nat) : State :=
  let x := s.die d
  let l := x.xbar.pkts.map fun p => p.aged (16 * x.epoch) (s.cyc d)
  let due := l.filter fun p => p.slack = 0 && !p.counted
  let s := forEach due (fun s _ => s.countOverdue d) s
  s.modDie d fun y => { y with
    epoch := s.cyc d / 16,
    xbar := { y.xbar with pkts := l.map fun p => if p.slack = 0 then { p with counted := true } else p } }

/-- SLACK_EPOCH (R204). -/
def execSlackEpoch (die : Nat) (s : State) : Host.Outcome State Fault Refusal := .next (s.epochs die)

/-! ### Grants (R200, R205) -/

/-- How long ago an output granted an input: a larger number is longer ago, inputs never granted longest. -/
def grantAge (last : List Nat) (inp : Nat) : Nat :=
  match last.idxOf? inp with
  | some i => last.length - i
  | none => last.length + 1

/-- The packet that an output grants: a head packet that requests it, least slack first, then the input granted least
recently. Among inputs that the output has never granted the rule gives no order: the one whose buffer filled first (log 15). -/
def Xbar.winner (x : Xbar) (port : Nat) : Option Packet :=
  let last := x.last.getD port []
  ((x.inputs.filterMap x.head).filter (·.out = port)).foldl (fun (b : Option Packet) p =>
    match b with
    | none => some p
    | some q =>
      if p.slack < q.slack || (p.slack = q.slack && grantAge last p.inp > grantAge last q.inp) then some p else some q) none

/-- A granted packet leaves its buffer: the next one stands at the buffer's head, and the output is taken for as many cycles as the
packet has beats (R199, R200). -/
def Xbar.grant (x : Xbar) (port : Nat) (p : Packet) (cyc : Nat) : Xbar :=
  let y : Xbar := { x with
    pkts := x.pkts.erase p,
    last := x.last.set port ((x.last.getD port []).filter (· ≠ p.inp) ++ [p.inp]),
    busy := x.busy.set port (cyc + p.beats) }
  match y.head p.inp with
  | none => y
  | some q => { y with pkts := y.pkts.map fun z => if z = q then { z with headAt := cyc } else z }

/-! ### What peers answer (R220 to R222) -/

/-- The results that a reply's payload gives a load or an atomic of one thread. -/
def Access.replyRes (a : Access) (payload : List Byte) : List Res :=
  a.items.flatMap fun i =>
    match a.kind with
    | .ld ty | .lr ty => loadRes ty i.tid i.dst (payload.take (ty.width / 8))
    | .atom _ ty true => resAt (ty.size = 8) i.tid i.dst (BitVec.ofNat 64 (leNat (payload.take ty.size)))
    | _ => []

/-- An operation's answers are used: it has arrived, with results. -/
def State.gotAnswer (s : State) (id : Nat) (res : List Res) : State :=
  (s.dropAsks id).modOp id fun o => { o with leg := .arrived, res := res }

/-- A set that a peer's answer holds, for a set register: INVALID where it is no image of the span (R79, R82). -/
def State.answerSet (s : State) (id : Nat) (w : Who) (k : Nat) (bs : List Byte) (more : List Res) : State :=
  match imgSet w.t.span bs with
  | none => s.failPeer id 0x09
  | some b =>
    match s.canon w.team (w.t.side w.core) b with
    | some (f, s) => s.gotAnswer id (.k k f :: more)
    | none => s.failPeer id 0x09

/-- A queue operation's answer: the status in its first byte, then a popped set's image (log 13). -/
def State.queueAnswer (s : State) (id : Nat) (w : Who) (kind : AccKind) (bs : List Byte) : State :=
  let st : Word := BitVec.ofNat 64 ((bs.headD 0).toNat)
  match kind with
  | .sqpop k sd => if st = 0 then s.answerSet id w k (bs.drop 1) [.u sd st] else s.gotAnswer id [.k k .empty, .u sd st]
  | .sqpush sd _ => s.gotAnswer id [.u sd st]
  | _ => s

/-- The path that waits for a word of code, and its activation. -/
def State.fetching? (s : State) (ctx op : Nat) : Option (PathRef × Act) :=
  [0, 1].findSome? fun slot =>
    match s.act? ⟨ctx, slot⟩ with
    | some a => if a.status = .fetching op then some (⟨ctx, slot⟩, a) else none
    | none => none

/-- A word of code has come from a peer: it is cached, and the fetch goes on (R332). -/
def State.codeAnswer (s : State) (id : Nat) (o : Op) (w : Who) (first : Option Word) (x : Word) : State :=
  let s := { s with pend := s.pend.erase id }.dropAsks id
  match s.fetching? o.ctx id with
  | none => s
  | some (r, a) =>
    let s := s.modCore w.core (·.fillCode ⟨w.t.launch, if first.isSome then a.pc + 8 else a.pc, x⟩)
    match first with
    | some f => s.fetched r a (.words ⟨a.pc, f, some x⟩)
    | none => let (f, s) := s.fetchRest w.core w.t.launch w.root a.pc x; s.fetched r a f

/-- A stream's descriptor has come from a peer (R159). -/
def State.strmAnswer (s : State) (id : Nat) (o : Op) (w : Who) (a : Access) (slot : Nat) (bs : List Byte) : State :=
  match s.streamFrom w a bs with
  | (.ok (some st), s) =>
    ((s.startStream o.ctx slot { st with tardy := o.late }).gotAnswer id []).modOp id fun o => { o with ov := false }
  | _ => s.failPeer id 0x05

/-- Peers have answered all that an operation asked (R221): what its kind makes of that. Engines, routes and stores go on with
their own steps. -/
def State.peerAnswer (s : State) (id : Nat) : State :=
  match s.pend.get? id with
  | none => s
  | some o =>
    match s.answered id, s.opWho o with
    | some bs, some w =>
      if !o.peer || o.leg ≠ .request then s
      else
        match o.work, o.acc with
        | .load, some a | .atomic, some a => s.gotAnswer id (if o.res = [] then [] else a.replyRes bs)
        | .sld k, _ => s.answerSet id w k (bs.take (imgLen w.t.span)) []
        | .queue, some a => s.queueAnswer id w a.kind bs
        | .cpa _ _ dst _ n, _ => (s.put (spadKey w.core dst) (padTo 32 (bs.take n))).gotAnswer id o.res
        | .word i, _ =>
          let x : Word := BitVec.ofNat 64 (leNat (bs.take 8))
          let fill (a : Act) : Act := match a.status with
            | .wait v => { a with status := .wait { v with conds := v.conds.zipIdx.map fun q =>
                if q.2 = i then { q.1 with word := some x } else q.1 } }
            | _ => a
          ((s.modCtx o.ctx (·.modUid o.uid fill)).dropAsks id).finishOp id
        | .code first, _ => s.codeAnswer id o w first (BitVec.ofNat 64 (leNat (bs.take 8)))
        | .strm slot, some a =>
          let s := s.strmAnswer id o w a slot bs
          if (s.pend.get? id).any (·.arrived?) then s.finishOp id else s
        | _, _ => s
    | _, _ => s

/-- A peer's answer has reached who asked (R205, R221). -/
def State.askDone (s : State) (tag slack : Nat) : State :=
  match s.hub.asks.find? (·.tag = tag) with
  | none => s
  | some a =>
    let s := s.modHub fun h => { h with asks := h.asks.map fun x => if x.tag = tag then { x with back := true, got := some x.part } else x }
    let s := match s.pend.get? a.owner with
      | some o => (s.modOp a.owner fun o => { o with late := o.late || slack = 0 }).note o.core o.uid o.pc fun t => { t with slackIn := some slack }
      | none => s
    s.peerAnswer a.owner

/-! ### Grants (R200, R205) -/

/-- A packet has ended its way on a die: a reply reaches its operation or brings a peer's answer, a request or an answer to a peer
departs from the hub. -/
def State.landed (s : State) (p : Packet) : State :=
  match p.flit with
  | some f => if p.reply && p.fromDie < 4 then s.askDone f.tag.toNat p.slack else s.depart f p.slack
  | none =>
    let s := match s.pend.get? p.op with
      | some o => s.note o.core o.uid o.pc fun t => { t with slackIn := some p.slack }
      | none => s
    s.modOp p.op fun o => { o with
      away := o.away - 1, late := o.late || p.slack = 0, leg := if o.away ≤ 1 then .arrived else o.leg }

/-- A granted packet has crossed. -/
def State.crossed (s : State) (d : Nat) (p : Packet) : State :=
  match p.next d with
  | some (d', q) => s.enqueue d' q
  | none => s.landed p

/-- XBAR_GRANT (R200): an output that no packet holds grants its winner, where that can be accepted. -/
def execXbarGrant (die port : Nat) (s : State) : Host.Outcome State Fault Refusal :=
  let s := s.epochs die
  let x := (s.die die).xbar
  if s.cyc die < x.busy.getD port 0 then .next s
  else
    match x.winner port with
    | none => .next s
    | some p =>
      if s.accepts die p then
        .next ((s.modDie die fun y => { y with xbar := y.xbar.grant port p (s.cyc die) }).crossed die p)
      else .next s

/-! ### Deadlock recovery (R210 to R213) -/

/-- The id of a buffer. -/
def bufferId (b : Nat × Nat) : Nat := 256 * b.1 + b.2

/-- The buffer in gone a buffer's head packet waits for space; none where its head is not blocked. -/
def State.waitsOn (s : State) (b : Nat × Nat) : Option (Nat × Nat) :=
  match (s.die b.1).xbar.head b.2 with
  | none => none
  | some p => if s.accepts b.1 p then none else (p.next b.1).map fun q => (q.1, q.2.inp)

/-- Whether a buffer takes part in a recovery or in the probe of an origin with an id below a bound (R211). -/
def State.heldBelow (s : State) (b : Nat × Nat) (bound : Nat) : Bool :=
  s.probes.any fun q => q.2.path.contains b && (q.2.confirmed || decide (bufferId (q.2.die, q.2.origin) < bound))

/-- Whether a probe with a lower origin, or a recovery, holds a buffer (R211). -/
def State.heldByLower (s : State) (p : Probe) (b : Nat × Nat) : Bool := s.heldBelow b (bufferId (p.die, p.origin))

/-- MIRE_PROBE_LAUNCH (R210, R211): a head packet has not been granted for the die's threshold. -/
def execMireProbeLaunch (die port : Nat) (s : State) : Host.Outcome State Fault Refusal :=
  match (s.die die).xbar.head port with
  | none => .next s
  | some p =>
    if s.cyc die - p.headAt < (s.die die).probeAfter || s.heldBelow (die, port) (bufferId (die, port) + 1) then .next s
    else
      let (id, s) := s.name
      let s := s.modDie die fun y => { y with xbar := { y.xbar with launched := y.xbar.launched + 1 } }
      .next { s with probes := s.probes.set id ⟨die, port, [(die, port)], false⟩ }

/-- MIRE_PROBE_HOP (R210, R211): to the buffer in which the head packet waits for space. A probe that comes to a buffer of a
lower one is dropped, its own origin among them; one that comes back to its origin has confirmed a cycle. -/
def execMireProbeHop (probe : Nat) (s : State) : Host.Outcome State Fault Refusal :=
  match s.probes.get? probe with
  | none => .next s
  | some p =>
    let drop : State := { s with probes := s.probes.erase probe }
    if p.confirmed then .next s
    else
      match s.waitsOn (p.path.getLast?.getD (p.die, p.origin)) with
      | none => .next drop
      | some b =>
        if s.heldByLower p b then .next drop
        else if b = (p.die, p.origin) then
          .next ({ s with probes := s.probes.set probe { p with confirmed := true } }.modDie p.die fun y =>
            { y with xbar := { y.xbar with confirmed := y.xbar.confirmed + 1 } })
        else if 64 ≤ p.path.length then .next drop
        else .next { s with probes := s.probes.set probe { p with path := p.path ++ [b] } }

/-- The heads of a cycle's buffers, each with its die and with what it becomes in the recovery slot of the next buffer. -/
def State.cycleMoves (s : State) (path : List (Nat × Nat)) : List (Nat × Packet × Nat × Packet) :=
  path.filterMap fun b =>
    match (s.die b.1).xbar.head b.2 with
    | none => none
    | some p => (p.next b.1).map fun q => (b.1, p, q.1, { q.2 with recov := true })

/-- One step of a cycle: all of its heads move at once along their routes (R212, R213). -/
def State.rotate (s : State) (path : List (Nat × Nat)) : State :=
  let l := s.cycleMoves path
  let s := forEach l (fun s m => s.modDie m.1 fun y => { y with xbar := { y.xbar with pkts := y.xbar.pkts.erase m.2.1 } }) s
  forEach l (fun s m => s.enqueue m.2.2.1 m.2.2.2) s

/-- RECOVERY_STEP (R212): one step of a confirmed cycle, until some head can move by ordinary arbitration. -/
def execRecoveryStep (probe : Nat) (s : State) : Host.Outcome State Fault Refusal :=
  match s.probes.get? probe with
  | none => .next s
  | some p =>
    if !p.confirmed then .next s
    else
      let free : State := { s with probes := s.probes.erase probe }
      if p.path.any fun b => (free.waitsOn b).isNone then .next free
      else
        .next ((s.rotate p.path).modDie p.die fun y => { y with xbar := { y.xbar with steps := y.xbar.steps + 1 } })

/-! ### Ports (R220) -/

/-- NYMNEX_PORT_DOWN (R220). -/
def execNymnexPortDown (port : Nat) (s : State) : Host.Outcome State Fault Refusal :=
  .next (if port < 18 then s.modHub fun h => { h with down := insertNat port (h.down.filter (· ≠ port)) } else s)

/-- NYMNEX_PORT_RESTORED (R220): flits that found no working port leave, with the slack that is left (R204). -/
def execNymnexPortRestored (port : Nat) (s : State) : Host.Outcome State Fault Refusal :=
  let s := s.modHub fun h => { h with down := h.down.filter (· ≠ port) }
  .next (forEach s.hub.stuck (fun s q => s.depart q.2 (s.hubSlack q.1 q.2.slack.toNat)) (s.modHub fun h => { h with stuck := [] }))

/-! ### Replies and failures (R220 to R222) -/

/-- Whether an operation is the hub's own, so that what it asked of peers comes back to the hub itself. -/
def Work.ofHub (w : Work) : Bool :=
  match w with
  | .coll _ _ _ _ _ => true
  | _ => false

/-- A reply reaches the hub for the request that its tag names; one that no request waits for is discarded (R222). With all of it
there, a core's goes on through the bridge of its address (R219). -/
def State.reply (s : State) (f : Flit) : State :=
  match s.hub.asks.find? fun a => a.tag = f.tag.toNat && a.sent.isSome && !a.back with
  | none => s
  | some a =>
    let part := a.part ++ f.payload
    let full : Bool := decide (a.n ≤ part.length)
    let s := s.modHub fun h => { h with asks := h.asks.map fun x => if x.tag = a.tag then { x with part := part, back := full } else x }
    if !full then s
    else if a.owner = 0 then s.askDone a.tag f.slack.toNat
    else
      match s.pend.get? a.owner with
      | none => s.dropAsks a.owner
      | some o =>
        if o.work.ofHub then s.askDone a.tag f.slack.toNat
        else
          let p := o.packet a.owner 4 0 a.va f.slack.toNat a.n 0 (some f)
          s.enqueue (dieOf o.core) { p with reply := true, inp := p.bridge, out := p.fromPort }

/-- A word of code cannot be had from its peer: the fetch traps (R222, R332). -/
def State.failCode (s : State) (id ctx code : Nat) : State :=
  let t : State := { s with pend := s.pend.erase id }.dropAsks id
  match s.fetching? ctx id with
  | some (r, a) => t.fetchTrap r a code
  | none => t

/-- What a peer's refusal or silence does to who asked (R222): REMOTE or RTIMEOUT over the threads that it concerns, the instruction
held in the operand log; the hub's own requests have a short answer, which fails what they were for. -/
def State.peerFails (s : State) (id code : Nat) (gone : Ask → Bool) : State :=
  let refuse (a : Ask) : Ask := { a with back := true, got := some (if a.n = 0 then [0] else []) }
  let short (s : State) : State :=
    s.modHub fun h => { h with asks := h.asks.map fun a => if a.owner = id && gone a then refuse a else a }
  match s.pend.get? id with
  | none => short s
  | some o =>
    match o.work with
    | .coll _ _ _ _ _ => short s
    | .route => s.failRoute id code
    | .code _ => s.failCode id o.ctx code
    | .stream slot _ _ => s.failStream o.ctx slot id code
    | _ =>
      if o.peer then s.failPeer id code
      else
        let lost := s.hub.asks.filter fun a => a.owner = id && gone a
        (s.failWalkers id o code fun _ va n => lost.any fun a => decide (va < a.va + a.n) && decide (a.va < va + n)).elim
          ((s.dropAsks id).failEngine id code)
          fun s => s.modHub fun h => { h with asks := h.asks.filter fun a => !(a.owner = id && gone a) }

/-- Whether a request has left and its answer is not there. -/
def Ask.pending (a : Ask) : Bool := a.sent.isSome && !a.back

/-- NEGATIVE_RESPONSE (R222). -/
def execNegativeResponse (op : Nat) (s : State) : Host.Outcome State Fault Refusal :=
  if s.hub.asks.any (fun a => a.owner = op && a.pending) then .next (s.peerFails op 0x06 Ask.pending) else .next s

/-- Whether a request has had no answer within 65,536 ticks of its flit's departure (R222). -/
def Ask.timedOut (tick : Nat) (a : Ask) : Bool :=
  !a.back && a.sent.any fun t => decide (ticksLong 65536 ≤ tick - t)

/-- REMOTE_TIMEOUT (R222). -/
def execRemoteTimeout (op : Nat) (s : State) : Host.Outcome State Fault Refusal :=
  if s.hub.asks.any (fun a => a.owner = op && a.timedOut s.tick) then .next (s.peerFails op 0x07 (Ask.timedOut s.tick)) else .next s

/-- A flit that keeps R220's table. -/
def flitOk (f : Flit) : Bool :=
  let id (x : BitVec 16) : Bool := decide (1 ≤ x.toNat) && decide (x.toNat ≤ 0x3FE)
  id f.src && id f.dst && decide (f.slack.toNat < 4096) && decide (f.kind.toNat ≤ 5)
    && decide (f.payload.length ≤ 224) && decide (f.va.toNat < 2 ^ 56)

/-- FLIT_RECEIVED (R220): a reply or a negative response goes to who asked, a step of a collective to the collective (R224), a request
waits to be served by its slack. -/
def execFlitReceived (f : Flit) (s : State) : Host.Outcome State Fault Refusal :=
  let wait : State := s.modHub fun h => { h with inbox := h.inbox ++ [(s.tick, f)] }
  if !flitOk f then .next s
  else
    match f.kind.toNat with
    | 3 => .next (s.reply f)
    | 4 =>
      match s.hub.asks.find? fun a => a.tag = f.tag.toNat && a.pending with
      | some a => .next (s.peerFails a.owner 0x06 fun x => x.tag = a.tag)
      | none => .next s
    | 5 => .next ((s.collTake f).getD wait)
    | _ => .next wait

/-! ### Serving a peer (R205, R221, R222) -/

/-- The slack that a waiting request has left (R204, R205). -/
def State.inboxSlack (s : State) (q : Nat × Flit) : Nat := s.hubSlack q.1 q.2.slack.toNat

/-- What a request needs: its length and permission. -/
def flitNeed (f : Flit) : Option (Nat × Need) :=
  match f.kind.toNat with
  | 0 => some (leNat (f.payload.take 2), .read)
  | 1 => some (f.payload.length, .write)
  | _ =>
    match f.payload with
    | op :: ty :: _ =>
      match atomOps[op.toNat]?, atomTys[ty.toNat]? with
      | some _, some t => some (t.size, .both)
      | _, _ => none
    | _ => none

/-- What a request of a peer reaches under this device's tables for peers (R221). -/
def State.peerReach (s : State) (f : Flit) : Reach :=
  match flitNeed f with
  | none => .bad
  | some (n, need) => s.reachHub s.hub.peerRoot f.va.toNat n need

/-- The die that a request of a peer goes to, 4 where it goes to none. -/
def State.peerDie (s : State) (f : Flit) : Nat := ((s.peerReach f).segs.head?.map fun p => dieOfKey p.1).getD 4

/-- Whether a waiting request can be served: its die is not held, and its bridge has room (R200, R287). Steps of collectives wait
for their collective. -/
def State.canServe (s : State) (f : Flit) : Bool :=
  f.kind ≠ 5 && (match (s.peerReach f).segs.head? with
    | some (k, _) => 4 ≤ dieOfKey k || ((s.die (dieOfKey k)).xbar.room (bridgeOf k) && !s.recovering (dieOfKey k) (bridgeOf k)
        && !(s.die (dieOfKey k)).held)
    | none => true)

/-- The request that is served next: of those that can be, least slack, then oldest. -/
def State.nextRequest (s : State) : Option (Nat × Flit) :=
  (s.hub.inbox.filter fun q => s.canServe q.2).foldl (fun (b : Option (Nat × Flit)) q =>
    match b with
    | none => some q
    | some g => if s.inboxSlack q < s.inboxSlack g then some q else some g) none

/-- Perform a request at its place; answers the reply's payload. -/
def State.serve (s : State) (f : Flit) (segs : List (Nat × Nat)) : List Byte × State :=
  match f.kind.toNat with
  | 0 => (s.readSegs segs, s)
  | 1 => ([], (State.putSegs segs f.payload s).unpoison segs)
  | _ =>
    match f.payload with
    | op :: ty :: rest =>
      let o := atomOps.getD op.toNat .add
      let t := atomTys.getD ty.toNat .int32
      let old : Word := BitVec.ofNat 64 (leNat (s.readSegs segs))
      let d : Word := BitVec.ofNat 64 (leNat (rest.take t.size))
      let d2 : Word := BitVec.ofNat 64 (leNat ((rest.drop t.size).take t.size))
      (natLE old.toNat t.size, State.putSegs segs (natLE (atomNew o t old d d2).toNat t.size) s)
    | _ => ([], s)

/-- The answer to a request. -/
def answerFlit (f : Flit) (kind : BitVec 8) (payload : List Byte) : Flit :=
  flitTo f.src.toNat f.tag.toNat kind f.va.toNat payload

/-- A request that was served goes through the die that holds its bytes, and its answer comes back to the hub; from the host's memory it
departs at once (R205, R219). -/
def State.sendThrough (s : State) (f : Flit) (slack : Nat) (segs : List (Nat × Nat)) (answer : Flit) : State :=
  match segs.head? with
  | some (k, _) =>
    if dieOfKey k < 4 then
      s.enqueue (dieOfKey k)
        { op := 0, reply := false, fromDie := 4, fromPort := 0, toDie := dieOfKey k, toPort := 96 + Config.sliceOf k % 96,
          bridge := bridgeOf k, inp := bridgeOf k, out := 96 + Config.sliceOf k % 96, slack := slack,
          data := if f.kind = 0 then 0 else f.payload.length, back := answer.payload.length, flit := some answer, counted := false,
          recov := false, since := 0, headAt := 0 }
    else s.depart answer slack
  | none => s.depart answer slack

/-- PEER_ACCESS_SERVE (R221, R222): translated by the tables for peers; a fault is reported to the management kernel alone, and
answered by a negative response. -/
def execPeerAccessServe (s : State) : Host.Outcome State Fault Refusal :=
  match s.nextRequest with
  | none => .next s
  | some q =>
    let f := q.2
    let slack := s.inboxSlack q
    let s := s.modHub fun h => { h with inbox := h.inbox.erase q }
    let refuse (code : Nat) : State :=
      (s.modHub fun h => { h with reports := h.reports ++ [⟨0, 6, code, f.va⟩] }).depart (answerFlit f 4 []) slack
    match s.peerReach f with
    | .prot => .next (refuse 0x05)
    | .bad => .next (refuse 0x04)
    | .absent _ => .next (refuse 0x04)
    | .go (.peer _ _) => .next (refuse 0x05)
    | .go (.mem segs _ _) =>
      if s.segsPoisoned segs then .next (refuse 0x10)
      else let (bs, s) := s.serve f segs; .next (s.sendThrough f slack segs (answerFlit f 3 bs))

end Sys2Proof.Machine
end

