-- ==== Sys2Proof/Machine/PWord.lean ====
section
/-!
DEFINITION. P words (R324 to R326): both slots read their operands as they were before the word, then both write.
-/

namespace Sys2Proof.Machine

/-- The second source of a slot under `.int32`. -/
def pSource (p : PSrc) (e : Env) (s : State) (t : Nat) : Word :=
  match p with
  | .vec v => lowBits 32 (v.read .int32 e s t)
  | .imm i => lowBits 32 (i.signExtend 64)

/-- The second source of a slot under `.fp32`; imm6 is no source of a floating slot. -/
def pSourceF (p : PSrc) (e : Env) (s : State) (t : Nat) : Nat :=
  match p with
  | .vec v => (v.read .fp32 e s t).toNat % 2 ^ 32
  | .imm i => (i.signExtend 32).toNat

/-- The first source of a slot: its destination. -/
def pFirst (a : PArgs) (e : Env) (s : State) (t : Nat) : Lane := ((e.thread s t).reg a.d.toNat).val

/-- An integer slot: the form of R334 under `.int32`. -/
def pInt (f : IntFn) (a : PArgs) (e : Env) (s : State) (t : Nat) : List (Nat × Lane × BitVec 32) :=
  let y := pSource a.s e s t
  [(a.d.toNat, (f 32 true ((pFirst a e s t).setWidth 64) y 0 y).setWidth 32, 0)]

/-- A floating slot: the form of R364 under `.fp32` and `.rne`. -/
def pFloat (f : Nat → Nat → FRes) (a : PArgs) (e : Env) (s : State) (t : Nat) : List (Nat × Lane × BitVec 32) :=
  [(a.d.toNat, lane2 .fp32 f (pFirst a e s t).toNat (pSourceF a.s e s t))]

/-- What a slot writes for a thread: register, value, flags (R325, R326). -/
def slotWrites (op : POp) (a : PArgs) (e : Env) (s : State) (t : Nat) : List (Nat × Lane × BitVec 32) :=
  match op with
  | .nop => []
  | .mov => pInt opMov a e s t
  | .iadd => pInt opAdd a e s t
  | .isub => pInt opSub a e s t
  | .and => pInt opAnd a e s t
  | .or => pInt opOr a e s t
  | .xor => pInt opXor a e s t
  | .shl => pInt opShl a e s t
  | .shr => pInt opShr a e s t
  | .sar => pInt opSar a e s t
  | .imin => pInt opMin a e s t
  | .imax => pInt opMax a e s t
  | .fadd => pFloat (Fmt.fp32.add .rne) a e s t
  | .fsub => pFloat (Fmt.fp32.sub .rne) a e s t
  | .fmul => pFloat (Fmt.fp32.mul .rne) a e s t
  | .fmin => pFloat (Fmt.fp32.minMax false) a e s t
  | .fmax => pFloat (Fmt.fp32.minMax true) a e s t
  | .not => pInt opNot a e s t
  | .ineg => pInt opNeg a e s t
  | .iabs => pInt opAbs a e s t

/-- Whether a slot reads only its PS. -/
def unary (op : POp) : Bool :=
  match op with
  | .mov | .not | .ineg | .iabs => true
  | _ => false

/-- What a slot reads and writes. -/
def slotNeeds (op : POp) (a : PArgs) : Needs :=
  if op = .nop then {}
  else
    { v := (if unary op then [] else [(a.d.toNat, a.rm)])
        ++ (match a.s with
            | .vec v => v.need false a.rm
            | .imm _ => []),
      dv := [a.d.toNat] }

/-- A P word: slots A and B, for every held thread. -/
def execPair (op : POp) (a : PArgs) (b : PSlot) (s : State) : Host.Outcome State Fault Refusal :=
  let na := slotNeeds op a
  let nb := slotNeeds b.op b.args
  issueThreads s none { v := na.v ++ nb.v, dv := na.dv ++ nb.dv } fun e ts s =>
    e.retire (forEach ts (fun s' t =>
      forEach (slotWrites op a e s t ++ slotWrites b.op b.args e s t) (fun s' w => e.putF s' t w.1 w.2) s') s)

/-- P_NOP (R324): slot A does nothing. -/
def execPNop (b : PSlot) (s : State) : Host.Outcome State Fault Refusal := execPair .nop ⟨0, .imm 0, false⟩ b s
/-- P_MOV (R326). -/
def execPMov (a : PArgs) (b : PSlot) (s : State) : Host.Outcome State Fault Refusal := execPair .mov a b s
/-- P_IADD (R326). -/
def execPIadd (a : PArgs) (b : PSlot) (s : State) : Host.Outcome State Fault Refusal := execPair .iadd a b s
/-- P_ISUB (R326). -/
def execPIsub (a : PArgs) (b : PSlot) (s : State) : Host.Outcome State Fault Refusal := execPair .isub a b s
/-- P_AND (R326). -/
def execPAnd (a : PArgs) (b : PSlot) (s : State) : Host.Outcome State Fault Refusal := execPair .and a b s
/-- P_OR (R326). -/
def execPOr (a : PArgs) (b : PSlot) (s : State) : Host.Outcome State Fault Refusal := execPair .or a b s
/-- P_XOR (R326). -/
def execPXor (a : PArgs) (b : PSlot) (s : State) : Host.Outcome State Fault Refusal := execPair .xor a b s
/-- P_SHL (R326). -/
def execPShl (a : PArgs) (b : PSlot) (s : State) : Host.Outcome State Fault Refusal := execPair .shl a b s
/-- P_SHR (R326). -/
def execPShr (a : PArgs) (b : PSlot) (s : State) : Host.Outcome State Fault Refusal := execPair .shr a b s
/-- P_SAR (R326). -/
def execPSar (a : PArgs) (b : PSlot) (s : State) : Host.Outcome State Fault Refusal := execPair .sar a b s
/-- P_IMIN (R326). -/
def execPImin (a : PArgs) (b : PSlot) (s : State) : Host.Outcome State Fault Refusal := execPair .imin a b s
/-- P_IMAX (R326). -/
def execPImax (a : PArgs) (b : PSlot) (s : State) : Host.Outcome State Fault Refusal := execPair .imax a b s
/-- P_FADD (R326). -/
def execPFadd (a : PArgs) (b : PSlot) (s : State) : Host.Outcome State Fault Refusal := execPair .fadd a b s
/-- P_FSUB (R326). -/
def execPFsub (a : PArgs) (b : PSlot) (s : State) : Host.Outcome State Fault Refusal := execPair .fsub a b s
/-- P_FMUL (R326). -/
def execPFmul (a : PArgs) (b : PSlot) (s : State) : Host.Outcome State Fault Refusal := execPair .fmul a b s
/-- P_FMIN (R326). -/
def execPFmin (a : PArgs) (b : PSlot) (s : State) : Host.Outcome State Fault Refusal := execPair .fmin a b s
/-- P_FMAX (R326). -/
def execPFmax (a : PArgs) (b : PSlot) (s : State) : Host.Outcome State Fault Refusal := execPair .fmax a b s
/-- P_NOT (R326). -/
def execPNot (a : PArgs) (b : PSlot) (s : State) : Host.Outcome State Fault Refusal := execPair .not a b s
/-- P_INEG (R326). -/
def execPIneg (a : PArgs) (b : PSlot) (s : State) : Host.Outcome State Fault Refusal := execPair .ineg a b s
/-- P_IABS (R326). -/
def execPIabs (a : PArgs) (b : PSlot) (s : State) : Host.Outcome State Fault Refusal := execPair .iabs a b s

end Sys2Proof.Machine
end

