-- ==== Sys2Proof/Machine/System.lean ====
section
/-!
DEFINITION. Control registers, clocks, marks, slack (R202, R207, R208, R274, R296, R297, R354 to R356).
-/

namespace Sys2Proof.Machine

/-! ### CSRR -/

/-- Whether an operation of a path may still set a flag of some threads (R355). -/
def Op.flagsDue (o : Op) (ts : List Nat) : Bool :=
  (o.res.any fun r => match r with
    | .flags t _ => ts.contains t
    | _ => false)
  || (match o.work with
    | .latency => o.res.any fun r => match r with
        | .v t _ _ => ts.contains t
        | _ => false
    | .desc _ _ _ _ w _ => w.any fun x => !x.complete && ts.contains x.tid
    | _ => false)

/-- Whether an operand-log entry may still set a flag of some threads. -/
def LogEntry.flagsDue (l : LogEntry) (ts : List Nat) : Bool :=
  (match l.acc.kind with
   | .route _ _ | .desc _ _ => true
   | _ => false) && l.acc.items.any fun i => ts.contains i.tid

/-- Whether a flag of some threads is still to be set by an earlier instruction of the path (R355). -/
def Env.flagsDue (e : Env) (s : State) (ts : List Nat) : Bool :=
  (s.pend.vals.any fun o => o.ctx = e.ref.ctx && o.uid = e.act.uid && o.flagsDue ts)
    || e.ctx.log.any fun l => l.acc.uid = e.act.uid && l.flagsDue ts

/-- CSRR of TSW (R355). -/
def execCsrrTsw (o : TswReadOp) (s : State) : Host.Outcome State Fault Refusal :=
  issueThreads s o.guard { dv := [o.d.toNat] } fun e ts s =>
    if e.flagsDue s ts then e.park s (.again .log)
    else e.retire (forEach ts (fun s t => e.setV s t o.d.toNat ((e.thread s t).tsw &&& 0x1FF)) s)

/-- FESUM (R356). -/
def Env.fesum (e : Env) (s : State) : Word :=
  let vemp := (List.range 224).countP fun i => e.held.any fun t => !((e.thread s t).reg i).full
  let semp := (List.range 160).countP fun i => !(e.act.u i).full
  0#47 ++ BitVec.ofBool (s.logUsed e.ref.ctx ≠ 0) ++ BitVec.ofNat 8 vemp ++ BitVec.ofNat 8 semp

/-- PSTAT (R33). -/
def Env.pstat (e : Env) : Word :=
  0#61 ++ BitVec.ofBool (e.ref.slot = 1) ++ BitVec.ofBool (e.ctx.p1 ≠ []) ++ 1#1

/-- FRAME (R40); outside every frame every field is 0 (R41). -/
def Env.frameReg (e : Env) (s : State) : Word :=
  match e.ctx.frames with
  | [] => 0
  | f :: _ =>
    match e.team.frames.get? f with
    | none => 0
    | some x =>
      match x.members with
      | [] => 0
      | m :: ms =>
        let low := ms.foldl min m
        let leads := (s.holders e.ctx.team [low]).any fun h => h.1 = e.ref.ctx
        0#44 ++ BitVec.ofBool leads ++ BitVec.ofNat 11 low ++ 0#4 ++ BitVec.ofNat 4 x.depth

/-- FORM of a set register (R64). -/
def SetForm.code (f : SetForm) : Nat :=
  match f with
  | .empty => 0
  | .inline _ _ => 1
  | .handle _ _ _ => 2
  | .raw b => (b.extractLsb' 126 2).toNat

/-- SFORM (R65). -/
def Env.sform (e : Env) : Word :=
  BitVec.ofNat 64 ((List.range 16).foldl (fun n i => n + (e.act.kr i).form.code * 4 ^ i) 0)

/-- A control register of the path at issue (R354). -/
def Env.csr (e : Env) (s : State) (c : Csr) : Word :=
  match c with
  | .slk => e.ctx.slk
  | .ovd => e.ctx.ovd
  | .tstat => e.ctx.tstat
  | .fesum => e.fesum s
  | .pstat => e.pstat
  | .frame => e.frameReg s
  | .sform => e.sform

/-- CSRR with a uniform destination (R354, R355). -/
def execCsrr (o : CsrrOp) (s : State) : Host.Outcome State Fault Refusal :=
  issuePath s { du := [o.sd.toNat] } fun e s => e.retire (e.setU s o.sd.toNat (e.csr s o.csr))

/-! ### CSRW -/

/-- CSRW of TSW (R355): bits [8:0] of the executing threads. -/
def execCsrwTsw (o : TswWriteOp) (s : State) : Host.Outcome State Fault Refusal :=
  issueThreads s o.guard { v := o.a.need false o.ra } fun e ts s =>
    e.retire (forEach ts (fun s t =>
      let x : BitVec 32 := ((o.a.read .uint32 e s t).setWidth 32) &&& 0x1FF
      e.modThread s t fun th => { th with tsw := x }) s)

/-- Write SLK (R202, R208): reserved bits stay zero. -/
def Env.setSlk (e : Env) (s : State) (x : Word) : State := e.modCtx s fun c => { c with slk := x &&& 0xFFFFFFFFFFFF#64 }

/-- CSRW of SLK (R354). -/
def execCsrwSlk (o : UniSrcOp) (s : State) : Host.Outcome State Fault Refusal :=
  issuePath s { u := o.a.need o.ra } fun e s => e.retire (e.setSlk s (o.a.read e))

/-- CSRW of OVD (R207). -/
def execCsrwOvd (o : UniSrcOp) (s : State) : Host.Outcome State Fault Refusal :=
  issuePath s { u := o.a.need o.ra } fun e s =>
    e.retire (e.modCtx s fun c => { c with ovd := o.a.read e &&& 0x3FFFF#64 })

/-- CSRW of TSTAT (R274): ACT, while a handler runs. -/
def execCsrwTstat (o : UniSrcOp) (s : State) : Host.Outcome State Fault Refusal :=
  issuePath s { u := o.a.need o.ra } fun e s =>
    let x := o.a.read e
    e.retire (e.modCtx s fun c =>
      if c.nest then { c with tstat := (c.tstat &&& ~~~ (0x600#64)) ||| (x &&& 0x600#64) } else c)

/-! ### RDCLK, TMARK, SLKSET -/

/-- RDCLK (R297). -/
def execRdclk (sd : BitVec 8) (s : State) : Host.Outcome State Fault Refusal :=
  issuePath s { du := [sd.toNat, sd.toNat + 1] } fun e s =>
    e.retire (e.setU (e.setU s sd.toNat (BitVec.ofNat 64 (s.cycOf e.ctx.core))) (sd.toNat + 1) (BitVec.ofNat 64 s.ticks))

/-- TMARK (R296). -/
def execTmark (o : UniSrcOp) (s : State) : Host.Outcome State Fault Refusal :=
  issuePath s { u := o.a.need o.ra } fun e s => e.retire (e.record s 9 (natLE (o.a.read e).toNat 8))

/-- SLKSET sa (R208). -/
def execSlkset (o : UniSrcOp) (s : State) : Host.Outcome State Fault Refusal :=
  issuePath s { u := o.a.need o.ra } fun e s => e.retire (e.setSlk s (o.a.read e))

/-- SLKSET sa, c (R208). -/
def execSlksetOne (o : SlkOneOp) (s : State) : Host.Outcome State Fault Refusal :=
  issuePath s { u := o.a.need o.ra } fun e s =>
    let sh := 12 * o.cls.toNat
    e.retire (e.setSlk s ((e.ctx.slk &&& ~~~ (0xFFF#64 <<< sh)) ||| ((o.a.read e &&& 0xFFF#64) <<< sh)))

end Sys2Proof.Machine
end

