-- ==== Sys2Proof/Machine/Dispatch.lean ====
section
/-!
DEFINITION. The dispatch: one arm for each constructor of `Instr`.
-/

namespace Sys2Proof.Machine

def exec (i : Instr) (s : State) : Host.Outcome State Fault Refusal :=
  match i with
  | .nop => Sys2Proof.Machine.execNop s
  | .bra t => Sys2Proof.Machine.execBra t s
  | .brs o => Sys2Proof.Machine.execBrs o s
  | .brc o => Sys2Proof.Machine.execBrc o s
  | .call o => Sys2Proof.Machine.execCall o s
  | .callv o => Sys2Proof.Machine.execCallv o s
  | .ret => Sys2Proof.Machine.execRet s
  | .exit g => Sys2Proof.Machine.execExit g s
  | .wait o => Sys2Proof.Machine.execWait o s
  | .bar o => Sys2Proof.Machine.execBar o s
  | .trap => Sys2Proof.Machine.execTrap s
  | .rft => Sys2Proof.Machine.execRft s
  | .brk => Sys2Proof.Machine.execBrk s
  | .launch o => Sys2Proof.Machine.execLaunch o s
  | .spawn o => Sys2Proof.Machine.execSpawn o s
  | .test o => Sys2Proof.Machine.execTest o s
  | .testb o => Sys2Proof.Machine.execTestb o s
  | .sand o => Sys2Proof.Machine.execSand o s
  | .sor o => Sys2Proof.Machine.execSor o s
  | .sxor o => Sys2Proof.Machine.execSxor o s
  | .sandn o => Sys2Proof.Machine.execSandn o s
  | .snot o => Sys2Proof.Machine.execSnot o s
  | .smov o => Sys2Proof.Machine.execSmov o s
  | .sclr o => Sys2Proof.Machine.execSclr o s
  | .sall o => Sys2Proof.Machine.execSall o s
  | .sheld o => Sys2Proof.Machine.execSheld o s
  | .sfirst o => Sys2Proof.Machine.execSfirst o s
  | .scnt o => Sys2Proof.Machine.execScnt o s
  | .suniF o => Sys2Proof.Machine.execSuniF o s
  | .sld o => Sys2Proof.Machine.execSld o s
  | .sst o => Sys2Proof.Machine.execSst o s
  | .sqpush o => Sys2Proof.Machine.execSqpush o s
  | .sqpop o => Sys2Proof.Machine.execSqpop o s
  | .applyG o => Sys2Proof.Machine.execApplyG o s
  | .applyF o => Sys2Proof.Machine.execApplyF o s
  | .applykF o => Sys2Proof.Machine.execApplykF o s
  | .fork o => Sys2Proof.Machine.execFork o s
  | .aend => Sys2Proof.Machine.execAend s
  | .iadd o => Sys2Proof.Machine.execIadd o s
  | .isub o => Sys2Proof.Machine.execIsub o s
  | .imul o => Sys2Proof.Machine.execImul o s
  | .imulh o => Sys2Proof.Machine.execImulh o s
  | .imad o => Sys2Proof.Machine.execImad o s
  | .div o => Sys2Proof.Machine.execDiv o s
  | .rem o => Sys2Proof.Machine.execRem o s
  | .imin o => Sys2Proof.Machine.execImin o s
  | .imax o => Sys2Proof.Machine.execImax o s
  | .iabs o => Sys2Proof.Machine.execIabs o s
  | .ineg o => Sys2Proof.Machine.execIneg o s
  | .lea o => Sys2Proof.Machine.execLea o s
  | .sel o => Sys2Proof.Machine.execSel o s
  | .mov o => Sys2Proof.Machine.execMov o s
  | .movi o => Sys2Proof.Machine.execMovi o s
  | .and o => Sys2Proof.Machine.execAnd o s
  | .or o => Sys2Proof.Machine.execOr o s
  | .xor o => Sys2Proof.Machine.execXor o s
  | .not o => Sys2Proof.Machine.execNot o s
  | .shl o => Sys2Proof.Machine.execShl o s
  | .shr o => Sys2Proof.Machine.execShr o s
  | .sar o => Sys2Proof.Machine.execSar o s
  | .rol o => Sys2Proof.Machine.execRol o s
  | .ror o => Sys2Proof.Machine.execRor o s
  | .popc o => Sys2Proof.Machine.execPopc o s
  | .clz o => Sys2Proof.Machine.execClz o s
  | .bfe o => Sys2Proof.Machine.execBfe o s
  | .bfi o => Sys2Proof.Machine.execBfi o s
  | .fadd o => Sys2Proof.Machine.execFadd o s
  | .fsub o => Sys2Proof.Machine.execFsub o s
  | .fmul o => Sys2Proof.Machine.execFmul o s
  | .fma o => Sys2Proof.Machine.execFma o s
  | .fmin o => Sys2Proof.Machine.execFmin o s
  | .fmax o => Sys2Proof.Machine.execFmax o s
  | .fldx o => Sys2Proof.Machine.execFldx o s
  | .fsplit o => Sys2Proof.Machine.execFsplit o s
  | .frnd o => Sys2Proof.Machine.execFrnd o s
  | .frcp o => Sys2Proof.Machine.execFrcp o s
  | .frsq o => Sys2Proof.Machine.execFrsq o s
  | .fsqrt o => Sys2Proof.Machine.execFsqrt o s
  | .exp2 o => Sys2Proof.Machine.execExp2 o s
  | .exp2s o => Sys2Proof.Machine.execExp2s o s
  | .log2 o => Sys2Proof.Machine.execLog2 o s
  | .fsin o => Sys2Proof.Machine.execFsin o s
  | .fcos o => Sys2Proof.Machine.execFcos o s
  | .ftanh o => Sys2Proof.Machine.execFtanh o s
  | .cvt o => Sys2Proof.Machine.execCvt o s
  | .qpack o => Sys2Proof.Machine.execQpack o s
  | .qunp o => Sys2Proof.Machine.execQunp o s
  | .gnorm o => Sys2Proof.Machine.execGnorm o s
  | .shfl o => Sys2Proof.Machine.execShfl o s
  | .scat o => Sys2Proof.Machine.execScat o s
  | .lred o => Sys2Proof.Machine.execLred o s
  | .lscan o => Sys2Proof.Machine.execLscan o s
  | .bcast o => Sys2Proof.Machine.execBcast o s
  | .ld o => Sys2Proof.Machine.execLd o s
  | .st o => Sys2Proof.Machine.execSt o s
  | .lr o => Sys2Proof.Machine.execLr o s
  | .sc o => Sys2Proof.Machine.execSc o s
  | .fence o => Sys2Proof.Machine.execFence o s
  | .tagl o => Sys2Proof.Machine.execTagl o s
  | .tags o => Sys2Proof.Machine.execTags o s
  | .tagi o => Sys2Proof.Machine.execTagi o s
  | .presSet o => Sys2Proof.Machine.execPresSet o s
  | .presClr o => Sys2Proof.Machine.execPresClr o s
  | .strm o => Sys2Proof.Machine.execStrm o s
  | .strmx id => Sys2Proof.Machine.execStrmx id s
  | .atom o => Sys2Proof.Machine.execAtom o s
  | .gmax o => Sys2Proof.Machine.execGmax o s
  | .gnext o => Sys2Proof.Machine.execGnext o s
  | .route o => Sys2Proof.Machine.execRoute o s
  | .cpa o => Sys2Proof.Machine.execCpa o s
  | .cpwait o => Sys2Proof.Machine.execCpwait o s
  | .bcopy o => Sys2Proof.Machine.execBcopy o s
  | .gather o => Sys2Proof.Machine.execGather o s
  | .tlrd o => Sys2Proof.Machine.execTlrd o s
  | .coll o => Sys2Proof.Machine.execColl o s
  | .chsnd o => Sys2Proof.Machine.execChsnd o s
  | .chrcv o => Sys2Proof.Machine.execChrcv o s
  | .mldw o => Sys2Proof.Machine.execMldw o s
  | .mswp pair => Sys2Proof.Machine.execMswp pair s
  | .mstr o => Sys2Proof.Machine.execMstr o s
  | .mdrnRegisters o => Sys2Proof.Machine.execMdrnRegisters o s
  | .mdrnScratchpad o => Sys2Proof.Machine.execMdrnScratchpad o s
  | .macq o => Sys2Proof.Machine.execMacq o s
  | .mrel o => Sys2Proof.Machine.execMrel o s
  | .desc o => Sys2Proof.Machine.execDesc o s
  | .ascd o => Sys2Proof.Machine.execAscd o s
  | .pmovToVector o => Sys2Proof.Machine.execPmovToVector o s
  | .pmovToPath o => Sys2Proof.Machine.execPmovToPath o s
  | .csrrTsw o => Sys2Proof.Machine.execCsrrTsw o s
  | .csrr o => Sys2Proof.Machine.execCsrr o s
  | .csrwTsw o => Sys2Proof.Machine.execCsrwTsw o s
  | .csrwSlk o => Sys2Proof.Machine.execCsrwSlk o s
  | .csrwOvd o => Sys2Proof.Machine.execCsrwOvd o s
  | .csrwTstat o => Sys2Proof.Machine.execCsrwTstat o s
  | .rdclk sd => Sys2Proof.Machine.execRdclk sd s
  | .tmark o => Sys2Proof.Machine.execTmark o s
  | .slkset o => Sys2Proof.Machine.execSlkset o s
  | .slksetOne o => Sys2Proof.Machine.execSlksetOne o s
  | .pNop b => Sys2Proof.Machine.execPNop b s
  | .pMov a b => Sys2Proof.Machine.execPMov a b s
  | .pIadd a b => Sys2Proof.Machine.execPIadd a b s
  | .pIsub a b => Sys2Proof.Machine.execPIsub a b s
  | .pAnd a b => Sys2Proof.Machine.execPAnd a b s
  | .pOr a b => Sys2Proof.Machine.execPOr a b s
  | .pXor a b => Sys2Proof.Machine.execPXor a b s
  | .pShl a b => Sys2Proof.Machine.execPShl a b s
  | .pShr a b => Sys2Proof.Machine.execPShr a b s
  | .pSar a b => Sys2Proof.Machine.execPSar a b s
  | .pImin a b => Sys2Proof.Machine.execPImin a b s
  | .pImax a b => Sys2Proof.Machine.execPImax a b s
  | .pFadd a b => Sys2Proof.Machine.execPFadd a b s
  | .pFsub a b => Sys2Proof.Machine.execPFsub a b s
  | .pFmul a b => Sys2Proof.Machine.execPFmul a b s
  | .pFmin a b => Sys2Proof.Machine.execPFmin a b s
  | .pFmax a b => Sys2Proof.Machine.execPFmax a b s
  | .pNot a b => Sys2Proof.Machine.execPNot a b s
  | .pIneg a b => Sys2Proof.Machine.execPIneg a b s
  | .pIabs a b => Sys2Proof.Machine.execPIabs a b s
  | .illegalWord => Sys2Proof.Machine.execIllegalWord s
  | .instructionFetch r => Sys2Proof.Machine.execInstructionFetch r s
  | .frameRendezvousComplete team frame => Sys2Proof.Machine.execFrameRendezvousComplete team frame s
  | .appliedContextForm team app => Sys2Proof.Machine.execAppliedContextForm team app s
  | .contextLend ctx => Sys2Proof.Machine.execContextLend ctx s
  | .contextUnlend ctx => Sys2Proof.Machine.execContextUnlend ctx s
  | .binTimerExpiry core bin => Sys2Proof.Machine.execBinTimerExpiry core bin s
  | .binFormOnSlot core => Sys2Proof.Machine.execBinFormOnSlot core s
  | .binPlacementResume r => Sys2Proof.Machine.execBinPlacementResume r s
  | .fairnessTimer core => Sys2Proof.Machine.execFairnessTimer core s
  | .quarterIssue core quarter => Sys2Proof.Machine.execQuarterIssue core quarter s
  | .scoreboardWake r => Sys2Proof.Machine.execScoreboardWake r s
  | .loadReply op tid => Sys2Proof.Machine.execLoadReply op tid s
  | .storeAck ctx => Sys2Proof.Machine.execStoreAck ctx s
  | .atomicReply op => Sys2Proof.Machine.execAtomicReply op s
  | .scOutcome op => Sys2Proof.Machine.execScOutcome op s
  | .longLatencyResult op => Sys2Proof.Machine.execLongLatencyResult op s
  | .sldComplete op => Sys2Proof.Machine.execSldComplete op s
  | .setQueueComplete op => Sys2Proof.Machine.execSetQueueComplete op s
  | .gnextComplete op => Sys2Proof.Machine.execGnextComplete op s
  | .routeComplete op => Sys2Proof.Machine.execRouteComplete op s
  | .tlrdValue op => Sys2Proof.Machine.execTlrdValue op s
  | .launchAccepted op => Sys2Proof.Machine.execLaunchAccepted op s
  | .translationComplete r => Sys2Proof.Machine.execTranslationComplete r s
  | .faultServiceComplete p => Sys2Proof.Machine.execFaultServiceComplete p s
  | .faultUnservable root va => Sys2Proof.Machine.execFaultUnservable root va s
  | .heldTrapRaise r => Sys2Proof.Machine.execHeldTrapRaise r s
  | .pageInvalidation root va => Sys2Proof.Machine.execPageInvalidation root va s
  | .cpaCopyComplete op => Sys2Proof.Machine.execCpaCopyComplete op s
  | .cpwaitComplete r => Sys2Proof.Machine.execCpwaitComplete r s
  | .waitComplete r => Sys2Proof.Machine.execWaitComplete r s
  | .waitTimeout r => Sys2Proof.Machine.execWaitTimeout r s
  | .waitWordReread r => Sys2Proof.Machine.execWaitWordReread r s
  | .streamLineIssue ctx slot => Sys2Proof.Machine.execStreamLineIssue ctx slot s
  | .streamLineFilled op => Sys2Proof.Machine.execStreamLineFilled op s
  | .bcopyComplete op => Sys2Proof.Machine.execBcopyComplete op s
  | .gatherRowComplete op row => Sys2Proof.Machine.execGatherRowComplete op row s
  | .gatherComplete op => Sys2Proof.Machine.execGatherComplete op s
  | .matrixPassGrant quad => Sys2Proof.Machine.execMatrixPassGrant quad s
  | .matrixPassComplete op => Sys2Proof.Machine.execMatrixPassComplete op s
  | .mldwComplete op => Sys2Proof.Machine.execMldwComplete op s
  | .mswpTakesEffect op => Sys2Proof.Machine.execMswpTakesEffect op s
  | .mdrnComplete op => Sys2Proof.Machine.execMdrnComplete op s
  | .mrelRowsFreed op => Sys2Proof.Machine.execMrelRowsFreed op s
  | .descThreadComplete op tid => Sys2Proof.Machine.execDescThreadComplete op tid s
  | .descLevel op => Sys2Proof.Machine.execDescLevel op s
  | .descComplete op => Sys2Proof.Machine.execDescComplete op s
  | .ascdComplete op => Sys2Proof.Machine.execAscdComplete op s
  | .chsndSlotFree r => Sys2Proof.Machine.execChsndSlotFree r s
  | .chsndSlotFilled op => Sys2Proof.Machine.execChsndSlotFilled op s
  | .chrcvDataReady r => Sys2Proof.Machine.execChrcvDataReady r s
  | .chrcvCopyComplete op => Sys2Proof.Machine.execChrcvCopyComplete op s
  | .channelDeadTrap r => Sys2Proof.Machine.execChannelDeadTrap r s
  | .collDescriptorRead op => Sys2Proof.Machine.execCollDescriptorRead op s
  | .collStep op m => Sys2Proof.Machine.execCollStep op m s
  | .collPeerTimeout op => Sys2Proof.Machine.execCollPeerTimeout op s
  | .collComplete op => Sys2Proof.Machine.execCollComplete op s
  | .xbarGrant die port => Sys2Proof.Machine.execXbarGrant die port s
  | .slackEpoch die => Sys2Proof.Machine.execSlackEpoch die s
  | .overdueTrap r => Sys2Proof.Machine.execOverdueTrap r s
  | .mireProbeLaunch die port => Sys2Proof.Machine.execMireProbeLaunch die port s
  | .mireProbeHop probe => Sys2Proof.Machine.execMireProbeHop probe s
  | .recoveryStep probe => Sys2Proof.Machine.execRecoveryStep probe s
  | .flitReceived f => Sys2Proof.Machine.execFlitReceived f s
  | .peerAccessServe => Sys2Proof.Machine.execPeerAccessServe s
  | .negativeResponse op => Sys2Proof.Machine.execNegativeResponse op s
  | .remoteTimeout op => Sys2Proof.Machine.execRemoteTimeout op s
  | .lrReservationExpiry team tid => Sys2Proof.Machine.execLrReservationExpiry team tid s
  | .launchDoorbell queue record => Sys2Proof.Machine.execLaunchDoorbell queue record s
  | .launchRecordCheck l => Sys2Proof.Machine.execLaunchRecordCheck l s
  | .dependenceRead l => Sys2Proof.Machine.execDependenceRead l s
  | .dependencesMet l => Sys2Proof.Machine.execDependencesMet l s
  | .bandPlacement l => Sys2Proof.Machine.execBandPlacement l s
  | .teamMigration team core => Sys2Proof.Machine.execTeamMigration team core s
  | .preemptionTimer l => Sys2Proof.Machine.execPreemptionTimer l s
  | .preemptionStop team => Sys2Proof.Machine.execPreemptionStop team s
  | .loadDrainTimeout team => Sys2Proof.Machine.execLoadDrainTimeout team s
  | .teamRestore team core => Sys2Proof.Machine.execTeamRestore team core s
  | .launchComplete l => Sys2Proof.Machine.execLaunchComplete l s
  | .teamFree team => Sys2Proof.Machine.execTeamFree team s
  | .launchKill l => Sys2Proof.Machine.execLaunchKill l s
  | .trapEntry r => Sys2Proof.Machine.execTrapEntry r s
  | .dieHold die => Sys2Proof.Machine.execDieHold die s
  | .dieArm die => Sys2Proof.Machine.execDieArm die s
  | .dieDisarm die => Sys2Proof.Machine.execDieDisarm die s
  | .preciseStop p => Sys2Proof.Machine.execPreciseStop p s
  | .dieResume die => Sys2Proof.Machine.execDieResume die s
  | .captureEnable die => Sys2Proof.Machine.execCaptureEnable die s
  | .captureDisable die => Sys2Proof.Machine.execCaptureDisable die s
  | .checkpointIntervalStart die => Sys2Proof.Machine.execCheckpointIntervalStart die s
  | .intervalEarlyEnd die => Sys2Proof.Machine.execIntervalEarlyEnd die s
  | .samplingEnable die => Sys2Proof.Machine.execSamplingEnable die s
  | .garnetTag core => Sys2Proof.Machine.execGarnetTag core s
  | .garnetRecord core => Sys2Proof.Machine.execGarnetRecord core s
  | .setTraceEnable die launch => Sys2Proof.Machine.execSetTraceEnable die launch s
  | .traceSync ring => Sys2Proof.Machine.execTraceSync ring s
  | .traceLoss ring => Sys2Proof.Machine.execTraceLoss ring s
  | .tracePageDrop ring => Sys2Proof.Machine.execTracePageDrop ring s
  | .traceReadPageMove ring page => Sys2Proof.Machine.execTraceReadPageMove ring page s
  | .deviceReset => Sys2Proof.Machine.execDeviceReset s
  | .firmwareVerify => Sys2Proof.Machine.execFirmwareVerify s
  | .mgmtKernelStart k => Sys2Proof.Machine.execMgmtKernelStart k s
  | .reducedServiceBegin => Sys2Proof.Machine.execReducedServiceBegin s
  | .stackCalibration => Sys2Proof.Machine.execStackCalibration s
  | .fullServiceBegin => Sys2Proof.Machine.execFullServiceBegin s
  | .recoveryDoorbell f => Sys2Proof.Machine.execRecoveryDoorbell f s
  | .firmwareNvmeWrite => Sys2Proof.Machine.execFirmwareNvmeWrite s
  | .getVersion => Sys2Proof.Machine.execGetVersion s
  | .getCapabilities => Sys2Proof.Machine.execGetCapabilities s
  | .negotiateAlgorithms offered => Sys2Proof.Machine.execNegotiateAlgorithms offered s
  | .getDigests => Sys2Proof.Machine.execGetDigests s
  | .getCertificate => Sys2Proof.Machine.execGetCertificate s
  | .challenge nonce => Sys2Proof.Machine.execChallenge nonce s
  | .getMeasurements => Sys2Proof.Machine.execGetMeasurements s
  | .spdmUnsupported code => Sys2Proof.Machine.execSpdmUnsupported code s
  | .dstatRead => Sys2Proof.Machine.execDstatRead s
  | .columnLoss l => Sys2Proof.Machine.execColumnLoss l s
  | .stripeRebuild core => Sys2Proof.Machine.execStripeRebuild core s
  | .busWireRemap core bus wire => Sys2Proof.Machine.execBusWireRemap core bus wire s
  | .busCalibration core bus failed => Sys2Proof.Machine.execBusCalibration core bus failed s
  | .remapTableReload core => Sys2Proof.Machine.execRemapTableReload core s
  | .patrolScrub core => Sys2Proof.Machine.execPatrolScrub core s
  | .parityError p => Sys2Proof.Machine.execParityError p s
  | .telemetry r => Sys2Proof.Machine.execTelemetry r s
  | .clockStep die mhz => Sys2Proof.Machine.execClockStep die mhz s
  | .stackShutdown die => Sys2Proof.Machine.execStackShutdown die s
  | .mgmtConfigWrite w => Sys2Proof.Machine.execMgmtConfigWrite w s
  | .nymnexPortDown port => Sys2Proof.Machine.execNymnexPortDown port s
  | .nymnexPortRestored port => Sys2Proof.Machine.execNymnexPortRestored port s
  | .hostWriteIntoDieMemory pa bytes => Sys2Proof.Machine.execHostWriteIntoDieMemory pa bytes s
  | .debuggerRegisterChange r c => Sys2Proof.Machine.execDebuggerRegisterChange r c s

end Sys2Proof.Machine
end

