-- ==== Sys2Proof/Machine/Events.lean ====
section
/-!
DEFINITION. Which step of the other agents runs next when the machine chooses for itself: the device's own steps, each where
it changes something, and the times at which steps fall due. Steps that only the outside world takes (the fault service, the
host, the management interface, peers, loss and telemetry) never come from here. The order is the model's own (log 3).
-/

namespace Sys2Proof.Machine

/-- Whether a step would change the state. -/
def State.changes (s : State) (i : Instr) : Bool :=
  match exec i s with
  | .next t => decide (t ≠ s)
  | _ => false

/-- The steps that may complete an operation. -/
def Op.steps (id : Nat) (o : Op) (quad : Nat) : List Instr :=
  match o.work with
  | .load =>
    let ts := (o.res.filterMap fun r => match r with
      | .v t _ _ => some t
      | _ => none).eraseDups
    (if ts = [] then [0] else ts).map fun t => Instr.loadReply id t
  | .atomic => [.atomicReply id]
  | .sc => [.scOutcome id]
  | .latency => [.longLatencyResult id]
  | .sld _ => [.sldComplete id]
  | .queue => [.setQueueComplete id]
  | .gnext => [.gnextComplete id]
  | .route => [.routeComplete id]
  | .tlrd _ _ => [.tlrdValue id]
  | .word _ => [.loadReply id 0]
  | .code _ | .walk _ | .strm _ => []
  | .launch _ _ _ => [.launchAccepted id]
  | .store => [.storeAck o.ctx]
  | .cpa _ _ _ _ _ => [.cpaCopyComplete id]
  | .bcopy _ _ _ _ => [.bcopyComplete id]
  | .stream _ _ _ => [.streamLineFilled id]
  | .gather _ d rows =>
    let n := (d.map (·.n)).getD 1
    (match (List.range n).find? fun i => !rows.contains i with
      | some i => [Instr.gatherRowComplete id i]
      | none => []) ++ [.gatherComplete id]
  | .mldw _ _ _ _ => [.mldwComplete id]
  | .mswp _ => [.mswpTakesEffect id]
  | .mstr _ _ _ _ _ _ _ granted _ => if granted then [.matrixPassComplete id] else [.matrixPassGrant quad]
  | .mdrn _ _ _ _ _ => [.mdrnComplete id]
  | .mrel _ _ => [.mrelRowsFreed id]
  | .desc _ _ _ _ w _ => (w.map fun x => Instr.descThreadComplete id x.tid) ++ [.descLevel id, .descComplete id]
  | .ascd _ _ _ _ _ => [.ascdComplete id]
  | .chsnd _ => [.chsndSlotFilled id]
  | .chrcv _ _ _ => [.chrcvCopyComplete id]
  | .coll _ none _ _ _ => [.collDescriptorRead id, .collComplete id]
  | .coll _ (some d) _ _ x =>
    ((d.meets.find? fun p => !x.done.contains p).map fun p => [Instr.collStep id ⟨p, none⟩, .collStep id ⟨p, some []⟩]).getD []
      ++ [.collComplete id]

/-- The steps of operations and of the packets between them. -/
def State.opSteps (s : State) : List Instr :=
  (s.dies.flatMap fun p => ((p.2.xbar.pkts.map (·.out)).eraseDups.map fun port => Instr.xbarGrant p.1 port))
  ++ (s.probes.flatMap fun p => if p.2.confirmed then [Instr.recoveryStep p.1] else [.mireProbeHop p.1])
  ++ s.pend.flatMap fun p => p.2.steps p.1 (p.2.core / 4)

/-- The steps of a path, by what it waits for. -/
def pathSteps (r : PathRef) (a : Act) : List Instr :=
  match a.status with
  | .source _ => [.scoreboardWake r]
  | .again (.slot _ _) => [.chsndSlotFree r, .channelDeadTrap r]
  | .again (.data _ _) => [.chrcvDataReady r, .channelDeadTrap r]
  | .fetch _ => [.instructionFetch r]
  | .translating _ => [.translationComplete r]
  | .placing _ _ => [.binPlacementResume r]
  | .wait _ => [.waitComplete r]
  | .cpwait _ _ => [.cpwaitComplete r]
  | .trapped _ => [.trapEntry r]
  | _ => []

/-- The steps of contexts. -/
def State.ctxSteps (s : State) : List Instr :=
  s.ctxs.flatMap fun p =>
    let c := p.2
    let paths : List Instr := [0, 1].flatMap fun slot =>
      match (c.stack slot).head? with
      | some a => (if c.held = [] then [] else [Instr.heldTrapRaise ⟨p.1, slot⟩]) ++ pathSteps ⟨p.1, slot⟩ a
      | none => []
    let store : List Instr := if c.queue = [] then [] else [.storeAck p.1]
    let streams := c.streams.map fun q => Instr.streamLineIssue p.1 q.1
    let back : List Instr :=
      if decide (c.phase = .lent) && !({ c with phase := .resident } : Ctx).lends then [.contextUnlend p.1] else []
    let log := if c.log.any fun l => l.failed.isNone && l.pages = [] then [Instr.translationComplete ⟨p.1, 0⟩] else []
    paths ++ store ++ streams ++ back ++ log

/-- The steps of teams and cores. -/
def State.teamSteps (s : State) : List Instr :=
  (s.teams.flatMap fun p =>
    if p.2.freed then []
    else (p.2.frames.map fun f => Instr.frameRendezvousComplete p.1 f.1)
      ++ (p.2.apps.map fun a => Instr.appliedContextForm p.1 a.1) ++ [.teamFree p.1]
      ++ (if p.2.stopAt.isSome then [.loadDrainTimeout p.1] else [])
      ++ (if p.2.saved then (p.2.cores.take 1).flatMap fun c =>
            match (s.launches.get? p.2.launch).bind (·.record) with
            | none => []
            | some r =>
              let band := s.bandOf p.1
              match (s.without (band.map Prod.fst)).bandOnDie (dieOf c) (band.map fun q => s.roomOf q.1 q.2 r) with
              | some ((x :: _) :: _) => [Instr.teamRestore p.1 x.core]
              | _ => []
          else []))
  ++ s.cores.flatMap fun p =>
    (if p.2.bins = [] then [] else [Instr.binFormOnSlot p.1])
      ++ (if p.2.tagged = [] then [] else [.garnetRecord p.1])

/-- The steps of launches and of the hub. -/
def State.launchSteps (s : State) : List Instr :=
  (s.launches.flatMap fun p =>
    match p.2.phase with
    | .accepted => [Instr.launchRecordCheck p.1]
    | .checked => [.dependencesMet p.1] ++ (if p.2.met = [] then [.dependenceRead p.1] else [])
    | .tables => [.dependencesMet p.1]
    | .running => [.bandPlacement p.1, .launchKill p.1, .launchComplete p.1, .preemptionTimer p.1]
    | .counting => [.launchComplete p.1]
    | .complete => [])
  ++ (if s.nextRequest.isSome then [.peerAccessServe] else [])

/-- A step that falls due at a time, in the unit of `tick`. -/
structure Due where
  at' : Nat
  step : Instr

/-- What a path's WAIT makes due (R167). -/
def Waiting.due (w : Waiting) (r : PathRef) : List Due :=
  (match w.deadline with
    | some d => [Due.mk d (.waitTimeout r)]
    | none => [])
  ++ if w.conds.any fun c => c.kind = 6 then [Due.mk (w.read + ticksLong 64) (.waitWordReread r)] else []

/-- What launches make due: dependence reads (R264), pre-emption (R269). -/
def State.launchDue (s : State) : List Due :=
  s.launches.flatMap fun p =>
    match p.2.phase with
    | .checked => [Due.mk (p.2.since + ticksLong 64) (.dependenceRead p.1)]
    | .running =>
      if p.2.waitsBand then [0, 1, 2, 3].map fun d => Due.mk (p.2.since + ticksLong (s.die d).preemptAfter) (.preemptionTimer p.1)
      else []
    | _ => []

/-- What peers make due by their silence (R222, R224). -/
def State.peerDue (s : State) : List Due :=
  (s.hub.asks.filterMap fun a => match a.sent with
    | some t => if a.back then none else some (Due.mk (t + ticksLong 65536) (.remoteTimeout a.owner))
    | none => none)
  ++ s.pend.flatMap fun p => match p.2.work with
    | .coll _ (some _) _ 0 x => if x.peer.isSome then [Due.mk (p.2.sent + ticksLong 65536 + 1) (.collPeerTimeout p.1)] else []
    | _ => []

/-- What a ring makes due: a LOSS record, a SYNC record (R291, R294). -/
def State.ringDue (s : State) (r : RingRef) (x : Ring) : List Due :=
  (match x.lossDue with
    | some t => [Due.mk (ticksLong (t + 1)) (.traceLoss r)]
    | none => [])
  ++ if s.ringOn r then [Due.mk (ticksLong ((x.synced + 1) * 1024)) (.traceSync r)] else []

/-- What a die's crossbar makes due: outputs that are free again (R199), heads that have not been granted for the die's threshold,
looked at again each time that it passes (R210). -/
def State.xbarDue (s : State) (d : Nat) : List Due :=
  let x := (s.die d).xbar
  ((x.pkts.map (·.out)).eraseDups.map fun port => Due.mk (s.tickWhen d (x.busy.getD port 0)) (.xbarGrant d port))
  ++ x.inputs.filterMap fun i => (x.head i).map fun p =>
    let n := max 1 (s.die d).probeAfter
    Due.mk (s.tickWhen d (p.headAt + n * ((s.cyc d - p.headAt) / n + 1))) (.mireProbeLaunch d i)

/-- The steps that fall due by time. -/
def State.timed (s : State) : List Due :=
  (s.ctxs.flatMap fun p => [0, 1].flatMap fun slot =>
    match ((p.2.stack slot).head?).map Act.status with
    | some (Status.wait w) => w.due ⟨p.1, slot⟩
    | _ => [])
  ++ (s.cores.flatMap fun p => p.2.bins.map fun b => Due.mk (s.tickWhen (dieOf p.1) b.2.dueAt) (.binTimerExpiry p.1 b.1))
  ++ s.launchDue ++ s.peerDue
  ++ (s.teams.flatMap fun p => match p.2.stopAt with
    | some t => [Due.mk (s.tickWhen p.2.die (t + 4096)) (.loadDrainTimeout p.1)]
    | none => [])
  ++ ([0, 1, 2, 3].flatMap fun d =>
    Due.mk (s.tickWhen d ((s.die d).intervalAt + (s.die d).intervalLen)) (.checkpointIntervalStart d) :: s.xbarDue d)
  ++ (s.cores.flatMap fun p => s.ringDue (.core p.1) p.2.ring) ++ s.ringDue .hub s.hub.ring

/-- A step that time has made due and that changes something. -/
def State.dueStep (s : State) : Option Instr := ((s.timed.filter fun d => d.at' ≤ s.tick).map (·.step)).find? s.changes

/-- The first step that changes something now: of operations, contexts, teams or launches. -/
def State.nowStep (s : State) : Option Instr :=
  (s.opSteps ++ s.ctxSteps ++ s.teamSteps ++ s.launchSteps).find? s.changes

/-- The paths that wait at issue and issue again (R268), in turn. -/
def State.retries (s : State) : List PathRef :=
  s.ctxs.flatMap fun p => [0, 1].filterMap fun slot =>
    match (p.2.stack slot).head? with
    | some a => (match a.status with
      | .again _ => if s.canIssue p.2 a then some ⟨p.1, slot⟩ else none
      | _ => none)
    | none => none

/-- The cycles of die 0 that pass until a time (R297; log 14). -/
def State.cyclesTo (s : State) (t : Nat) : Nat :=
  (t - s.tick + cycleLong (s.die 0).mhz - 1) / cycleLong (s.die 0).mhz

/-- The step that falls due first. -/
def State.laterStep (s : State) : Option Due :=
  (s.timed.filter fun d => s.tick < d.at').foldl (fun (b : Option Due) d =>
    match b with
    | none => some d
    | some x => if d.at' < x.at' then some d else some x) none

end Sys2Proof.Machine
end

