-- ==== Sys2Proof/Machine/Setup.lean ====
section
/-!
DEFINITION. The choice of the next turn, the fetch of a path's next instruction, and the smallest machine that runs one
instruction: full service, one launch, one team of sixteen threads in one home context, its page tables and its code.
-/

namespace Sys2Proof.Machine

/-- What issuing a path comes to: nothing to run (the fetch waits or traps, or the path cannot issue), or an
instruction and the state at its issue. -/
inductive Issue where
  | idle (s : State)
  | run (i : Instr) (s : State)
deriving DecidableEq, Repr

/-- The set slots that an instruction's guard and set registers name (R37, R67). -/
def Act.setsRead (a : Act) (team : Nat) (f : Fetched) : List (Nat × Nat) :=
  let regs := ((wordGuard f.word).map BitVec.toNat).toList ++ setsOf f.instr.1
  regs.filterMap fun k => match (a.kr k).form with
    | .handle i _ _ => some (team, i)
    | _ => none

/-- Put the path at the issue of an instruction: its quarters are taken, the set slots that it reads are the last used (R67), garnet
notes that it issues, and its context has issued since it was restored. -/
def State.atIssue (s : State) (r : PathRef) (c : Ctx) (a : Act) (len : Nat) (f : Fetched) : State :=
  let s := (s.useStore c.core (a.setsRead c.team f)).takeQuarters c.core a (s.width c.team)
  let s := if a.status = .ready then s.note c.core a.uid a.pc fun t => { t with issued := s.cycOf c.core } else s
  { (s.modAct r fun a => { a with ibuf := none, last := some f }).modCtx r.ctx fun c => { c with restored := false } with
    cur := some ⟨r, a.pc, len⟩ }

/-- Whether an instruction is still to issue: it waits for registers, or at issue. -/
def Status.unissued (s : Status) : Bool :=
  match s with
  | .source _ | .again _ => true
  | _ => false

/-- After a path's turn at issue: an instruction that has issued counts with its words (R288). -/
def State.afterIssue (s : State) (r : PathRef) (core len : Nat) : State :=
  if (s.act? r).any fun a => a.status.unissued then s else s.countIssue core len

/-- The outcome of a path's turn at issue, from a state at the issue of its instruction. -/
def State.issued (s : State) (r : PathRef) (o : Host.Outcome State Fault Refusal) : Host.Outcome State Fault Refusal :=
  match o with
  | .next t => .next (t.afterIssue r (s.ctxCore r.ctx) ((s.cur.map (·.len)).getD 1))
  | o => o

/-- Whether a die's checkpoint interval begins on this cycle, on which nothing issues (R281). -/
def State.firstCycle (s : State) (d : Nat) : Bool := decide ((s.die d).intervalAt = s.cyc d)

/-- Issue a path: a trap that is held for it is raised first (R179, R207), else its next instruction is fetched. -/
def State.toIssue (s : State) (r : PathRef) : Issue :=
  match s.ctxs.get? r.ctx with
  | none => .idle s
  | some c =>
    match (c.stack r.slot).head?, s.launchOf c with
    | some a, some l =>
      if s.canIssue c a && !s.firstCycle (dieOf c.core) then
        match s.raiseHeld r with
        | some s => .idle s
        | none =>
          match s.wordsFor c a l.root with
          | (.words f, s) => .run f.instr.1 (s.atIssue r c a f.instr.2 f)
          | (f, s) => .idle (s.fetched r a f)
      else .idle s
    | _, _ => .idle s

/-- The turn that issues the best ready pair (R268), after its core's sample is tagged where that is due (R288). -/
def State.issueTurnOf (s : State) (r : PathRef) : Turn :=
  let core := s.ctxCore r.ctx
  if s.tagDue core then .event 0 (.garnetTag core) else .issue 1 r

/-- The turn that the machine takes of itself with no step due: on even cycles the best ready pair first, on odd ones a step
of the other agents; then paths that wait at issue, in turn; then time passes to the step that falls due first (log 3). -/
def State.freeTurn (s : State) : Turn :=
  match best (s.cands none none), s.now % 2 with
  | some r, 0 => s.issueTurnOf r
  | b, _ =>
    match s.nowStep, b with
    | some i, _ => .event 1 i
    | none, some r => s.issueTurnOf r
    | none, none =>
      match s.retries ++ (s.pairs none s.canRun).map (·.ref), s.laterStep with
      | [], some d => .event (s.cyclesTo d.at') d.step
      | [], none => .issue 1 ⟨0, 0⟩
      | l, _ => .issue 1 (l.getD (s.now % l.length) ⟨0, 0⟩)

/-- The turn that the machine takes of itself: steps that time has made due go first, at the cycle that it is (log 3). -/
def State.ownTurn (s : State) : Turn :=
  match s.dueStep with
  | some i => .event 0 i
  | none => s.freeTurn

def State.popAgenda (s : State) (rest : List Turn) : State := { s with agenda := rest }

/-- Issue the next instruction of a path: fetch, decode, execute (R23, R332). -/
def issueTurn (s : State) (r : PathRef) : Host.Outcome State Fault Refusal :=
  match s.toIssue r with
  | .idle s => .next s
  | .run i s => s.issued r (exec i s)

/-- Run a turn. An instruction word comes only from a path's fetch. -/
def runTurn (s : State) (t : Turn) : Host.Outcome State Fault Refusal :=
  match t with
  | .issue n r => issueTurn ((s.log t).advance n) r
  | .event n i => if i.isWord then .next s else exec i ((s.log t).advance n)

/-- While a re-execution runs, its turns alone are taken (R284). -/
def replayTurn (s : State) (t : Turn) (rest : List Turn) : Host.Outcome State Fault Refusal :=
  match runTurn (s.popAgenda []) t with
  | .next s => .next (s.popAgenda rest)
  | o => o

/-! ### The smallest running machine (see the log on how a program comes to run) -/

/-- The launch record of the placed program: one team of 16 threads, W 16, 224 registers, 64 KiB of scratchpad,
the handler at 0x800, format slots 0 BF16, 1 NB4 of any type, 2 FP32, 3 E4M3, 4 E5M2. -/
def placedRecord : Record :=
  { entry := 0, tcount := 1, tsize := 16, caddr := 0, w := 16, band := 1, prio := 0, ovt := false, vregs := 224,
    spare := 16, spad := 64, col := 0, gspill := 0, gsbase := 0,
    fslots := [0x000, 0x0F5, 0x002, 0x003, 0x004, 0x000, 0x000, 0x000], chanp := 0, nchan := 0, rtab := 0, tree := 0,
    sched := 0, slen := 0, slk := 0, trapent := 0x800, deps := [], cinc := 0, cval := 0 }

def placedLaunch : Launch :=
  { root := 0x100000, at' := 0x8000, record := some placedRecord, phase := .running, count := 1, next := 1,
    finished := 0, met := [], rtab := none, chans := [], sched := [], status := 0, killed := none, since := 0,
    queue := none, got := 5, waits := [], waiting := false }

def placedTeam : Team :=
  { launch := 1, id := 0, band := 0, cores := [0], size := 16, span := 32, spadBase := 0, spadBytes := 65536,
    colBase := 0, colBytes := 0, visible := 0, spillBase := 0, frames := [(0, ⟨0, List.range 16⟩)], apps := [],
    bars := [], slots := [], saved := false, stopAt := none, freed := false, placed := 1 }

def placedCtx : Ctx := newCtx 1 0 0 0 (newAct 2 0 (List.range 16) .home 0) [0] 0

/-- Page tables that map VA 0 to 0xFFFF, readable, writable and executable, to the frame at 0x200000. -/
def placedTables (m : List Host.Cell) : List Host.Cell :=
  let w (m : List Host.Cell) (a v : Nat) := memWrites m (dieKey a) (natLE v 8)
  w (w (w (w m 0x100000 0x102001) 0x102000 0x104001) 0x104000 0x106001) 0x106000 0x20009D

/-- A machine of that shape with an instruction's bits stored at its entry, all else of it as `s` has it. -/
def State.placed (s : State) (bits : Nat) : State :=
  { s with
    mem := memWrites (placedTables s.mem) (dieKey 0x200000) (natLE bits 16),
    threads := (List.range 16).foldl (fun m t => m.set (tkey 1 t) (Thread.start 0)) s.threads,
    ctxs := [(1, placedCtx)],
    teams := s.teams.set 1 placedTeam,
    launches := s.launches.set 1 placedLaunch,
    cores := s.cores.set 0 { s.core 0 with tlb := [], icache := [], quarters := [], store := [] },
    dies := Map.set (s.dies.map fun p => (p.1, { p.2 with target := none })) 0
      { s.die 0 with tlb := [], held := false, off := false, mhz := 1600, intervalAt := 0, sampling := false, target := none },
    poison := [],
    hub := { s.hub with stage := 6, service := .full, nextLaunch := 2 },
    agenda := [.issue 1 ⟨1, 0⟩],
    nextId := max s.nextId 3 }

end Sys2Proof.Machine
end

