-- ==== Sys2Proof/Machine/Step.lean ====
section
/-!
DEFINITION. One step of the device: the next turn. The agenda names it (log 3); with an empty agenda the
machine chooses (see `State.ownTurn`); while a debugger's re-execution runs, its turns alone are taken.
-/

namespace Sys2Proof.Machine

def step (s : State) : Host.Outcome State Fault Refusal :=
  match s.replayStop with
  | some s => .next s
  | none =>
    match s.agenda with
    | t :: rest => if s.replaying then replayTurn s t rest else runTurn (s.popAgenda rest) t
    | [] => runTurn s s.ownTurn

/-- The state with an instruction stored where the next step fetches it (see `State.placed`). -/
def State.withFetchWord (s : State) (nbits w : Nat) : State := s.placed (w % 2 ^ nbits)

end Sys2Proof.Machine
end

