-- ==== Sys2Proof/Claims.lean ====
section
/-!
DEFINITION. The vocabulary of the statements: an instruction at issue that finds its operands, what retirement leaves,
what a frame says, and the rules' own arithmetic on integers.
-/

namespace Sys2Proof.Claims

open Sys2Proof.Machine

/-! ### At issue -/

/-- `e` is the path at issue; no register that `n` names is empty for `ts` (R409), and no set that it reads is lost (R310). -/
def AtIssue (s : State) (e : Env) (n : Needs) (ts : List Nat) : Prop :=
  s.env? = some e ∧ n.blocked e s ts = [] ∧ n.starved e s ts = [] ∧ n.k.any (e.lost s) = false

/-- The instruction executes for `ts`: the held threads, or under a guard those of its set, which is complete (R32, R37). -/
def Executes (s : State) (e : Env) (g : Guard) (n : Needs) (ts : List Nat) : Prop :=
  AtIssue s e n ts ∧ ts = e.exec s g ∧
    match g with
    | none => True
    | some k => (e.act.kr k.toNat).full = true ∧ e.lost s k.toNat = false ∧ ts ≠ []

/-! ### What an instruction leaves -/

/-- The contexts after the word of `e` retired (R280): its path goes on at `pc`, ready now, with `f` done to its running
activation; its context counts one more; every other path and context is as it was. -/
def Retired (s t : State) (e : Env) (pc : Nat) (f : Act → Act) : Prop :=
  t.ctxs = s.ctxs.modify e.ref.ctx fun c =>
    { c.modTop e.ref.slot (fun a => { f a with pc := pc, status := .ready, only := none, since := s.cycOf e.ctx.core }) with
      count := (c.count + 1) % 2 ^ 32 }

/-- Everything but threads, contexts, operations and names is as it was. -/
def SameDevice (s t : State) : Prop :=
  t.mem = s.mem ∧ t.teams = s.teams ∧ t.launches = s.launches ∧ t.cores = s.cores ∧ t.dies = s.dies ∧
  t.probes = s.probes ∧ t.poison = s.poison ∧ t.hub = s.hub ∧ t.now = s.now ∧ t.tick = s.tick ∧
  t.agenda = s.agenda ∧ t.fresh = s.fresh

/-- Everything but threads and contexts is as it was. -/
def SameElse (s t : State) : Prop := SameDevice s t ∧ t.pend = s.pend ∧ t.nextId = s.nextId

/-- Everything but one core's trace ring and garnet, threads and contexts is as it was: for a word that writes a trace
record (R293). -/
def SameButRing (s t : State) (core : Nat) : Prop :=
  SameDevice s { t with cores := s.cores } ∧ t.pend = s.pend ∧ t.nextId = s.nextId ∧
  ∀ c, t.core c = if c = core then { s.core c with ring := (t.core c).ring } else s.core c

/-- A thread after its window registers `ws` were written (full) and the flags `f` were set; all else of it is as it was. -/
def Wrote (th th' : Thread) (ws : List (Nat × Lane)) (f : BitVec 32) : Prop :=
  (∀ w ∈ ws, th'.reg w.1 = ⟨w.2, true⟩) ∧ (∀ j, (∀ w ∈ ws, j ≠ th.base + w.1) → th'.lreg j = th.lreg j) ∧
  th' = { th with v := th'.v, tsw := th.tsw ||| f }

/-- Each thread of `ts` of the path's team wrote `ws`, and no other thread changed. -/
def Threads (s t : State) (e : Env) (ts : List Nat) (ws : Nat → List (Nat × Lane)) (f : Nat → BitVec 32) : Prop :=
  (∀ tid ∈ ts, ∀ th, s.thread e.ctx.team tid = some th →
    ∃ th', t.thread e.ctx.team tid = some th' ∧ Wrote th th' (ws tid) (f tid)) ∧
  ∀ k, (∀ tid ∈ ts, k ≠ tkey e.ctx.team tid) → t.threads.get? k = s.threads.get? k

/-! ### The integer rules (R109, R334) -/

/-- What an integer rule speaks of: the width, the type's sign, the low w bits of a, b and c, and b as a whole. -/
structure IntArgs where
  w : Nat
  signed : Bool
  x : Nat
  y : Nat
  z : Nat
  b : Nat

/-- A w-bit number as the type reads it. -/
def asInt (w : Nat) (signed : Bool) (n : Nat) : Int := if signed ∧ 2 ^ (w - 1) ≤ n then (n : Int) - 2 ^ w else n

def IntArgs.sx (r : IntArgs) : Int := asInt r.w r.signed r.x
def IntArgs.sy (r : IntArgs) : Int := asInt r.w r.signed r.y

/-- The length of the bit field that b packs (R345). -/
def IntArgs.len (r : IntArgs) : Nat :=
  if r.b % 256 < r.w then min (r.b / 256 % 256) (r.w - r.b % 256) else 0

/-- What an arithmetic instruction computes, as its rule gives it; the result is that number modulo 2^w. -/
def arithRule : Instr → Option (Arith × (IntArgs → Int))
  | .iadd o => some (o, fun r => r.x + r.y)
  | .isub o => some (o, fun r => r.x - r.y)
  | .imul o => some (o, fun r => r.x * r.y)
  | .imulh o => some (o, fun r => r.sx * r.sy / 2 ^ r.w)
  | .imad o => some (o, fun r => r.x * r.y + r.z)
  | .imin o => some (o, fun r => min r.sx r.sy)
  | .imax o => some (o, fun r => max r.sx r.sy)
  | .iabs o => some (o, fun r => |r.sy|)
  | .ineg o => some (o, fun r => -r.y)
  | .lea o => some (o, fun r => r.x + r.y * 2 ^ o.sh.toNat)
  | .sel o => some (o, fun r => if r.z = 0 then r.y else r.x)
  | .mov o => some (o, fun r => r.y)
  | .movi o => some (o, fun r => r.y)
  | _ => none

/-- What a shift, a rotate, a count or a bit-field instruction computes, as its rule gives it. -/
def shiftRule : Instr → Option (Arith × (IntArgs → Int))
  | .shl o => some (o, fun r => r.x * 2 ^ r.y)
  | .shr o => some (o, fun r => ((r.x / 2 ^ r.y : Nat) : Int))
  | .sar o => some (o, fun r => asInt r.w true r.x / 2 ^ r.y)
  | .rol o => some (o, fun r => ((r.x * 2 ^ (r.y % r.w) + r.x / 2 ^ (r.w - r.y % r.w) : Nat) : Int))
  | .ror o => some (o, fun r => ((r.x / 2 ^ (r.y % r.w) + r.x * 2 ^ (r.w - r.y % r.w) : Nat) : Int))
  | .popc o => some (o, fun r => (((List.range r.w).filter fun i => r.y.testBit i).length : Nat))
  | .clz o => some (o, fun r => ((r.w - r.y.size : Nat) : Int))
  | .bfe o => some (o, fun r => asInt r.len (r.signed && r.len != 0) (r.x / 2 ^ (r.b % 256) % 2 ^ r.len))
  | .bfi o => some (o, fun r =>
      let old := r.z / 2 ^ (r.b % 256) % 2 ^ r.len
      ((r.z - old * 2 ^ (r.b % 256) + r.x % 2 ^ r.len * 2 ^ (r.b % 256) : Nat) : Int))
  | _ => none

/-- What a bit instruction computes at each bit. -/
def bitRule : Instr → Option (Arith × (Bool → Bool → Bool))
  | .and o => some (o, (· && ·))
  | .or o => some (o, (· || ·))
  | .xor o => some (o, fun x y => x != y)
  | .not o => some (o, fun _ y => !y)
  | _ => none

/-- The operands of a thread, or of the path, as an integer rule speaks of them. -/
def argsOf (o : Arith) (e : Env) (s : State) (tid : Nat) : IntArgs :=
  let n (x : Word) : Nat := x.toNat % 2 ^ o.ty.width
  { w := o.ty.width, signed := o.ty.signed, x := n (o.a.read o.ty e s tid), y := n (o.b.readInt o.ty e s tid),
    z := n (o.c.read o.ty e s tid), b := (o.b.readInt o.ty e s tid).toNat }

/-- A result of width w as 64 bits of a register: extended by the type's sign (R109). -/
def extended (ty : Ty) (n : Int) : Word := BitVec.ofInt 64 (asInt ty.width ty.signed (n % 2 ^ ty.width).toNat)

/-- The lanes that a vector result of a type takes: one, or an even pair for a 64-bit type (R109). -/
def lanesOf (ty : Ty) (d : Nat) (x : Word) : List (Nat × Lane) :=
  if ty.is64 then [(d, x.setWidth 32), (d + 1, (x >>> 32).setWidth 32)] else [(d, x.setWidth 32)]

/-- An integer instruction completes with `val` in its destination of every executing thread, or of the path (R334,
R323), sets no flag, goes on at its continuation and changes nothing else. -/
def IntCompletes (i : Instr) (o : Arith) (val : Env → State → Nat → Word) : Prop :=
  (∀ s e ts, o.uform = false → Executes s e o.guard o.needs ts →
    ∃ t, exec i s = .next t ∧ Threads s t e ts (fun tid => lanesOf o.ty o.d.toNat (val e s tid)) (fun _ => 0) ∧
      Retired s t e (e.addr + 8 * e.len) id ∧ SameElse s t) ∧
  ∀ s e, o.uform = true → AtIssue s e o.needs e.act.lanes →
    ∃ t, exec i s = .next t ∧ t.threads = s.threads ∧
      Retired s t e (e.addr + 8 * e.len) (fun a => { a with s := a.s.set o.d.toNat ⟨val e s 0, true⟩ }) ∧ SameElse s t

/-! ### Instructions that write registers of executing threads -/

/-- An instruction that executes per thread completes at retirement: it writes `val` (registers and flags) to each
executing thread, goes on at its continuation and changes nothing else. `ok` is what its operands must meet. -/
def LanesComplete (i : Instr) (g : Guard) (n : Needs) (ok : Env → State → List Nat → Prop)
    (val : Env → State → List Nat → Nat → List (Nat × Lane) × BitVec 32) : Prop :=
  ∀ s e ts, Executes s e g n ts → ok e s ts →
    ∃ t, exec i s = .next t ∧ Threads s t e ts (fun tid => (val e s ts tid).1) (fun tid => (val e s ts tid).2) ∧
      Retired s t e (e.addr + 8 * e.len) id ∧ SameElse s t

/-- The registers that pending results mark empty in an activation. -/
def emptyIn (rs : List Res) (a : Act) : Act :=
  rs.foldl (fun a r => match r with
    | .u n _ => { a with s := a.s.set n ⟨(a.s.getD n ⟨0, true⟩).val, false⟩ }
    | .k n _ => { a with k := a.k.set n ⟨(a.k.getD n ⟨.empty, true⟩).form, false⟩ }
    | _ => a) a

/-- The vector registers of a thread that pending results mark empty. -/
def emptyOf (rs : List Res) (tid : Nat) : List Nat :=
  rs.filterMap fun r => match r with
    | .v t n _ => if t = tid then some n else none
    | _ => none

/-- An operation of the word of `e` is posted under the next name, with the results `rs` to write; the registers of
those results are empty from now on (R51), every other register is as it was, and the path goes on (R22). -/
def Posted (s t : State) (e : Env) (w : Work) (rs : List Res) : Prop :=
  (∃ o, t.pend = s.pend.set s.nextId o ∧ o.ctx = e.ref.ctx ∧ o.uid = e.act.uid ∧ o.pc = e.addr ∧ o.work = w ∧
    o.res = rs) ∧ t.nextId = s.nextId + 1 ∧
  (∀ tid th, s.thread e.ctx.team tid = some th → ∃ th', t.thread e.ctx.team tid = some th' ∧
    (∀ n ∈ emptyOf rs tid, (th'.lreg n).full = false) ∧ (∀ n, n ∉ emptyOf rs tid → th'.lreg n = th.lreg n) ∧
    th' = { th with v := th'.v }) ∧
  (∀ k, (∀ tid, emptyOf rs tid ≠ [] → k ≠ tkey e.ctx.team tid) → t.threads.get? k = s.threads.get? k) ∧
  Retired s t e (e.addr + 8 * e.len) (emptyIn rs) ∧ SameDevice s t

/-- Quotient, remainder and flags of R111. -/
def divRule (w : Nat) (signed : Bool) (x y : Int) : Int × Int × BitVec 32 :=
  if y = 0 then (if signed then (if 0 ≤ x then 2 ^ (w - 1) - 1 else -2 ^ (w - 1)) else 2 ^ w - 1, x, 0x10)
  else if signed ∧ x = -2 ^ (w - 1) ∧ y = -1 then (2 ^ (w - 1) - 1, 0, 0x20)
  else (x.tdiv y, x - y * x.tdiv y, 0)

/-- What DIV or REM writes for a thread, or for the path, with its flags. -/
def divOf (o : Arith) (rem : Bool) (e : Env) (s : State) (tid : Nat) : Word × BitVec 32 :=
  let r := argsOf o e s tid
  let d := divRule r.w r.signed r.sx r.sy
  (extended o.ty (if rem then d.2.1 else d.1), d.2.2)

/-- The results that a value of a type makes in a thread's window. -/
def resultsOf (e : Env) (s : State) (ty : Ty) (tid d : Nat) (x : Word) : List Res :=
  (lanesOf ty ((e.thread s tid).base + d) x).map fun p => Res.v tid p.1 p.2

/-- The floating instructions that write one lane at retirement, with what each computes for a thread (R364 to R368). -/
def floatRule : Instr → Option (Arith × (Env → State → Nat → Lane × BitVec 32))
  | .fadd o => some (o, two o (o.ty.fmt.add o.rnd))
  | .fsub o => some (o, two o (o.ty.fmt.sub o.rnd))
  | .fmul o => some (o, two o (o.ty.fmt.mul o.rnd))
  | .fmin o => some (o, two o (o.ty.fmt.minMax false))
  | .fmax o => some (o, two o (o.ty.fmt.minMax true))
  | .fma o => some (o, fun e s tid =>
      lane3 o.ty (o.ty.fmt.fma o.rnd) (srcF o o.a e s tid) (o.b.readFloat o.ty e s tid) (srcF o o.c e s tid))
  | .fldx o => some (o, fun e s tid =>
      lane1 o.ty (fun x => o.ty.fmt.ldexp o.rnd x (o.b.readIndex e s tid).toInt) (srcF o o.a e s tid))
  | .frnd o => some (o, fun e s tid => lane1 o.ty (o.ty.fmt.roundIntegral o.rnd) (o.b.readFloat o.ty e s tid))
  | _ => none
where
  two (o : Arith) (f : Nat → Nat → FRes) (e : Env) (s : State) (tid : Nat) : Lane × BitVec 32 :=
    lane2 o.ty f (srcF o o.a e s tid) (o.b.readFloat o.ty e s tid)

/-- The transcendental instructions, with what each computes for an element (R362). -/
def slowRule : Instr → Option (Arith × (Nat → FRes))
  | .frcp o => some (o, fun x => o.ty.fmt.recip o.rnd (o.ty.fmt.value x))
  | .frsq o => some (o, fun x => o.ty.fmt.rsqrt o.rnd (o.ty.fmt.value x))
  | .fsqrt o => some (o, fun x => o.ty.fmt.sqrt o.rnd (o.ty.fmt.value x))
  | .log2 o => some (o, fun x => o.ty.fmt.log2 o.rnd (o.ty.fmt.value x))
  | .exp2 o => some (o, approxIn o.ty.fmt exp2F)
  | .fsin o => some (o, approxIn o.ty.fmt (trigF false))
  | .fcos o => some (o, approxIn o.ty.fmt (trigF true))
  | .ftanh o => some (o, approxIn o.ty.fmt tanhF)
  | _ => none

/-- The number that a sign and a dyadic stand for. -/
def dyadic (neg : Bool) (m : Nat) (e : Int) : ℚ := (if neg then -1 else 1) * m * 2 ^ e

/-! ### Sets -/

/-- The set that a set register of the path at issue names, as its team's slots have it. -/
def setIn (s : State) (e : Env) (k : Nat) : Tids :=
  match s.act? e.ref, s.teams.get? e.ctx.team with
  | some a, some t => (a.kr k).form.members t (t.side e.ctx.core)
  | _, _ => 0

/-- Set register kd is complete and names exactly `b`; the path's other set registers name what they named; the path
goes on; uniform registers, threads and memory are as they were. -/
def SetWritten (s t : State) (e : Env) (kd : Nat) (b : Tids) : Prop :=
  setIn t e kd = b ∧ (∀ k, k ≠ kd → setIn t e k = setIn s e k) ∧
  (∃ a, t.act? e.ref = some a ∧ (a.kr kd).full = true ∧ (∀ k, k ≠ kd → a.kr k = e.act.kr k) ∧
    a.pc = e.addr + 8 * e.len ∧ a.status = .ready ∧ a.s = e.act.s ∧ a.lanes = e.act.lanes) ∧
  t.threads = s.threads ∧ t.mem = s.mem ∧ t.pend = s.pend

/-- What a set instruction makes (R75, R393): its source registers, and the set. -/
def setRule : Instr → Option (SetOp × List Nat × (Env → State → Tids))
  | .sand o => some (o, [o.ka.toNat, o.kb.toNat], fun e s => setIn s e o.ka.toNat &&& setIn s e o.kb.toNat)
  | .sor o => some (o, [o.ka.toNat, o.kb.toNat], fun e s => setIn s e o.ka.toNat ||| setIn s e o.kb.toNat)
  | .sxor o => some (o, [o.ka.toNat, o.kb.toNat], fun e s => setIn s e o.ka.toNat ^^^ setIn s e o.kb.toNat)
  | .sandn o => some (o, [o.ka.toNat, o.kb.toNat], fun e s => setIn s e o.ka.toNat &&& ~~~setIn s e o.kb.toNat)
  | .snot o => some (o, [o.ka.toNat], fun e s => spanMask e.team.span &&& ~~~setIn s e o.ka.toNat)
  | .smov o => some (o, [o.ka.toNat], fun e s => setIn s e o.ka.toNat)
  | .sclr o => some (o, [], fun _ _ => 0)
  | .sall o => some (o, [], fun e _ => spanMask e.team.span)
  | .sheld o => some (o, [], fun e _ => tidSet e.act.lanes)
  | .sfirst o => some (o, [o.ka.toNat], fun e s => tidSet ((tidList (setIn s e o.ka.toNat) 2048).take 1))
  | _ => none

/-- The order of a comparison (R72) on integers. -/
def Holds : Cond → Int → Int → Prop
  | .eq, x, y => x = y
  | .ne, x, y => x ≠ y
  | .lt, x, y => x < y
  | .le, x, y => x ≤ y
  | .gt, x, y => y < x
  | .ge, x, y => y ≤ x

/-! ### Lanes -/

/-- A value written under a type: an integer extended by it (R109), floating elements whole (R342, R379). -/
def typedLanes (ty : Ty) (d : Nat) (x : Word) : List (Nat × Lane) :=
  if ty.isInt then lanesOf ty d (extended ty x.toNat) else [(d, x.setWidth 32)]

/-- The thread whose register SHFL reads for a thread (R400). -/
def shflSource (mode : ShflMode) (lanes : List Nat) (tid y : Nat) : Nat :=
  let i := lanes.idxOf tid
  let j : Int := match mode with
    | .idx => y
    | .up => (i : Int) - y
    | .down => i + y
    | .xor => (i ^^^ y : Nat)
  if 0 ≤ j ∧ j < lanes.length then lanes.getD j.toNat tid else tid

/-- The needs of a cross-lane move beside its moved source. -/
def indexNeeds (o : LaneOp) : Needs :=
  { u := o.b.needU o.rb, v := o.b.needV false o.rb, dv := destV o.d.toNat o.ty.is64 }

/-- The registers of a thread that a source reads are full. -/
def SourceFull (e : Env) (s : State) (ty : Ty) (v : VSrc) (tid : Nat) : Prop :=
  ∀ p ∈ v.need ty.is64 false, ((e.thread s tid).reg p.1).full = true

/-- One integer step of a reduction on w-bit numbers (R379). -/
def redRule (op : RedOp) (w : Nat) (signed : Bool) (r x : Nat) : Nat :=
  match op with
  | .add => (r + x) % 2 ^ w
  | .min => if asInt w signed r ≤ asInt w signed x then r else x
  | .max => if asInt w signed x ≤ asInt w signed r then r else x
  | .and => r &&& x
  | .or => r ||| x
  | .xor => r ^^^ x

/-- One step of a reduction under a type: value and flags so far, and the next value. -/
def redNext (op : RedOp) (ty : Ty) (a : Nat × BitVec 32) (x : Nat) : Nat × BitVec 32 :=
  if ty.isInt then (redRule op ty.width ty.signed a.1 (x % 2 ^ ty.width), a.2)
  else
    let r := lane2 ty (redFloat op ty.fmt) a.1 x
    (r.1.toNat, a.2 ||| r.2)

/-- The identity of an operation (R379). -/
def redStart (op : RedOp) (ty : Ty) : Nat :=
  if ty.isInt then
    match op with
    | .add | .or | .xor => 0
    | .and => 2 ^ ty.width - 1
    | .min => if ty.signed then 2 ^ (ty.width - 1) - 1 else 2 ^ ty.width - 1
    | .max => if ty.signed then 2 ^ (ty.width - 1) else 0
  else
    match op, ty with
    | .min, .fp16 => 0x7C007C00
    | .min, .bf16 => 0x7F807F80
    | .min, _ => 0x7F800000
    | .max, .fp16 => 0xFC00FC00
    | .max, .bf16 => 0xFF80FF80
    | .max, _ => 0xFF800000
    | _, _ => 0

/-- The values that a reduction takes, in lane order. -/
def redValues (o : RedLaneOp) (e : Env) (s : State) (ts : List Nat) : List Nat :=
  ts.map fun tid =>
    let x := (o.b.read o.ty e s tid).toNat
    if o.ty.isInt then x % 2 ^ o.ty.width else x

/-- The place of a thread among those that execute. -/
def placeOf (ts : List Nat) (tid : Nat) : Nat := ts.length - 1 - ts.reverse.idxOf tid

/-! ### Comparisons -/

/-- A value that is no NaN, in order: infinities below and above all finite ones. -/
def ordered : FVal → Int × ℚ
  | .inf n => (if n then -1 else 1, 0)
  | .fin n m e => (0, dyadic n m e)
  | .nan _ => (0, 0)

/-- A comparison of two floating values (R73): with a NaN only `ne` holds; −0 equals +0. -/
def HoldsF (c : Cond) (x y : FVal) : Prop :=
  if x.isNan = true ∨ y.isNan = true then c = .ne
  else
    let a := ordered x
    let b := ordered y
    let lt (a b : Int × ℚ) : Prop := a.1 < b.1 ∨ a.1 = b.1 ∧ a.2 < b.2
    match c with
    | .eq => a = b
    | .ne => a ≠ b
    | .lt => lt a b
    | .le => lt a b ∨ a = b
    | .gt => lt b a
    | .ge => lt b a ∨ a = b

/-- TEST's condition for a thread (R73). -/
def TestHolds (o : TestOp) (e : Env) (s : State) (tid : Nat) : Prop :=
  let w := o.ty.width
  let x := o.a.read o.ty e s tid
  if o.ty.isInt then
    Holds o.cond (asInt w o.ty.signed (x.toNat % 2 ^ w)) (asInt w o.ty.signed ((o.b.readInt o.ty e s tid).toNat % 2 ^ w))
  else HoldsF o.cond (o.ty.fmt.value (x.toNat % 2 ^ w)) (o.ty.fmt.value (o.b.readFloat o.ty e s tid % 2 ^ w))

/-- TESTB's condition for a thread (R74): whether any of the low w bits that b selects is set. -/
def TestbHolds (o : TestOp) (e : Env) (s : State) (tid : Nat) : Prop :=
  let z := ∀ j < o.ty.width, ((o.a.read o.ty e s tid).getLsbD j && (o.b.readInt o.ty e s tid).getLsbD j) = false
  if o.cond = .eq then z else ¬z

/-! ### Control -/

/-- The word completes: its path goes on at `pc`, and nothing else changes. -/
def GoesOn (i : Instr) (s : State) (e : Env) (pc : Nat) : Prop :=
  ∃ t, exec i s = .next t ∧ t.threads = s.threads ∧ Retired s t e pc id ∧ SameElse s t

/-- The word completes with `f` done to its path's activation, and nothing else changes. -/
def Sets (i : Instr) (s : State) (e : Env) (f : Act → Act) : Prop :=
  ∃ t, exec i s = .next t ∧ t.threads = s.threads ∧ Retired s t e (e.addr + 8 * e.len) f ∧ SameElse s t

/-- A thread after CALL n: a call record on top, its window n higher (R351). -/
def called (th : Thread) (cont n : Nat) : Thread := { th with base := th.base + n, calls := ⟨cont, n⟩ :: th.calls }

/-- A thread after RET: its top call record popped, its window back (R391). -/
def returned (th : Thread) : Thread :=
  match th.calls with
  | [] => th
  | c :: r => { th with base := th.base - c.n, calls := r }

/-! ### P words (R325, R326) -/

/-- The integer slots: what each computes from its destination register and its source, modulo 2^32. -/
def slotRule : POp → Option (Nat → Nat → Int)
  | .mov => some fun _ y => y
  | .iadd => some fun x y => x + y
  | .isub => some fun x y => x - y
  | .and => some fun x y => (x &&& y : Nat)
  | .or => some fun x y => (x ||| y : Nat)
  | .xor => some fun x y => (x ^^^ y : Nat)
  | .shl => some fun x y => x * 2 ^ y
  | .shr => some fun x y => (x / 2 ^ y : Nat)
  | .sar => some fun x y => asInt 32 true x / 2 ^ y
  | .imin => some fun x y => min (asInt 32 true x) (asInt 32 true y)
  | .imax => some fun x y => max (asInt 32 true x) (asInt 32 true y)
  | .not => some fun _ y => -1 - (y : Int)
  | .ineg => some fun _ y => -(y : Int)
  | .iabs => some fun _ y => |asInt 32 true y|
  | _ => none

/-- The floating slots. -/
def slotRuleF : POp → Option (Nat → Nat → FRes)
  | .fadd => some (Fmt.fp32.add .rne)
  | .fsub => some (Fmt.fp32.sub .rne)
  | .fmul => some (Fmt.fp32.mul .rne)
  | .fmin => some (Fmt.fp32.minMax false)
  | .fmax => some (Fmt.fp32.minMax true)
  | _ => none

/-- What a slot writes for a thread, and its flags; a NOP slot writes nothing. -/
def slotOf (p : PSlot) (e : Env) (s : State) (tid : Nat) : List (Nat × Lane) × BitVec 32 :=
  let d := p.args.d.toNat
  let x := ((e.thread s tid).reg d).val.toNat
  match slotRule p.op, slotRuleF p.op with
  | some f, _ =>
    let y : Int := match p.args.s with
      | .vec v => ((v.read .int32 e s tid).toNat % 2 ^ 32 : Nat)
      | .imm i => i.toInt
    ([(d, BitVec.ofInt 32 (f x (y % 2 ^ 32).toNat))], 0)
  | none, some f =>
    let y : Nat := match p.args.s with
      | .vec v => (v.read .fp32 e s tid).toNat % 2 ^ 32
      | .imm i => (i.toInt % 2 ^ 32).toNat
    ([(d, BitVec.ofNat 32 (f x y).bits)], (f x y).flags)
  | none, none => ([], 0)

/-- The two slots of a P word. -/
def slotsOf : Instr → Option (PSlot × PSlot)
  | .pNop b => some (PSlot.nopSlot, b)
  | .pMov a b => some (⟨.mov, a⟩, b)
  | .pIadd a b => some (⟨.iadd, a⟩, b)
  | .pIsub a b => some (⟨.isub, a⟩, b)
  | .pAnd a b => some (⟨.and, a⟩, b)
  | .pOr a b => some (⟨.or, a⟩, b)
  | .pXor a b => some (⟨.xor, a⟩, b)
  | .pShl a b => some (⟨.shl, a⟩, b)
  | .pShr a b => some (⟨.shr, a⟩, b)
  | .pSar a b => some (⟨.sar, a⟩, b)
  | .pImin a b => some (⟨.imin, a⟩, b)
  | .pImax a b => some (⟨.imax, a⟩, b)
  | .pFadd a b => some (⟨.fadd, a⟩, b)
  | .pFsub a b => some (⟨.fsub, a⟩, b)
  | .pFmul a b => some (⟨.fmul, a⟩, b)
  | .pFmin a b => some (⟨.fmin, a⟩, b)
  | .pFmax a b => some (⟨.fmax, a⟩, b)
  | .pNot a b => some (⟨.not, a⟩, b)
  | .pIneg a b => some (⟨.ineg, a⟩, b)
  | .pIabs a b => some (⟨.iabs, a⟩, b)
  | _ => none

/-- What a slot reads and writes (R324). -/
def slotUse (p : PSlot) : Needs :=
  if p.op = .nop then {}
  else
    let self : List (Nat × Bool) :=
      if p.op = .mov ∨ p.op = .not ∨ p.op = .ineg ∨ p.op = .iabs then [] else [(p.args.d.toNat, p.args.rm)]
    let src : List (Nat × Bool) := match p.args.s with
      | .vec v => v.need false p.args.rm
      | .imm _ => []
    { v := self ++ src, dv := [p.args.d.toNat] }

/-! ### Traps (R273 to R277) -/

/-- The action that TSTAT holds when a handler starts (R273): 0 resume, 1 retry, 2 skip, 3 exit. -/
def startAct (code : Nat) : Nat :=
  if code = 0x02 ∨ code = 0x06 then 1 else if code = 0x07 then 2
  else if code = 0x0A ∨ code = 0x0D ∨ code = 0x0E then 0 else 3

/-- The window pool has a free chunk for each slide of the threads that a trap hands to its handler (R275, R351). -/
def PoolFits (s : State) (e : Env) (tids : List Nat) : Prop :=
  (s.poolFree e.ctx.team e.ctx.core e.team (e.act.lanes.filter (tids.contains ·)) 32 0).1 = true

/-- The windows of the threads that a trap hands to its handler can slide by 32 (R275, R351). -/
def SlideFits (s : State) (e : Env) (tids : List Nat) : Prop :=
  (∀ tid ∈ e.act.lanes, tid ∈ tids → (e.thread s tid).base + 32 + 224 ≤ 1024) ∧ PoolFits s e tids

/-- A handler can start: the launch has one, no handler runs in the path or its context, and no window of the threads
slides past its limit (R275, R276, R351). -/
def HandlerFits (s : State) (e : Env) (tids : List Nat) : Prop :=
  e.rcd.trapent ≠ 0 ∧ e.act.inTrap = false ∧ e.ctx.tstat.getLsbD 7 = false ∧ SlideFits s e tids

/-- A launch is killed by a trap for which no handler can start: it has none, or a handler runs already, or a window would slide
past its limit (R275, R276). -/
def MustKill (s : State) (e : Env) (tids : List Nat) : Prop :=
  e.rcd.trapent = 0 ∨ e.act.inTrap = true ∨ e.ctx.tstat.getLsbD 7 = false ∧ ¬SlideFits s e tids

/-- A trap was taken over `tids`: the path is suspended at its instruction, and a handler runs above it in its slot from
TRAPENT, over those threads in lane order, with copies of the path's registers; TSTAT names the trap; each of its
threads (which a lane map lists once) has its window 32 registers higher, the same call stack and no reservation; memory is as it was. -/
def TrapTaken (s t : State) (e : Env) (code : Nat) (tids : List Nat) (uni : Bool) : Prop :=
  (∃ c h rest, t.ctxs.get? e.ref.ctx = some c ∧ c.stack e.ref.slot = h :: { e.act with status := .under } :: rest ∧
    e.ctx.stack e.ref.slot = e.act :: rest ∧ h.pc = e.rcd.trapent ∧ h.lanes = e.act.lanes.filter (tids.contains ·) ∧
    h.s = e.act.s ∧ h.k = e.act.k ∧ h.inTrap = true ∧ h.status = .ready ∧
    c.tstat = BitVec.ofNat 64 (code + 128 + 256 * uni.toNat + 512 * startAct code + 2048 * (e.addr / 8))) ∧
  (∀ tid th, tid ∈ tids → e.act.lanes.count tid = 1 → s.thread e.ctx.team tid = some th →
    t.thread e.ctx.team tid = some { th with base := th.base + 32, floor := th.calls.length, resv := none }) ∧
  t.mem = s.mem

/-- Every store of the path's context is visible, and no atomic of it waits in the operand log or for a peer, so that a release may
issue (R192, R341). -/
def Released (s : State) (e : Env) : Prop :=
  e.ctx.queue = [] ∧ (∀ l ∈ e.ctx.log, l.acc.kind.writes = false) ∧
  ∀ p ∈ s.pend, p.2.ctx = e.ref.ctx → p.2.peer = true → p.2.work ≠ .atomic ∧ p.2.work ≠ .queue ∧ p.2.work ≠ .route

/-! ### Memory instructions -/

/-- The path at issue goes on at its continuation, over the same threads. -/
def WentOn (t : State) (e : Env) : Prop :=
  ∃ a, t.act? e.ref = some a ∧ a.pc = e.addr + 8 * e.len ∧ a.status = .ready ∧ a.lanes = e.act.lanes

/-- The address of a thread: base + index + offset modulo 2^64 (R147). -/
def addressOf (e : Env) (s : State) (base : USrc) (idx : Option VSrc) (off : Word) (tid : Nat) : Nat :=
  ((base.read e).toNat + (match idx with
    | some v => (v.read .uint32 e s tid).toNat % 2 ^ 32
    | none => 0) + off.toNat) % 2 ^ 64

/-- An access of the word of `e`. -/
def accessBy (e : Env) (kind : AccKind) (shared strong : Bool) (scope : Scope) (ov : Bool) (cls : BitVec 2)
    (items : List Item) (once : Bool) : Access :=
  { kind := kind, pc := e.addr, len := e.len, uid := e.act.uid, shared := shared, strong := strong, scope := scope,
    ov := ov, cls := cls, items := items, once := once }

/-- The access that LD, LR, ST, SC, ATOM, SLD and SST make for the threads `ts`: each thread's address, its data as
the instruction reads it, and where its result goes (R147, R374, R377, R396, R336, R405, R78). -/
def accessRule : Instr → Option (Env → State → List Nat → Access)
  | .ld o => some fun e s ts => accessBy e (.ld o.ty) o.sp o.strong o.scope o.ov o.sl (ts.map fun t =>
      ⟨t, addressOf e s o.base o.idx (o.off.bytes 16) t, 0, 0, (e.thread s t).base + o.v.toNat⟩) false
  | .lr o => some fun e s ts => accessBy e (.lr o.ty) o.sp true (if o.sp then .team else .pkg) o.ov o.sl (ts.map fun t =>
      ⟨t, addressOf e s o.base o.idx (o.off.bytes 16) t, 0, 0, (e.thread s t).base + o.v.toNat⟩) false
  | .st o => some fun e s ts => accessBy e (.st o.ty) o.sp o.strong o.scope o.ov o.sl (ts.map fun t =>
      ⟨t, addressOf e s o.base o.idx (o.off.bytes 16) t, e.vdata s o.ty.is64 t o.v.toNat, 0, noDst⟩) false
  | .sc o => some fun e s ts => accessBy e (.sc o.ty) o.sp true (if o.sp then .team else .pkg) o.ov o.sl (ts.map fun t =>
      ⟨t, addressOf e s o.base o.idx ((o.off.map (·.signExtend 64)).getD 0) t, e.vdata s o.ty.is64 t o.s.toNat, 0,
        (e.thread s t).base + o.d.toNat⟩) false
  | .atom o => some fun e s ts =>
      let wide : Bool := o.ty.size = 8
      accessBy e (.atom o.op o.ty o.ret) o.sp true o.scope false o.sl (ts.map fun t =>
        ⟨t, addressOf e s o.base o.idx (o.off.bytes 16) t, e.vdata s wide t o.v.toNat,
          if o.op = .cas then e.vdata s wide t (o.v.toNat + (if wide then 2 else 1)) else 0,
          if o.ret then (e.thread s t).base + o.v.toNat else noDst⟩) false
  | .sld o => some fun e s _ => accessBy e (.sld o.k.toNat) o.sp false .lg o.ov o.sl
      [⟨noTid, addressOf e s o.base none (o.off.bytes 16) 0, 0, 0, noDst⟩] true
  | .sst o => some fun e s _ => accessBy e (.sst (setIn s e o.k.toNat)) o.sp false .lg o.ov o.sl
      [⟨noTid, addressOf e s o.base none (o.off.bytes 16) 0, 0, 0, noDst⟩] true
  | _ => none

/-- What those words wait for. -/
def accessNeeds (i : Instr) : Option (Option Guard × Needs) :=
  let per (g : Guard) (base : USrc) (ra : Bool) (idx : Option VSrc) (rb : Bool) (v : List (Nat × Bool)) (d : List Nat) :
      Option (Option Guard × Needs) :=
    some (some g, { u := memNeedsU base ra, v := memNeedsV idx rb ++ v, dv := d })
  match i with
  | .ld o => per o.guard o.base o.ra o.idx o.rb [] (destV o.v.toNat o.ty.is64)
  | .lr o => per o.guard o.base o.ra o.idx o.rb [] (destV o.v.toNat o.ty.is64)
  | .st o => per o.guard o.base o.ra o.idx o.rb ((destV o.v.toNat o.ty.is64).map (·, false)) []
  | .sc o => per o.guard o.base o.ra o.idx o.rb ((destV o.s.toNat o.ty.is64).map (·, o.rc)) [o.d.toNat]
  | .atom o => per o.guard o.base o.ra o.idx o.rb ((AtomicOp.regs o).map (·, false)) []
  | .sld o => some (none, { u := o.base.need o.ra, dk := [o.k.toNat] })
  | .sst o => some (none, { u := o.base.need o.ra, k := [o.k.toNat] })
  | _ => none

/-- A memory word issues for `ts`: per thread under its guard, or once per path. -/
def Issues (i : Instr) (s : State) (e : Env) (ts : List Nat) : Prop :=
  match accessNeeds i with
  | some (some g, n) => Executes s e g n ts
  | some (none, n) => AtIssue s e n e.act.lanes ∧ ts = e.act.lanes
  | none => False

/-- The checks of R151 and R176 that need no translation are passed: no held access, room in the operand log, alignment,
the space's range. -/
def Admitted (s : State) (e : Env) (a : Access) : Prop :=
  e.memHeld s = none ∧ (a.shared = true ∨ s.logUsed e.ref.ctx < 16) ∧
  ∀ i ∈ a.items, i.addr % a.kind.align = 0 ∧ e.rangeBad a i = false

/-- Every page of the access is in the TLBs, or the access needs none. -/
def Translated (s : State) (e : Env) (a : Access) : Prop :=
  a.shared = true ∨ ∀ i ∈ a.items,
    s.allCached e.ctx.core (dieOf e.ctx.core) e.launch.root i.addr (a.kind.size e.team.span) = true

/-- The items of an access reach memory of this device at the pieces that `l` gives; no poison, absent line or earlier access of
its context holds it, and the core's requests have room (R156, R175, R181, R186, R309). -/
def Reaches (s : State) (e : Env) (a : Access) (l : List Got) (s1 : State) : Prop :=
  State.reachAll e.who a a.items s = (l, s1) ∧
  (∀ g ∈ l, (∃ segs sc host, g.2 = .go (.mem segs sc host)) ∧ leafForbids a.kind g.2 = false ∧ s1.gotPoison a l g = false) ∧
  s1.absentLines e.who a l = [] ∧ s1.mustDrain e.who a s1.nextId l = none ∧
  s1.requests e.ctx.core + sectorsFar (l.flatMap (·.2.segs)) ≤ 1024

/-- An access passes every check (R151, R169). -/
def Passes (s : State) (e : Env) (a : Access) (l : List Got) (s1 : State) : Prop :=
  Admitted s e a ∧ Translated s e a ∧ Reaches s e a l s1

/-- Bytes written over pieces of memory. -/
def writeOver (m : List Host.Cell) : List (Nat × Nat) → List Byte → List Host.Cell
  | [], _ => m
  | (k, n) :: r, bs => writeOver (memWrites m k (bs.take n)) r (bs.drop n)

/-- Bytes read over pieces of memory. -/
def readOver (m : List Host.Cell) (segs : List (Nat × Nat)) : List Byte := segs.flatMap fun p => memReads m p.1 p.2

/-- The number that a load of an item gives: its thread sees its own earlier stores (R186). -/
def loaded (s : State) (e : Env) (a : Access) (g : Got) : Nat :=
  let own := s.ownStores e.ref.ctx e.ctx.team (if a.once then noTid else g.1.tid)
  leNat (s.seenSegs (own.filter (·.op < s.nextId + 1)) g.2.segs)

/-! ### Queues, tags, presence -/

/-- A range of an access of the word of `e` lies at key `k` of memory and can be used now: no poison, absent line or earlier
store of the context is in its way (R156, R186, R309); `s'` is the state after the translation. -/
def Usable (s : State) (e : Env) (a : Access) (addr n : Nat) (wr : Bool) (k : Nat) (s' : State) : Prop :=
  ∃ sc host, s.itemReach e.who a ⟨noTid, addr, 0, 0, noDst⟩ = (.go (.mem [(k, n)] sc host), s') ∧
    s'.sqCheck e.who wr (.go (.mem [(k, n)] sc host)) = none

/-- SQPUSH and SQPOP as accesses. -/
def queueAccess (o : SetMem) (push : Bool) (e : Env) (s : State) : Access :=
  accessBy e (if push then .sqpush o.sd.toNat (setIn s e o.k.toNat) else .sqpop o.k.toNat o.sd.toNat) o.sp true
    (if o.sp then .team else .pkg) o.ov o.sl [⟨noTid, addressOf e s o.base none (o.off.bytes 16) 0, 0, 0, noDst⟩] true

/-- What SQPUSH and SQPOP wait for. -/
def queueNeeds (o : SetMem) (push : Bool) : Needs :=
  if push then { u := o.base.need o.ra, k := [o.k.toNat], du := [o.sd.toNat] }
  else { u := o.base.need o.ra, dk := [o.k.toNat], du := [o.sd.toNat] }

/-- A queue operation completes: the path goes on, memory is `m`, and its results `rs` are on their way. -/
def QueueDone (i : Instr) (s : State) (e : Env) (m : List Host.Cell) (rs : List Res) : Prop :=
  ∃ t r, exec i s = .next t ∧ WentOn t e ∧ t.mem = m ∧ t.pend.get? s.nextId = some r ∧ r.work = .queue ∧
    r.ctx = e.ref.ctx ∧ r.uid = e.act.uid ∧ r.res = rs

/-- The set of an address in the tag table of its team's core (R152), and the table's key of a way of it. -/
def tagSetOf (e : Env) (a : Nat) : Nat := a / 128 % (e.team.spadBytes / 1024)
def tagKey (e : Env) (set way : Nat) : Nat := e.team.spadBase / 128 + 8 * set + way

/-- The line that a way of a set holds. -/
def tagAt (s : State) (e : Env) (set way : Nat) : Option Nat := (s.core e.ctx.core).tags.get? (tagKey e set way)

/-- A tag instruction can act for `ts`: its team has an allocation, its addresses are global (R155, R148). -/
def TagsOk (o : TagOp) (e : Env) (s : State) (ts : List Nat) : Prop :=
  1024 ≤ e.team.spadBytes ∧ ∀ tid ∈ ts, addressOf e s o.base o.idx (o.off.bytes 16) tid < 2 ^ 56

/-- Everything but one core's tags and the path is as it was. -/
def OnlyTags (s t : State) (e : Env) : Prop :=
  t.threads = s.threads ∧ Retired s t e (e.addr + 8 * e.len) id ∧ SameDevice s { t with cores := s.cores } ∧ t.pend = s.pend ∧
  ∀ c, t.core c = if c = e.ctx.core then { s.core c with tags := (t.core c).tags } else s.core c

/-! ### Control registers -/

/-- What CSRR reads (R354, R202, R207, R274, R356, R33, R40, R65). -/
def csrRule (c : Csr) (e : Env) (s : State) : Word :=
  match c with
  | .slk => e.ctx.slk
  | .ovd => e.ctx.ovd
  | .tstat => e.ctx.tstat
  | .pstat => BitVec.ofNat 64 (1 + (if e.ctx.p1 ≠ [] then 2 else 0) + (if e.ref.slot = 1 then 4 else 0))
  | .fesum =>
    let semp := ((List.range 160).filter fun n => !(e.act.u n).full).length
    let vemp := ((List.range 224).filter fun n => e.act.lanes.any fun tid => !((e.thread s tid).reg n).full).length
    BitVec.ofNat 64 (semp + 2 ^ 8 * vemp + (if s.logUsed e.ref.ctx = 0 then 0 else 2 ^ 16))
  | .frame =>
    match e.ctx.frames.head?.bind e.team.frames.get? with
    | some ⟨depth, m :: ms⟩ =>
      let low := (m :: ms).foldl min m
      let leads := (s.holders e.ctx.team [low]).any fun h => h.1 = e.ref.ctx
      BitVec.ofNat 64 (depth % 2 ^ 4 + 2 ^ 8 * (low % 2 ^ 11) + (if leads then 2 ^ 19 else 0))
    | _ => 0
  | .sform => BitVec.ofNat 64 ((List.range 16).map fun n => (e.act.kr n).form.code * 4 ^ n).sum

/-- The word completes: its path's context is changed by `f`, and nothing else. -/
def SetsCtx (i : Instr) (s : State) (e : Env) (f : Ctx → Ctx) : Prop :=
  ∃ t u, exec i s = .next t ∧ t = { u with ctxs := u.ctxs.modify e.ref.ctx f } ∧ u.threads = s.threads ∧
    Retired s u e (e.addr + 8 * e.len) id ∧ SameElse s u

/-! ### Streams, copies and engines -/

/-- A field of n bytes of memory, i bytes after a key. -/
def fieldOf (m : List Host.Cell) (k i n : Nat) : Nat := leNat (memReads m (k + i) n)

/-- A range is 64 KiB pages that are translated for an engine of the core's die: it lies at key `k` of memory (R174). -/
def EngineAt (s : State) (e : Env) (va n : Nat) (need : Need) (k : Nat) (s' : State) : Prop :=
  ∃ host, s.engineReach e.who va n need = (.go (.mem [(k, n)] false host), s') ∧ s'.segsPoisoned [(k, n)] = false

/-- An engine instruction finds no held access, room in the operand log and among its core's requests, and its context's earlier
stores and atomics visible (R178, R176, R181, R192). -/
def EngineReady (s : State) (e : Env) : Prop :=
  e.memHeld s = none ∧ s.logUsed e.ref.ctx < 16 ∧ s.requests e.ctx.core < 1024 ∧ Released s e

/-- The word of `e` has posted an operation: it has the next number of its context's timeline tl, that number stands in sd,
where there is one, at once, the lines that it fills are absent, and the path goes on; memory is as it was (R163, R156). -/
def EnginePosted (s t : State) (e : Env) (tl : Nat) (sd : Option Nat) (w : Work) (lines : List Nat) : Prop :=
  let k := e.ctx.issued.getD tl 0 + 1
  (∃ id o, t.pend.get? id = some o ∧ s.nextId ≤ id ∧ o.work = w ∧ o.ctx = e.ref.ctx ∧ o.uid = e.act.uid ∧ o.pc = e.addr ∧
    o.tl = tl ∧ o.num = k ∧ o.fills = lines) ∧
  (∃ c, t.ctxs.get? e.ref.ctx = some c ∧ c.issued.getD tl 0 = k) ∧
  (∃ a, t.act? e.ref = some a ∧ (∀ d, sd = some d → a.u d = ⟨BitVec.ofNat 64 k, true⟩) ∧ a.pc = e.addr + 8 * e.len ∧
    a.status = .ready) ∧
  (∀ x ∈ lines, t.linePresent x = false) ∧ t.mem = s.mem

/-- The bytes that a CPA copies for a thread (R161). -/
def copyCount (o : CpaOp) (e : Env) (s : State) (tid : Nat) : Nat :=
  match o.valid with
  | .imm n => n.toNat
  | .reg r => min ((e.thread s tid).reg r.toNat).val.toNat 32

/-- CPA as an access. -/
def copyAccess (o : CpaOp) (e : Env) (s : State) (ts : List Nat) : Access :=
  accessBy e (.cpa o.tag.toNat) false false .lg false o.sl (ts.map fun tid =>
    ⟨tid, addressOf e s o.sb (some o.si) 0 tid, BitVec.ofNat 64 (copyCount o e s tid), 0,
      e.team.spadBase + addressOf e s o.db (some o.di) 0 tid⟩) false

/-- Every source of a CPA that is read lies at the key that `k` gives, in this device's memory, on no SC page; every page
that it reads is in the TLBs. -/
def CopySources (s : State) (e : Env) (a : Access) (k : Nat → Nat) (s' : State) : Prop :=
  (∀ i ∈ a.items, i.data = 0 ∨ s.allCached e.ctx.core (dieOf e.ctx.core) e.launch.root i.addr 32 = true) ∧
  ∃ l, State.copyReach e.who a a.items s = (l, s') ∧ ∀ g ∈ l, ∃ host,
    g.2 = .go (.mem (if g.1.data = 0 then [] else [(k g.1.tid, 32)]) false host)

/-- No path of a context has ended, stands at a finished join or waits to run a block, so that a completion leaves its paths as
they are. -/
def PathsStand (s : State) (ctx : Nat) : Prop :=
  ∀ slot a, s.act? ⟨ctx, slot⟩ = some a → a.lanes ≠ [] ∧ ∀ lb ov, a.status ≠ .join true true lb ov ∧ a.status ≠ .thenApply lb ov

/-- The windows of threads lie within their files (R351): an invariant. -/
def Windows (s : State) (e : Env) (ts : List Nat) : Prop := ∀ tid ∈ ts, (e.thread s tid).base + 224 ≤ 1024

/-- No store of the path's team is on its way to memory. -/
def NoStores (s : State) (e : Env) : Prop := ∀ p ∈ s.ctxs, p.1 = e.ref.ctx ∨ p.2.team = e.ctx.team → p.2.queue = []

/-- ROUTE's descriptor lies at key `k` and can be read now; `s'` is the state after its translation (R178, R236). -/
def DescriptorAt (s : State) (e : Env) (a : Access) (addr k : Nat) (s' : State) : Prop :=
  ∃ r s1 sc host, s.itemReach e.who a (onceItem addr) = (r, s1) ∧
    s1.mustDrain e.who { a with strong := false, once := true } s1.nextId [(onceItem addr, r)] = none ∧
    s1.itemReach e.who a (onceItem addr) = (.go (.mem [(k, 32)] sc host), s') ∧ s'.segsPoisoned [(k, 32)] = false

/-! ### Gate slots (R226 to R228) -/

/-- The orderable score of an FP32 pattern. -/
def scoreBits (x : Nat) : Nat := if x < 2 ^ 31 then x + 2 ^ 31 else 2 ^ 32 - 1 - x

/-- MAX, ROUND and the winners so far of the gate slot at a key. -/
def slotMax (m : List Host.Cell) (k : Nat) : Nat := fieldOf m k 0 8
def slotRound (m : List Host.Cell) (k : Nat) : Nat := min (fieldOf m k 16 1) 8
def slotWins (m : List Host.Cell) (k : Nat) : List Nat := (List.range (slotRound m k)).map fun i => fieldOf m k (8 + i) 1

/-- Memory after a candidate (x, e) is offered to the slot at a key (R227). -/
def offered (m : List Host.Cell) (k x e : Nat) : List Host.Cell :=
  let p := scoreBits x * 2 ^ 32 + (2 ^ 32 - 1 - e)
  if 255 ≤ e ∨ (Fmt.fp32.value x).isNan = true ∨ e ∈ slotWins m k ∨ p ≤ slotMax m k then m
  else memWrites m k (natLE p 8)

/-- The result of a round of the slot at a key: index and score (R228). -/
def roundOf (m : List Host.Cell) (k : Nat) : Nat × Nat :=
  let p := slotMax m k
  if slotRound m k = 8 ∨ p = 0 then (2 ^ 32 - 1, 0)
  else
    let o := p / 2 ^ 32
    (2 ^ 32 - 1 - p % 2 ^ 32, if 2 ^ 31 ≤ o then o - 2 ^ 31 else 2 ^ 32 - 1 - o)

/-- Memory after a round of the slot at a key (R228). -/
def rounded (m : List Host.Cell) (k : Nat) : List Host.Cell :=
  let n := slotRound m k
  if n = 8 then m
  else
    let m1 := memWrites m (k + 16) (natLE (n + 1) 1)
    if slotMax m k = 0 then memWrites m1 (k + 8 + n) (natLE 255 1)
    else memWrites (memWrites m1 (k + 8 + n) (natLE (2 ^ 32 - 1 - slotMax m k % 2 ^ 32) 1)) k (natLE 0 8)

/-- The gate slots of GMAX and GNEXT for `ts` lie at the keys that `k` gives, in the team's own scratchpad or a partner's, on
present lines, with no earlier store of the context and no held access of the path in the way (R229, R156, R178). -/
def SlotsAt (o : GateOp) (s : State) (e : Env) (ts : List Nat) (k : Nat → Nat) : Prop :=
  e.memHeld s = none ∧ ∀ tid ∈ ts,
    let a := addressOf e s o.base o.idx (BitVec.ofInt 64 (32 * o.off.toInt)) tid
    a % 32 = 0 ∧ a < 2 ^ 20 ∧ sharedKey e.ctx.core e.team a 32 = some (k tid) ∧
    (∀ x ∈ linesOf (k tid) 32, s.linePresent x = true) ∧
    overlaps (s.ownStores e.ref.ctx e.ctx.team tid) [(k tid, 32)] = false

/-! ### Matrix arrays -/

/-- A row of a core's accumulator store is free; a team holds it. -/
def RowFree (s : State) (core r : Nat) : Prop := (s.core core).rows.get? r = none
def RowHeld (s : State) (core team r : Nat) : Prop := r < 256 ∧ ∃ pair, (s.core core).rows.get? r = some (team, pair)

/-- A core's table of rows names each row once: an invariant. -/
def RowsOnce (s : State) (core : Nat) : Prop := ((s.core core).rows.map Prod.fst).Nodup

/-- The cores that a path's row and pair instructions name: both from the leader of a pair team (R139, R140). -/
def rowCores (e : Env) : List Nat :=
  match e.team.cores with
  | [a, b] => if e.ctx.core = a then [a, b] else [e.ctx.core]
  | _ => [e.ctx.core]

/-- The bytes of n rows or columns of K elements of a format (R131), and its rate (R123). -/
def tileBytes (elem k n : Nat) : Nat := if elem = 5 then n * (k / 32) * 17 else if elem = 0 then 2 * n * k else n * k
def rateOf (elem : Nat) : Nat := if elem = 0 then 1 else if elem = 5 then 4 else 2

/-- An operand of the matrix arrays lies at a key of the shared windows (R133). -/
def MatrixAt (e : Env) (base : USrc) (off : Off) (n k : Nat) : Prop :=
  let a := ((base.read e).toNat + (off.bytes 16).toNat) % 2 ^ 64
  a % 16 = 0 ∧ sharedKey e.ctx.core e.team a n = some k

/-! ### Results that arrive -/

/-- The last value that results give a vector register of a thread's file, a path register of it, a uniform and a set
register; the flags that they give it. -/
def lastV (rs : List Res) (tid n : Nat) : Option Lane :=
  (rs.filterMap fun r => match r with
    | .v t m x => if t = tid ∧ m = n then some x else none
    | _ => none).getLast?
def lastH (rs : List Res) (tid n : Nat) : Option Word :=
  (rs.filterMap fun r => match r with
    | .h t m x => if t = tid ∧ m = n then some x else none
    | _ => none).getLast?
def lastU (rs : List Res) (n : Nat) : Option Word :=
  (rs.filterMap fun r => match r with
    | .u m x => if m = n then some x else none
    | _ => none).getLast?
def lastK (rs : List Res) (n : Nat) : Option SetForm :=
  (rs.filterMap fun r => match r with
    | .k m x => if m = n then some x else none
    | _ => none).getLast?
def flagsOf (rs : List Res) (tid : Nat) : BitVec 32 :=
  (rs.filterMap fun r => match r with
    | .flags t f => if t = tid then some f else none
    | _ => none).foldl (· ||| ·) 0

/-- Results arrived at a team's threads: each register that they name is full with its value, their flags are set, all else is
as it was; a thread that is done receives nothing (R361). -/
def Delivered (s t : State) (team : Nat) (rs : List Res) : Prop :=
  (∀ tid th, s.thread team tid = some th → th.done = false → ∃ th', t.thread team tid = some th' ∧
    (∀ n, th'.lreg n = ((lastV rs tid n).map (⟨·, true⟩)).getD (th.lreg n)) ∧
    (∀ n, th'.path n = ((lastH rs tid n).map (⟨·, true⟩)).getD (th.path n)) ∧
    th' = { th with v := th'.v, h := th'.h, tsw := th.tsw ||| flagsOf rs tid }) ∧
  (∀ tid th, s.thread team tid = some th → th.done = true → t.thread team tid = some th) ∧
  ∀ k, (∀ tid, k ≠ tkey team tid) → t.threads.get? k = s.threads.get? k

/-- An operation is complete: it is gone; its results are with its threads and, where its path still runs, in its path's
registers, and that path goes on where it stood. -/
def Completes (s t : State) (id : Nat) (o : Op) (rs : List Res) : Prop :=
  t.pend.get? id = none ∧ Delivered s t o.team rs ∧
  (PathsStand s o.ctx → ∀ r a, r.ctx = o.ctx → s.act? r = some a → a.uid = o.uid → ∃ b, t.act? r = some b ∧
    b.pc = a.pc ∧ b.lanes = a.lanes ∧ (∀ n, b.u n = ((lastU rs n).map (⟨·, true⟩)).getD (a.u n)) ∧
    ∀ n, b.kr n = ((lastK rs n).map (⟨·, true⟩)).getD (a.kr n))

/-- The number of an operation counts on its timeline: its counter stands at the highest number with all before it
complete (R163). -/
def Counted (s t : State) (o : Op) : Prop :=
  PathsStand s o.ctx → ∀ c, s.ctxs.get? o.ctx = some c → (c.p0 ≠ [] ∨ c.p1 ≠ []) → ∃ d, t.ctxs.get? o.ctx = some d ∧
    (c.tl.getD o.tl 0 + 1 = o.num → o.num ≤ d.tl.getD o.tl 0) ∧ c.tl.getD o.tl 0 ≤ d.tl.getD o.tl 0

/-! ### Applications and bins -/

/-- Every uniform and set register of an activation is full. -/
def AllFull (a : Act) : Prop := (∀ p ∈ a.s, p.2.full = true) ∧ ∀ p ∈ a.k, p.2.full = true

/-- A path that runs a block over `lanes`: the block's address, the registers of the path that applied it (R89). -/
def Runs (x a : Act) (pc : Nat) (lanes : List Nat) : Prop :=
  x.pc = pc ∧ x.lanes = lanes ∧ x.s = a.s ∧ x.k = a.k ∧ x.status = .ready

/-- A path that stands at its continuation. -/
def Stands (x : Act) (e : Env) : Prop := x.uid = e.act.uid ∧ x.pc = e.addr + 8 * e.len ∧ x.lanes = e.act.lanes ∧ x.s = e.act.s ∧ x.k = e.act.k

/-- A context has taken a slot of a core with its first path. -/
def Formed (t : State) (id team core slot : Nat) (frames : List Nat) (f : Act → Prop) : Prop :=
  ∃ c x, t.ctxs.get? id = some c ∧ c.team = team ∧ c.core = core ∧ c.slot = slot ∧ c.phase = .resident ∧ c.frames = frames ∧
    c.p0 = [x] ∧ c.p1 = [] ∧ c.queue = [] ∧ c.log = [] ∧ x.status = .ready ∧ f x

/-- A bin of a core holds the threads `tids` for an entry. -/
def Binned (s : State) (core i team entry : Nat) (spawn : Bool) (tids : List Nat) : Prop :=
  ∃ b, (s.core core).bins.get? i = some b ∧ b.team = team ∧ b.entry = entry ∧ b.spawn = spawn ∧ b.tids = tids

/-- The bin that threads of a key enter holds `old` and has room for n more. -/
def BinReady (s : State) (core team entry : Nat) (spawn : Bool) (i : Nat) (old : List Nat) (n : Nat) : Prop :=
  s.binFor core team entry spawn = some i ∧ old.length + n < s.width team ∧
  ((s.core core).bins.get? i = none ∧ old = [] ∨ Binned s core i team entry spawn old)

/-- The participants of a frame have all arrived with one instruction at one address; `c`, which holds the lowest tid,
carries it (R90 to R92). -/
structure Met (s : State) (team f addr len : Nat) (col : Collective) (ps : List (PathRef × Act)) (c : PathRef × Act)
    (tm : Team) (l : Launch) (rcd : Record) : Prop where
  parts : ps = s.parts team f
  carried : carrier ps = some c
  paths : ∀ p ∈ ps, s.act? p.1 = some p.2 ∧ p.2.status = .arrived addr len col
  runs : s.teamRuns team = true
  team : s.teams.get? team = some tm
  launch : s.launches.get? tm.launch = some l
  record : l.record = some rcd

/-- The set that a set register of a participant names. -/
def partSet (s : State) (tm : Team) (p : PathRef × Act) (k : Nat) : Tids :=
  (p.2.kr k).form.members tm (tm.side (s.coreOf p.1))

/-- The participants go on at the continuation. -/
def AllGoOn (t : State) (ps : List (PathRef × Act)) (cont : Nat) : Prop :=
  ∀ p ∈ ps, ∃ a, t.act? p.1 = some a ∧ a.pc = cont ∧ a.status = .ready ∧ a.lanes = p.2.lanes ∧ a.s = p.2.s ∧ a.k = p.2.k

/-- An application over `members` is open (R93): a frame one deeper, what its contexts start with, those to be formed; its
issuers are suspended at their continuation. -/
def Applied (s t : State) (team f : Nat) (tm : Team) (ps : List (PathRef × Act)) (c : PathRef × Act) (cont target : Nat)
    (members : List Nat) (todo : List FormReq) (n : Nat) (foot : Option Nat) (skey : Nat) : Prop :=
  ∃ tm' id a, t.teams.get? team = some tm' ∧ tm'.apps.get? id = some a ∧ a.target = target ∧ a.todo = todo ∧ a.live = [] ∧
    a.s = c.2.s.filter (fun p => p.1 < n) ∧ a.k = c.2.k ∧ a.foot = foot ∧ a.skey = skey ∧
    (∃ cx rest, s.ctxs.get? c.1.ctx = some cx ∧ cx.frames = f :: rest ∧ a.parents = cx.frames) ∧
    tm'.frames.get? a.frame = some ⟨((tm.frames.get? f).map (·.depth)).getD 0 + 1, members⟩ ∧
    ∀ p ∈ ps, ∃ x, t.act? p.1 = some x ∧ x.status = .applied id ∧ x.pc = cont ∧ x.lanes = p.2.lanes

/-- Every context to be formed lies on the carrying path's core, or every carried set fits an inline form, so that no carried
handle needs a slot on the other core (R66, R93). -/
def CarriesOver (s : State) (tm : Team) (c : PathRef × Act) (todo : List FormReq) : Prop :=
  (∀ q ∈ todo, q.core = s.coreOf c.1) ∨ ∀ q ∈ c.2.k, (inlineForm (q.2.form.members tm (tm.side (s.coreOf c.1)))).isSome = true

/-! ### WAIT and channels (R166, R214 to R217) -/

/-- The kind of a condition and its number. -/
def condKind (c : WCond) : Nat := c.first.toNat / 2 ^ 56
def condArg (c : WCond) : Nat := c.first.toNat % 2 ^ 56

/-- A condition that R166 allows: declared channels, offsets that the team's windows reach. -/
def CondLegal (e : Env) (c : WCond) : Prop :=
  let k := condKind c
  let x := condArg c
  k = 1 ∧ x ≤ 4 ∨ k = 2 ∧ x ≤ 7 ∧ c.second = 0 ∨
  (k = 3 ∨ k = 4) ∧ x ≤ 15 ∧ c.second = 0 ∧ (e.launch.chans.get? x).isSome = true ∨
  k = 5 ∧ x = 0 ∧ (sharedKey e.ctx.core e.team c.second.toNat 1).isSome = true ∨ k = 6 ∧ x % 8 ≤ 5

/-- The word of a kind-6 condition lies at a key of memory, on a page that is in the TLBs, and is not lost. -/
def WordAt (s : State) (e : Env) (c : WCond) (k : Nat) : Prop :=
  ∃ sc host, s.reach (some e.ctx.core) (dieOf e.ctx.core) e.launch.root (condArg c / 8 * 8) 8 .read =
    (.go (.mem [(k, 8)] sc host), s) ∧ s.segsPoisoned [(k, 8)] = false

/-- The word of a kind-6 condition lies on an SC page; everything of the path and its context's stores are performed (R191). -/
def WordSc (s : State) (e : Env) (c : WCond) : Prop :=
  (s.reach (some e.ctx.core) (dieOf e.ctx.core) e.launch.root (condArg c / 8 * 8) 8 .read).1.isSc = true
def AllPerformed (s : State) (e : Env) : Prop :=
  e.ctx.queue = [] ∧ s.awayAt e.ref.ctx (some e.act.uid) = false ∧ ∀ l ∈ e.ctx.log, l.acc.uid ≠ e.act.uid

/-- A condition with its word found. -/
def found (key : WCond → Nat) (c : WCond) : WCond := if condKind c = 6 then { c with key := some (key c), word := none } else c

/-- A condition holds (R166). -/
def CondHolds (s : State) (e : Env) (c : WCond) : Prop :=
  let x := condArg c
  match condKind c with
  | 1 => c.second.toNat ≤ e.ctx.tl.getD x 0
  | 2 => e.ctx.tags.getD x 0 = 0
  | 3 => ∃ ch, e.launch.chans.get? x = some ch ∧ ch.cons = e.team.id ∧ ∃ y ∈ ch.fifo, y.ready = true ∧ y.taken = false
  | 4 => ∃ ch, e.launch.chans.get? x = some ch ∧ ch.fifo.length < ch.slots
  | 5 => ∃ k, sharedKey e.ctx.core e.team c.second.toNat 1 = some k ∧ ∀ y ∈ linesOf k 1, s.linePresent y = true
  | 6 => ∃ k y, c.key = some k ∧ [Cond.eq, .ne, .lt, .le, .gt, .ge][x % 8]? = some y ∧
      Holds y (BitVec.ofNat 64 (leNat (memReads s.mem k 8))).toInt c.second.toInt
  | _ => False

/-- A path waits in WAIT (R167). -/
def Waits (s : State) (r : PathRef) (a : Act) (w : Waiting) (e : Env) : Prop :=
  s.act? r = some a ∧ a.status = .wait w ∧ s.envAt ⟨r, a.pc, w.len⟩ = some e ∧ s.running e.ctx = true

/-- A WAIT ends with a mask, and its path goes on. -/
def WaitEnds (s t : State) (r : PathRef) (a : Act) (w : Waiting) (mask : Word) : Prop :=
  t.mem = s.mem ∧ t.threads = s.threads ∧ ∃ b, t.act? r = some b ∧ b.pc = a.pc + 8 * w.len ∧ b.status = .ready ∧
    b.lanes = a.lanes ∧ (∀ n, b.u n = if n = w.sd then ⟨mask, true⟩ else a.u n) ∧ b.k = a.k

/-- A channel of a launch. -/
def chanIn (s : State) (launch ch : Nat) : Option Channel := (s.launches.get? launch).bind fun l => l.chans.get? ch

/-- A channel operation of a path of a launch has arrived at its ring. -/
def ChanOpAt (s : State) (id : Nat) (o : Op) (launch : Nat) : Prop :=
  s.pend.get? id = some o ∧ o.arrived? = true ∧
  ∃ c tm, s.ctxs.get? o.ctx = some c ∧ s.teams.get? c.team = some tm ∧ tm.launch = launch

/-- A path waits at issue for a channel, and may issue. -/
def ChanWaits (s : State) (r : PathRef) (a : Act) (ch len : Nat) (slot : Bool) (e : Env) (c : Channel) : Prop :=
  s.act? r = some a ∧ a.status = .again (if slot then .slot ch len else .data ch len) ∧ s.canIssue e.ctx a = true ∧
  s.envAt ⟨r, a.pc, len⟩ = some e ∧ chanIn s e.team.launch ch = some c

/-- A path is ready and issues next. -/
def IssuesNext (s t : State) (r : PathRef) : Prop :=
  t.agenda = .issue 0 r :: s.agenda ∧ t.mem = s.mem ∧ t.threads = s.threads ∧
  t.ctxs = s.ctxs.modify r.ctx fun c => c.modTop r.slot fun a => { a with status := .ready, since := s.cycAt r.ctx }

/-! ### Engines that complete -/

/-- Threads changed in their reservations alone, which writes end (R196). -/
def OnlyResv (s t : State) : Prop :=
  (∀ k th, s.threads.get? k = some th → ∃ v, t.threads.get? k = some { th with resv := v }) ∧
  ∀ k, s.threads.get? k = none → t.threads.get? k = none

/-- The lines that an operation fills are present where no other operation still fills them (R156). -/
def Filled (s t : State) (id : Nat) (lines : List Nat) : Prop :=
  ∀ x ∈ lines, (∀ p ∈ s.pend, p.1 ≠ id → x ∉ p.2.fills) → (∀ p ∈ s.ctxs, ∀ l ∈ p.2.log, x ∉ l.fills p.2.core) →
    t.linePresent x = true

/-- An engine operation is complete: it is gone, the lines that it filled are present, its number counts. -/
def EngineDone (s t : State) (id : Nat) (o : Op) : Prop :=
  t.pend.get? id = none ∧ OnlyResv s t ∧ Filled s t id o.fills ∧ (o.tl < 5 → Counted s t o)

/-- An operation that its engine may complete: it and its packets are there, nothing holds it, none of its sources has changed
since it was posted; it has no register results. -/
def EngineOp (s : State) (id : Nat) (o : Op) (w : Who) : Prop :=
  s.pend.get? id = some o ∧ o.arrived? = true ∧ s.asking id = false ∧ s.opWho o = some w ∧ o.tainted = false ∧ o.res = []

/-- A range that an engine reads, or writes, lies at pieces of memory, which hold no poison. -/
def ReadAt (s : State) (w : Who) (va n : Nat) (segs : List (Nat × Nat)) : Prop :=
  ∃ h, s.engineReach w va n .read = (.go (.mem segs false h), s) ∧ s.segsPoisoned segs = false
def WriteAt (s : State) (w : Who) (shared : Bool) (va n : Nat) (segs : List (Nat × Nat)) : Prop :=
  ∃ h, s.rangeReach w shared va n .write = (.go (.mem segs false h), s) ∧ s.writePoisoned segs segs = false

/-- The bytes of a tree's node: those that the operation has fetched, or those that it can read now (R249). -/
def NodeIs (s : State) (w : Who) (d : TreeDesc) (fmt : Nat) (ns : Map (List Byte)) (node : Nat) (bs : List Byte) : Prop :=
  ns.get? node = some bs ∨ ns.get? node = none ∧ ∃ segs, ReadAt s w (d.nodeAt node) (d.nodeBytes fmt) segs ∧ bs = readOver s.mem segs

/-- The pieces of two ranges have no byte in common. -/
def Apart (a b : List (Nat × Nat)) : Prop := ∀ p ∈ a, ∀ q ∈ b, p.1 + p.2 ≤ q.1 ∨ q.1 + q.2 ≤ p.1

/-- The launch unit or another engine of the hub reads `bs`. -/
def HubReads (s : State) (root va n : Nat) (bs : List Byte) : Prop :=
  ∃ segs h, s.reachHub root va n .read = .go (.mem segs false h) ∧ s.segsPoisoned segs = false ∧ bs = readOver s.mem segs

/-- The context of an operation, where its paths stand, has its weight tiles changed by `f`, as the operation ends. -/
def TilesAre (s t : State) (o : Op) (f : Ctx → Option Tile × Option Tile) : Prop :=
  PathsStand s o.ctx → ∀ c, s.ctxs.get? o.ctx = some c → (c.p0 ≠ [] ∨ c.p1 ≠ []) →
    ∃ d, t.ctxs.get? o.ctx = some d ∧ (d.live, d.shadow) = f c

/-- It is a load's, or a drain's, turn at the port of its arrays (R144). -/
def LoadTurn (s : State) (id : Nat) (o : Op) : Prop :=
  s.portTurn s.mldwCan (fun w => match w with
    | .mldw _ _ _ p => p
    | _ => false) id o = true
def DrainTurn (s : State) (id : Nat) (o : Op) : Prop :=
  s.portTurn s.mdrnCan (fun w => match w with
    | .mdrn _ _ _ _ p => p ≠ []
    | _ => false) id o = true

/-! ### Crossbars and peers -/

/-- An output that no packet holds has a packet to grant, which can be accepted; the epoch boundaries of its die are processed. -/
def Granting (s : State) (die port : Nat) (p : Packet) : Prop :=
  (s.die die).epoch = s.cyc die / 16 ∧ (∀ q ∈ (s.die die).xbar.pkts, q.slack = 0 → q.counted = true) ∧
  (s.die die).xbar.busy.getD port 0 ≤ s.cyc die ∧ (s.die die).xbar.winner port = some p ∧ s.accepts die p = true

/-- What a packet that a die grants becomes, and where (R205, R219): a request is answered at its target with the slack that it has
left, or by the hub at its bridge; a packet for another die enters it at the bridge. -/
def Onward (die : Nat) (p : Packet) (d : Nat) (q : Packet) : Prop :=
  let back (inp out : Nat) : Packet :=
    { p with reply := true, inp := inp, out := out, data := p.back, back := 0, counted := false, recov := false }
  let over' (out : Nat) : Packet := { p with inp := p.bridge, out := out, recov := false }
  (p.reply = false ∧ p.toDie = die ∧ d = die ∧ q = back p.toPort (if p.fromDie = die then p.fromPort else p.bridge)) ∨
  (p.reply = false ∧ p.toDie ≠ die ∧ p.toDie < 4 ∧ d = p.toDie ∧ q = over' p.toPort) ∨
  (p.reply = false ∧ p.toDie ≠ die ∧ 4 ≤ p.toDie ∧ p.flit = none ∧ d = die ∧ q = back p.bridge p.fromPort) ∨
  (p.reply = true ∧ p.fromDie ≠ die ∧ p.fromDie < 4 ∧ d = p.fromDie ∧ q = over' p.fromPort)

/-- The head of a buffer waits for space in another. -/
def Blocks (s : State) (b c : Nat × Nat) : Prop :=
  ∃ h d q, (s.die b.1).xbar.head b.2 = some h ∧ s.accepts b.1 h = false ∧ Onward b.1 h d q ∧ c = (d, q.inp)

/-- A flit that keeps R220's table. -/
def FlitWf (f : Flit) : Prop :=
  (1 ≤ f.src.toNat ∧ f.src.toNat ≤ 0x3FE) ∧ (1 ≤ f.dst.toNat ∧ f.dst.toNat ≤ 0x3FE) ∧ f.slack.toNat < 4096 ∧ f.kind.toNat ≤ 5 ∧
  f.payload.length ≤ 224 ∧ f.va.toNat < 2 ^ 56

/-! ### Paths and faults -/

/-- A path with what it acts on; it may run (R270, R276, R285). -/
def RunsOn (s : State) (r : PathRef) (a : Act) (pc len : Nat) (e : Env) : Prop :=
  s.act? r = some a ∧ s.envAt ⟨r, pc, len⟩ = some e ∧ s.running e.ctx = true

/-- The scheduler's choice (R268): a ready pair of `l` that no other goes before; it issues next, and nothing else changes. -/
def ChoosesFrom (s t : State) (l : List Cand) : Prop :=
  ∃ c ∈ l, t = { s with agenda := .issue 0 c.ref :: s.agenda } ∧ ∀ d ∈ l,
    ¬(d.aged = true ∧ c.aged = false ∨ d.aged = c.aged ∧ (c.prio < d.prio ∨ c.prio = d.prio ∧ d.since < c.since))

/-- No context's operand log holds an entry. -/
def NoLogs (s : State) : Prop := ∀ q ∈ s.ctxs, q.2.log = []

/-! ### Launches -/

/-- The table of n bytes at `va` that a launch reads: none at 0, else `bs`, of which `ok` holds. -/
def TableAt (s : State) (root va n : Nat) (bs : List Byte) (ok : Prop) : Prop := va = 0 ∨ HubReads s root va n bs ∧ ok

/-- The launch unit can write n bytes at `va`: they lie at `segs`. -/
def HubWrites (s : State) (root va n : Nat) (need : Need) (segs : List (Nat × Nat)) : Prop :=
  va % n = 0 ∧ (∃ h, s.reachHub root va n need = .go (.mem segs false h)) ∧ s.writePoisoned segs segs = false

/-- A launch is over: every team placed and freed, or, killed, every team that was placed (R265, R276). -/
def LaunchOver (x : Launch) : Prop :=
  x.phase = .running ∧ x.finished = x.next ∧ (x.killed ≠ none ∨ x.count ≤ x.next)

/-- A launch is refused with a STATUS: it runs no team, and the management kernel is told (R260, R265). -/
def Refused (s t : State) (l status : Nat) : Prop :=
  t.hub.reports = s.hub.reports ++ [⟨l, status, 0, 0⟩] ∧
  ∃ y, t.launches.get? l = some y ∧ y.status = status ∧ y.count = 0 ∧ y.next = 0 ∧ y.finished = 0 ∧
    y.phase = if y.record = none then .complete else .running

/-- The keys of a team's band. -/
def bandKeys (s : State) (team : Nat) : List Nat := (s.bandOf team).map Prod.fst

/-- The last team of a band is placed, and the band waits for nothing of higher priority. -/
def BandNext (s : State) (l : Nat) (x : Launch) (r : Record) : Prop :=
  s.launches.get? l = some x ∧ x.record = some r ∧ x.phase = .running ∧ x.killed = none ∧ x.next < x.count ∧
  (x.waiting = false ∨ ∀ d, s.higherWaits r.prio d = false)

/-- A team of a launch stands on the cores of its slices, as it starts (R25, R29, R150). -/
def Started (t : State) (key l id : Nat) (r : Record) (p : List Slice) : Prop :=
  ∃ tm, t.teams.get? key = some tm ∧ tm.launch = l ∧ tm.id = id ∧ tm.cores = p.map (·.core) ∧ tm.size = r.tsize ∧
    tm.span = r.tsize + r.spare ∧ tm.frames = [(0, ⟨0, List.range r.tsize⟩)] ∧ tm.freed = false ∧ tm.saved = false ∧
    (∀ q, p.head? = some q → tm.spadBase = q.spadBase ∧ tm.spadBytes = q.spad) ∧
    ∀ tid < r.tsize, t.thread key tid = some (Thread.start (tm.cores.getD (if tm.cores.length = 2 ∧ 1024 ≤ tid then 1 else 0) 0))

/-- The home context of a group of W threads of a team that starts (R29). -/
def HomeCtx (c : Ctx) (r : Record) : Prop :=
  ∃ a g, c.p0 = [a] ∧ c.p1 = [] ∧ c.frames = [0] ∧ c.slk = r.slk ∧ c.count = 0 ∧ a.pc = r.entry ∧ a.kind = .home ∧
    a.status = .ready ∧ a.s = [] ∧ a.k = [] ∧ a.lanes = (List.range (min r.w (r.tsize - g * r.w))).map (g * r.w + ·)

/-- The teams of a team's band, each listed once. -/
def BandIs (s : State) (team : Nat) (band : List (Nat × Team)) : Prop :=
  s.bandOf team = band ∧ (band.map Prod.fst).Nodup ∧ ∀ q ∈ band, s.teams.get? q.1 = some q.2

/-- No team of a band is pinned (R140, R267). -/
def Unpinned (s : State) (band : List (Nat × Team)) : Prop := ∀ q ∈ band, s.pinned q.1 q.2 = false

/-- What a band asks of the cores that it moves to. -/
def bandAsks (s : State) (band : List (Nat × Team)) (r : Record) : List Room := band.map fun q => s.roomOf q.1 q.2 r

/-- Every team of a band stands on its new cores and is not saved; the scratchpad of a band of one team has moved with it
(R267, R272). -/
def BandMoved (s t : State) (band : List (Nat × Team)) (p : List (List Slice)) (r : Record) : Prop :=
  t.launches = s.launches ∧
  (∀ (i : Nat) q sl, band[i]? = some q → p[i]? = some sl → ∃ tm, t.teams.get? q.1 = some tm ∧ tm.cores = sl.map (·.core) ∧
    tm.saved = false ∧ tm.id = q.2.id) ∧
  ∀ q sl, band = [q] → p = [sl] → Memory.wf s.mem = true → q.2.cores.Nodup → q.2.spadBytes = r.spad * 1024 →
    q.2.spadBase + q.2.spadBytes ≤ 2 ^ 19 →
    ∀ (i c : Nat) (x : Slice), q.2.cores[i]? = some c → sl[i]? = some x → ∀ n < q.2.spadBytes,
      memRead t.mem (spadKey x.core (x.spadBase + n)) = memRead s.mem (spadKey c (q.2.spadBase + n))

/-- The number in n bytes of a record, from byte i on. -/
def partOf (bs : List Byte) (i n : Nat) : Nat := leNat ((bs.drop i).take n)

/-- A context's paths, stores and logged accesses are as they were. -/
def SameWork (c d : Ctx) : Prop := d.p0 = c.p0 ∧ d.p1 = c.p1 ∧ d.queue = c.queue ∧ d.log = c.log

/-- The image of a saved context (R271): its header, and for each path slot in use the code position, the lane map, the
uniform and the set registers. -/
def ImageHolds (c : Ctx) : Prop :=
  let b := c.imageBytes
  partOf b 0 4 = 0x43540001 ∧ partOf b 4 4 = (if c.p1 = [] then 1 else 3) ∧ partOf b 8 8 = c.tstat.toNat ∧
  partOf b 16 8 = c.ovd.toNat ∧ partOf b 24 8 = c.slk.toNat ∧ (∀ i < 8, partOf b (32 + 2 * i) 2 = c.tags.getD i 0 % 2 ^ 16) ∧
  (∀ i < 5, partOf b (48 + 8 * i) 8 = c.tl.getD i 0 % 2 ^ 64) ∧ partOf b 88 40 = 0 ∧
  ∀ (slot : Nat) a, slot < 2 → c.p0 ≠ [] → (c.stack slot).head? = some a →
    let part (i n : Nat) : Nat := partOf b (sectionAt slot + i) n
    part 0 8 = a.pc % 2 ^ 64 ∧ part 8 8 = a.lanes.length % 2 ^ 16 ∧
    (∀ i < 64, part (16 + 2 * i) 2 = (a.lanes[i]?.getD 0xFFFF) % 2 ^ 16) ∧ (∀ i < 160, part (144 + 8 * i) 8 = (a.u i).val.toNat) ∧
    (∀ i < 160, (part 1424 24).testBit i = (a.u i).full) ∧ ∀ i < 16, part (1448 + 16 * i) 16 = (a.kr i).form.image.toNat

/-! ### Debugging and tracing -/

/-- Only a die's own record changed, by `f`. -/
def OnlyDie (s t : State) (d : Nat) (f : Die → Die) : Prop :=
  t = { s with dies := t.dies } ∧ t.die d = f (s.die d) ∧ ∀ c, c ≠ d → t.die c = s.die c

/-- A checkpoint interval numbered n begins on a die: the count and the serial of each of its contexts restart, and a die
that captures keeps a snapshot of this moment and the capture before it (R279, R281, R282). -/
def IntervalBegins (s t : State) (d n : Nat) (caps : List Capture) (capturing : Bool) : Prop :=
  t.mem = s.mem ∧ t.threads = s.threads ∧ t.pend = s.pend ∧ (t.die d).interval = n ∧ (t.die d).intervalAt = s.cyc d ∧
  (∀ id c, s.ctxs.get? id = some c →
    t.ctxs.get? id = some (if dieOf c.core = d then { c with count := 0, serial := 0 } else c)) ∧
  (capturing = true → s.replaying = false → ∃ x, (t.die d).capture = (x :: caps).take 2 ∧ x.interval = n ∧ x.turns = [] ∧ x.taken = false ∧
    x.snap.mem = s.mem ∧ x.snap.threads = s.threads ∧ x.snap.ctxs = t.ctxs ∧ x.snap.teams = s.teams ∧ x.snap.pend = s.pend)

/-- Only one ring changed: it is `r`. -/
def RingIs (s t : State) (ref : RingRef) (r : Ring) : Prop :=
  t.ringOf ref = r ∧ (∀ q, q ≠ ref → t.ringOf q = s.ringOf q) ∧ t.mem = s.mem ∧ t.threads = s.threads ∧ t.ctxs = s.ctxs ∧
  t.pend = s.pend ∧ t.teams = s.teams ∧ t.launches = s.launches ∧ t.dies = s.dies

/-- A record of a ring at a cycle: `p` holds of its bytes, whatever record stands before it. -/
def InRing (x : TraceRec) (cyc : Nat) (p : List Byte → Prop) : Prop := x.cyc = cyc ∧ ∀ prev, p (x.bytes prev)

/-- The SYNC and LOSS records of R292 and R294, at a tick and a cycle count. -/
def IsSync (x : TraceRec) (ticks cyc : Nat) : Prop :=
  x.tai = 10 * ticks ∧ InRing x cyc fun bs => bs.length = 24 ∧ partOf bs 0 4 = 15 * 2 ^ 28 ∧ partOf bs 4 4 = 0 ∧
    partOf bs 8 8 = 10 * ticks % 2 ^ 64 ∧ partOf bs 16 8 = cyc % 2 ^ 64
def IsLoss (x : TraceRec) (r : Ring) (ticks cyc : Nat) : Prop :=
  InRing x cyc fun bs => bs.length = 40 ∧ partOf bs 0 4 = 14 * 2 ^ 28 ∧ partOf bs 4 4 = min r.lost (2 ^ 32 - 1) ∧
    partOf bs 8 8 = r.lostFirst % 2 ^ 64 ∧ partOf bs 16 8 = r.lostLast % 2 ^ 64 ∧ partOf bs 24 8 = 10 * ticks % 2 ^ 64 ∧
    partOf bs 32 8 = cyc % 2 ^ 64

/-- The bytes that memory of a die has from one memory, all others from another. -/
def SplitMem (m mine other : List Host.Cell) (d : Nat) : Prop :=
  Memory.wf mine = true → Memory.wf other = true → ∀ k, memRead m k = if onDie d k then memRead mine k else memRead other k

/-! ### Boot, status and repair -/

/-- Only the hub changed, by `f`. -/
def OnlyHub (s t : State) (f : Hub → Hub) : Prop := t = { s with hub := f s.hub }

/-- Memory whose locked K bits are set (R174). -/
def locked (m : List Host.Cell) (leaves : List Nat) : List Host.Cell :=
  leaves.foldl (fun m a => memWrite m (dieKey a) (memRead m (dieKey a) ||| 0x40)) m

/-- A clock is on the dies of a list, whose cycle counts go on from what they are; each ring of theirs that is enabled was brought
up to this tick and took a SYNC record of it (R294, R297, R299, R312). -/
def Clocked (s t : State) (dies : List Nat) (mhz : Nat) : Prop :=
  t.mem = s.mem ∧ t.threads = s.threads ∧ t.ctxs = s.ctxs ∧ t.pend = s.pend ∧ t.now = s.now ∧ t.tick = s.tick ∧
  (∀ d ∈ dies, (t.die d).mhz = mhz ∧ t.cyc d = s.cyc d) ∧ (∀ d, d ∉ dies → t.die d = s.die d) ∧
  ∀ c k, s.cores.get? c = some k → dieOf c ∈ dies → (s.die (dieOf c)).ringsOn = true → (s.cores.map Prod.fst).Nodup →
    let r := s.ringUp (dieOf c) k.ring
    r.lossDue = none → pageUsed r.page + 24 ≤ 4096 → ∃ x, IsSync x s.ticks (s.cycTick (dieOf c) s.ticks) ∧
      (t.core c).ring = { r with data := r.data.set r.write (r.page ++ [x]) }

/-- The responder answered: these data under a response code. -/
def Answered (s t : State) (code : Nat) (data : List Nat) : Prop :=
  OnlyHub s t fun h => { h with spdm := h.spdm ++ data.map fun d => (code, d) }

/-- Whether a team of a launch stands on a die. -/
def StandsOn (s : State) (l d : Nat) : Prop := ∃ q ∈ s.teams, q.2.launch = l ∧ q.2.freed = false ∧ ∃ c ∈ q.2.cores, dieOf c = d

/-- The bits of the device status word (R303). -/
def IsDstat (w : Word) (s : State) : Prop :=
  (w.extractLsb' 12 2).toNat = (match s.hub.service with
    | .booting => 0
    | .reduced => 1
    | .full => 2
    | .recovery => 3) ∧
  (∀ d < 4, (w.getLsbD (8 + d) = true ↔ ∃ q ∈ s.cores, dieOf q.1 = d ∧ (q.2.layersLost ≠ [] ∨ q.2.remapBad = true)) ∧
    (w.getLsbD (4 + d) = true ↔ ∃ q ∈ s.cores, dieOf q.1 = d ∧ q.2.poisoned = true)) ∧
  (w.getLsbD 3 = true ↔ s.hub.throttled ≠ []) ∧ w.getLsbD 2 = s.hub.recoveryImage ∧ w.getLsbD 1 = s.hub.ovChanged ∧
  w.getLsbD 0 = false ∧ ∀ i, 14 ≤ i → w.getLsbD i = false

/-- Only one core's record changed: it is `k`. -/
def OnlyCore (s t : State) (core : Nat) (k : Core) : Prop :=
  t = { s with cores := t.cores } ∧ t.core core = k ∧ ∀ c, c ≠ core → t.core c = s.core c

/-- Whether a column's traffic is poisoned: both buses have more than 16 failed wires, or its remap tables are lost (R307,
R308). -/
def Cut (k : Core) : Prop := (16 < (k.badWires.getD 0 []).length ∧ 16 < (k.badWires.getD 1 []).length) ∨ k.remapBad = true

/-! ### Words, steps, invariants -/

/-- The bytes of words, little-endian (R2). -/
def bytesOf (ws : List Word) : List Byte := ws.flatMap fun w => (List.range 8).map fun i => w.extractLsb' (8 * i) 8

/-- The state at which an instruction of `len` words at `pc` is executed, `n` cycles after `s`: the path `r` is at issue, with
the words that it had fetched no longer waiting; threads, launches, operations and the hub are as they were (a fetch may fill
TLB entries and the instruction cache; an issue takes quarters of its core). Memory and the teams are as they were where the core's
set store has room for every set slot in use there, so that none of them is written back to its home (R67). -/
def IssuedAs (s s1 : State) (r : PathRef) (core pc len n : Nat) (rest : List Turn) : Prop :=
  s1.cur = some ⟨r, pc, len⟩ ∧ s1.now = s.now + n ∧ s1.agenda = rest ∧ s1.threads = s.threads ∧
  s1.launches = s.launches ∧ s1.pend = s.pend ∧ s1.poison = s.poison ∧ s1.hub = s.hub ∧ s1.nextId = s.nextId ∧
  (((s.slotsOn core).map Prod.fst).Nodup → (s.core core).store.Nodup → (s.slotsOn core).length ≤ 256 →
    s1.mem = s.mem ∧ s1.teams = s.teams) ∧
  ∃ f : Fetched, f.addr = pc ∧ s1.ctxs = s.ctxs.modify r.ctx fun c =>
    { c.modTop r.slot (fun a => { a with ibuf := none, last := some f }) with restored := false }

/-- The next turn issues a path that can issue: no debugger's re-execution runs, no trap is held for the path, and no checkpoint
interval of its die begins on that cycle (R281). -/
def IssueTurn (s : State) (n : Nat) (r : PathRef) (rest : List Turn) (c : Ctx) (a : Act) (l : Launch) : Prop :=
  s.agenda = .issue n r :: rest ∧ (∀ q ∈ s.dies, q.2.target = none) ∧ s.ctxs.get? r.ctx = some c ∧ s.act? r = some a ∧
  s.launchOf c = some l ∧ s.canIssue c a = true ∧ (∀ h ∈ c.held, h.uid ≠ a.uid) ∧
  (s.die (dieOf c.core)).intervalAt ≠ (s.advance n).cyc (dieOf c.core)

/-- A turn at issue counts the words of the instruction that it issued down to its core's next sample (R288), and does nothing else
around it. -/
def TurnAround (s : State) (r : PathRef) (o o' : Host.Outcome State Fault Refusal) : Prop :=
  match o with
  | .next t => ∃ u, o' = .next u ∧ u = { t with cores := u.cores } ∧
      ((t.die (dieOf (s.ctxCore r.ctx))).sampling = false → u = t) ∧
      ∀ c, u.core c = { t.core c with garnet := (u.core c).garnet }
  | o => o' = o

/-- The sixteen bytes from `pc`, in one page of memory that a launch may execute, lie at key `k` of memory, none of them
poisoned; no TLB holds another leaf for them, and the core's instruction cache no other word (R11, R173, R180, R332). -/
def CodeAt (s : State) (core launch : Nat) (l : Launch) (pc k : Nat) : Prop :=
  pc % 8 = 0 ∧ pc % 65536 + 16 ≤ 65536 ∧ pc < 2 ^ 56 ∧ s.poisonIn k 16 = false ∧
  (∀ j < 2, ∀ w, (s.core core).codeWord launch (pc + 8 * j) = some w → w = BitVec.ofNat 64 (memNat s.mem (k + 8 * j) 8)) ∧
  ∃ leaf big, walk s.mem l.root pc = .ok leaf big ∧ leafX leaf = true ∧ leafK leaf = false ∧
    leafKey leaf big pc (some (dieOf core)) = some k ∧
    ∀ x, s.cached (some core) (dieOf core) l.root pc = some x → x.leaf = leaf ∧ x.big = big

/-- What the steps keep: memory has its one canonical form, every thread's window lies within its file (R351), and a core's
table of accumulator rows names each row once (R139). -/
def Sound (mem : List Host.Cell) (threads : Map Thread) (cores : Map Core) : Prop :=
  Memory.wf mem = true ∧ (∀ p ∈ threads, p.2.base + 224 ≤ 1024) ∧ ∀ p ∈ cores, (p.2.rows.map Prod.fst).Pairwise (· < ·)

/-- The invariant, of the device and of every moment that a die's captures or its debugger keep. -/
def DeviceInv (s : State) : Prop :=
  Sound s.mem s.threads s.cores ∧ ∀ d ∈ s.dies,
    (∀ c ∈ d.2.capture, Sound c.snap.mem c.snap.threads c.snap.cores) ∧
    ∀ x, d.2.live = some x → Sound x.mem x.threads x.cores

end Sys2Proof.Claims
end

