-- ==== Sys2Proof/Certificates/Slice0/Obligations.lean ====
section
/-!
DEFINITION. The statements for the provers.
-/

open Sys2Proof Sys2Proof.Machine Sys2Proof.Claims

/-! ### Arithmetic -/

/-- R371, R370, R372, R376, R399, R382, R383, R394, R392, R387, R353, R345, R346, R335, R386, R408, R385 (with R334, R109,
R110): the arithmetic instructions and the moves, shifts, rotates, counts and bit fields write their rule's number modulo
2^w, extended, in both forms; AND, OR, XOR and NOT bit by bit. -/
def Obligations.IntegerInstructionsWriteRuleValue : Prop :=
  (∀ i o f, arithRule i = some (o, f) → IntCompletes i o fun e s tid => extended o.ty (f (argsOf o e s tid))) ∧
  (∀ i o f, shiftRule i = some (o, f) → IntCompletes i o fun e s tid => extended o.ty (f (argsOf o e s tid))) ∧
  (∀ i o f, bitRule i = some (o, f) → IntCompletes i o fun e s tid =>
     let r := argsOf o e s tid
     extended o.ty (((List.range r.w).map fun j => if f (r.x.testBit j) (r.y.testBit j) then 2 ^ j else 0).sum : Nat))

/-- R359 with R111: DIV and REM post a long-latency result, the quotient or the remainder, with its flags; the uniform
form gives its flags to every held thread. Until then the destination is empty (R51). -/
def Obligations.DivisionPostsRuleResult : Prop :=
  ∀ i o rem, (i = .div o ∧ rem = false ∨ i = .rem o ∧ rem = true) →
    (∀ s e ts, o.uform = false → Executes s e o.guard o.needs ts →
      ∃ t, exec i s = .next t ∧ Posted s t e .latency (ts.flatMap fun tid =>
        resultsOf e s o.ty tid o.d.toNat (divOf o rem e s tid).1 ++ [.flags tid (divOf o rem e s tid).2])) ∧
    ∀ s e, o.uform = true → AtIssue s e o.needs e.act.lanes →
      ∃ t, exec i s = .next t ∧ Posted s t e .latency
        (.u o.d.toNat (divOf o rem e s 0).1 :: e.act.lanes.map fun tid => .flags tid (divOf o rem e s 0).2)

/-- R364, R366, R367, R368 with R113: the floating instructions write each element of each executing thread at
retirement, and set the union of its elements' flags (the element functions are the model's `Fmt`). R369 with R128: FSPLIT
writes mantissa and exponent together, and v = mantissa × 2^exponent with 1 ≤ |mantissa| < 2 for a finite non-zero source. -/
def Obligations.FloatsCompleteAtRetirement : Prop :=
  (∀ i o f, floatRule i = some (o, f) →
     LanesComplete i o.guard o.needs (fun _ _ _ => True) fun e s _ tid => ([(o.d.toNat, (f e s tid).1)], (f e s tid).2)) ∧
  ((∀ o, LanesComplete (.fsplit o) o.guard (o.needs true) (fun _ _ _ => True) fun e s _ tid =>
     let r := fsplit (o.b.readFloat o.ty e s tid)
     ([(o.d.toNat, BitVec.ofNat 32 r.1), (o.d.toNat + 1, BitVec.ofInt 32 r.2.1)], r.2.2)) ∧
   ∀ x a m e, Fmt.fp32.value x = .fin a m e → m ≠ 0 → ∃ m' e', Fmt.fp32.value (fsplit x).1 = .fin a m' e' ∧
     (m : ℚ) * 2 ^ e = m' * 2 ^ e' * 2 ^ (fsplit x).2.1 ∧ 1 ≤ (m' : ℚ) * 2 ^ e' ∧ (m' : ℚ) * 2 ^ e' < 2)

/-- R116: every NaN that the floating instructions of two and three sources, FLDX and FRND write is the canonical NaN of
the format; FMIN and FMAX return the other operand where exactly one is a NaN. -/
def Obligations.NaNsAreCanonical : Prop :=
  ∀ f : Fmt, f ∈ [Fmt.fp32, .fp16, .bf16] → ∀ (r : Rnd) (x y z : Nat) (n : Int),
    (∀ res ∈ [f.add r x y, f.sub r x y, f.mul r x y, f.fma r x y z, f.ldexp r x n, f.roundIntegral r x],
      (f.value res.bits).isNan = true → res.bits = f.nan) ∧
    (∀ b, (f.value x).isNan = true → (f.value y).isNan = true → (f.minMax b x y).bits = f.nan) ∧
    (∀ b, (f.value x).isNan = true → (f.value y).isNan = false → (f.minMax b x y).bits = y) ∧
    (∀ b, (f.value x).isNan = false → (f.value y).isNan = true → (f.minMax b x y).bits = x) ∧
    f.nan = (if f = .fp32 then 0x7FC00000 else if f = .fp16 then 0x7E00 else 0x7FC0)

/-- R114, R115 with R364: rounding to nearest even, FADD and FMUL of two finite FP32 numbers write, unless the result overflows
(OF), a finite number that no other FP32 number beats in distance to the exact sum or product; without NX it is that
very number. -/
def Obligations.NearestRoundingIsNearest : Prop :=
  ∀ x y a m e b n g, Fmt.fp32.value x = .fin a m e → Fmt.fp32.value y = .fin b n g →
    ∀ (r : FRes) (v : ℚ), (r = Fmt.fp32.add .rne x y ∧ v = dyadic a m e + dyadic b n g ∨
      r = Fmt.fp32.mul .rne x y ∧ v = dyadic a m e * dyadic b n g) → r.flags &&& fOF = 0 →
      ∃ c k h, Fmt.fp32.value r.bits = .fin c k h ∧ (r.flags &&& fNX = 0 → dyadic c k h = v) ∧
        ∀ p c' k' h', Fmt.fp32.value p = .fin c' k' h' → |dyadic c k h - v| ≤ |dyadic c' k' h' - v|

/-- R362, R363: the transcendental instructions post a long-latency result for every executing thread; its register, and
both of EXP2S, are empty until it is written. Where the manual gives a bound and no bits, the bits are the free choice
of log 18. -/
def Obligations.TranscendentalsPostResult : Prop :=
  (∀ i o f, slowRule i = some (o, f) → ∀ s e ts, Executes s e o.guard o.needs ts →
    ∃ t, exec i s = .next t ∧ Posted s t e .latency (ts.flatMap fun tid =>
      let r := lane1 o.ty f (o.b.readFloat o.ty e s tid)
      [.v tid ((e.thread s tid).base + o.d.toNat) r.1, .flags tid r.2])) ∧
  ∀ o s e ts, Executes s e o.guard (o.needs true) ts →
    ∃ t, exec (.exp2s o) s = .next t ∧ Posted s t e .latency (ts.flatMap fun tid =>
      let r := exp2sF (o.b.readFloat o.ty e s tid)
      [.v tid ((e.thread s tid).base + o.d.toNat) (BitVec.ofNat 32 r.1),
       .v tid ((e.thread s tid).base + (o.d.toNat + 1)) (BitVec.ofInt 32 r.2.1), .flags tid r.2.2])

/-! ### Conversions and lanes -/

/-- R358, R389, R390, R231: CVT, QPACK, QUNP and GNORM write their destinations at retirement. CVT, QPACK and QUNP need a
format slot of their format (R122). An integer conversion wraps and sets no flag (R358). GNORM's sum is in ascending order
(R231). (The conversions of single values are the model's.) -/
def Obligations.ConversionsComplete : Prop :=
  (∀ o : CvtOp, LanesComplete (.cvt o) o.guard
    { u := o.b.needU o.rb, v := o.b.needV o.sty.is64 o.rb, dv := destV o.d.toNat o.dty.is64 }
    (fun e _ _ => (o.dty.slotted || o.sty.slotted) = true →
      slotElem (e.rcd.slot o.slot.toNat) = elemOf (if o.dty = .e4m3 ∨ o.dty = .e5m2 then o.dty else o.sty))
    fun e s _ tid =>
      let x := cvtRead o e s tid
      if o.sty.isInt ∧ o.dty.isInt then
        (lanesOf o.dty o.d.toNat (extended o.dty (asInt o.sty.width o.sty.signed (x.toNat % 2 ^ o.sty.width))), 0)
      else
        let r := convert o.dty o.sty o.rnd (e.rcd.slot o.slot.toNat) x
        (lanesOf o.dty o.d.toNat (extended o.dty r.1.toNat), r.2)) ∧
  (∀ o : PackOp, LanesComplete (.qpack o) o.guard
    { v := ((List.range o.span).map (o.s.toNat + ·)).map (·, o.rb), dv := (List.range 5).map (o.d.toNat + ·) }
    (fun e _ _ => slotElem (e.rcd.slot o.slot.toNat) = 5)
    fun e s _ tid =>
      let vals := (List.range o.span).flatMap fun j =>
        (elements o.ty ((e.thread s tid).reg (o.s.toNat + j)).val.toNat).map o.ty.fmt.value
      let r := nb4Pack vals (e.rcd.slot o.slot.toNat)
      ((List.range 5).map fun j => (o.d.toNat + j, laneOfBytes r.1 (4 * j)), r.2)) ∧
  (∀ o : PackOp, LanesComplete (.qunp o) o.guard
    { v := ((List.range 5).map (o.s.toNat + ·)).map (·, o.rb), dv := (List.range o.span).map (o.d.toNat + ·) }
    (fun e _ _ => slotElem (e.rcd.slot o.slot.toNat) = 5)
    fun e s _ tid =>
      let lane (j : Nat) : Nat := ((e.thread s tid).reg (o.s.toNat + j)).val.toNat
      let rs := (List.range 32).map fun j =>
        o.ty.fmt.ofVal (slotRnd (e.rcd.slot o.slot.toNat)) (nb4Value (lane 4 % 256) (lane (j / 8) / 16 ^ (j % 8) % 16))
      let per := if o.ty.packed then 2 else 1
      ((List.range o.span).map fun j =>
        (o.d.toNat + j, BitVec.ofNat 32 (fromElements (((rs.drop (per * j)).take per).map (·.bits)))),
        rs.foldl (fun f r => f ||| r.flags) 0)) ∧
  ∀ o : GnormOp, LanesComplete (.gnorm o) o.guard
    { v := ((List.range o.k.toNat).map (o.d.toNat + ·)).map (·, false), dv := (List.range o.k.toNat).map (o.d.toNat + ·) }
    (fun _ _ _ => o.k.toNat ≠ 0)
    fun e s _ tid =>
      let w := (List.range o.k.toNat).map fun j => ((e.thread s tid).reg (o.d.toNat + j)).val.toNat
      let sums := (w.tail.scanl (fun a x => (Fmt.fp32.add .rne a.bits x)) ⟨w.headD 0, 0⟩)
      let sum := (sums.getLastD ⟨0, 0⟩).bits
      let zero : Prop := sum = 0 ∨ sum = 0x80000000
      let out := w.map fun x => if zero then Fmt.fp32.recip .rne (.fin false o.k.toNat 0) else Fmt.fp32.div .rne x sum
      ((List.range o.k.toNat).map fun j => (o.d.toNat + j, BitVec.ofNat 32 (out.getD j ⟨0, 0⟩).bits),
        (sums ++ out).foldl (fun f r => f ||| r.flags) (if zero then 0x40 else 0))

/-- R400, R398, R342 (with R397): SHFL, SCAT and BCAST move values between the threads of a path by lane position. -/
def Obligations.CrossLaneMovesComplete : Prop :=
  (∀ o : LaneOp, LanesComplete (.shfl o) o.guard (indexNeeds o)
    (fun e s ts => ∀ tid ∈ ts,
      SourceFull e s o.ty o.a (shflSource o.mode e.act.lanes tid (o.b.readIndex e s tid).toNat))
    fun e s _ tid => (lanesOf o.ty o.d.toNat
      (o.a.read o.ty e s (shflSource o.mode e.act.lanes tid (o.b.readIndex e s tid).toNat)), 0)) ∧
  (∀ o : LaneOp, LanesComplete (.scat o) o.guard
    { indexNeeds o with v := o.b.needV false o.rb ++ o.a.need o.ty.is64 o.ra } (fun _ _ _ => True)
    fun e s ts tid =>
      match (ts.filter fun u => e.act.lanes[(o.b.readIndex e s u).toNat]? = some tid).getLast? with
      | some u => (lanesOf o.ty o.d.toNat (o.a.read o.ty e s u), 0)
      | none => ([], 0)) ∧
  ∀ o : LaneOp, LanesComplete (.bcast o) o.guard { u := o.b.needU o.rb, dv := destV o.d.toNat o.ty.is64 }
    (fun e s _ => ∀ u, e.act.lanes[(o.b.readIndex e s 0).toNat]? = some u → SourceFull e s o.ty o.a u)
    fun e s _ _ =>
      match e.act.lanes[(o.b.readIndex e s 0).toNat]? with
      | some u => (typedLanes o.ty o.d.toNat (o.a.read o.ty e s u), 0)
      | none => (typedLanes o.ty o.d.toNat 0, 0)

/-- R379: LRED folds its operation over the executing threads in lane order and writes the result to each; LSCAN
writes each its prefix, without its own value under `.excl`; every executing thread receives the flags of every step. -/
def Obligations.ReductionsFoldInLaneOrder : Prop :=
  (∀ o : RedLaneOp, LanesComplete (.lred o) o.guard { v := o.b.need o.ty.is64 o.rb, dv := destV o.d.toNat o.ty.is64 }
    (fun _ _ ts => ts ≠ [])
    fun e s ts _ =>
      let xs := redValues o e s ts
      let r := xs.tail.foldl (redNext o.op o.ty) (xs.headD 0, 0)
      (typedLanes o.ty o.d.toNat (BitVec.ofNat 64 r.1), r.2)) ∧
  ∀ o : RedLaneOp, LanesComplete (.lscan o) o.guard { v := o.b.need o.ty.is64 o.rb, dv := destV o.d.toNat o.ty.is64 }
    (fun _ _ _ => True)
    fun e s ts tid =>
      let xs := redValues o e s ts
      let run (n : Nat) := (xs.take n).foldl (redNext o.op o.ty) (redStart o.op o.ty, 0)
      let n := placeOf ts tid
      (typedLanes o.ty o.d.toNat (BitVec.ofNat 64 (run (if o.excl then n else n + 1)).1), (run xs.length).2)

/-- R325, R326 (with R324, R327): a P word runs both its slots for every held thread; both read the registers as they were
before the word. -/
def Obligations.PWordsRunBothSlots : Prop :=
  ∀ i a b, slotsOf i = some (a, b) → (a.op ≠ .nop → b.op ≠ .nop → a.args.d ≠ b.args.d) →
    LanesComplete i none { v := (slotUse a).v ++ (slotUse b).v, dv := (slotUse a).dv ++ (slotUse b).dv } (fun _ _ _ => True)
      fun e s _ tid => ((slotOf a e s tid).1 ++ (slotOf b e s tid).1, (slotOf a e s tid).2 ||| (slotOf b e s tid).2)

/-! ### Sets -/

/-- R75, R393: the set instructions write the set that their table gives, in a register that reads it back; no other set
register of the path changes. A handle needs a free slot (R66); SMOV shares its source's. -/
def Obligations.SetAlgebraWritesItsSet : Prop :=
  ∀ i o srcs f, setRule i = some (o, srcs, f) → ∀ s e, AtIssue s e { k := srcs, dk := [o.kd.toNat] } e.act.lanes →
    (i ≠ .smov o → (s.canon e.ctx.team (e.team.side e.ctx.core) (f e s)).isSome = true) →
      ∃ t, exec i s = .next t ∧ SetWritten s t e o.kd.toNat (f e s)

/-- R73, R74: TEST and TESTB write the set of the executing threads for which their condition holds. R76: SCNT writes
the number of members of a set. -/
def Obligations.TestsAndCountsWriteTheirResult : Prop :=
  (∀ i (o : TestOp) (cond : TestOp → Env → State → Nat → Prop),
     (i = .test o ∧ cond = TestHolds ∨ i = .testb o ∧ cond = TestbHolds) → ∀ s e ts, Executes s e o.guard
       { u := o.b.needU o.rb, v := o.a.need o.ty.is64 o.ra ++ o.b.needV o.ty.is64 o.rb, dk := [o.kd.toNat] } ts →
       ∀ b : Tids, (∀ tid, b.getLsbD tid = true ↔ tid < 2048 ∧ tid ∈ ts ∧ cond o e s tid) →
         (s.canon e.ctx.team (e.team.side e.ctx.core) b).isSome = true →
           ∃ t, exec i s = .next t ∧ SetWritten s t e o.kd.toNat b) ∧
  (∀ (o : ScntOp) s e, AtIssue s e { k := [o.ka.toNat], du := [o.sd.toNat] } e.act.lanes →
     let n := ((List.range 2048).filter fun j => (setIn s e o.ka.toNat).getLsbD j).length
     Sets (.scnt o) s e fun a => { a with s := a.s.set o.sd.toNat ⟨BitVec.ofNat 64 n, true⟩ })

/-! ### Control -/

/-- R384, R347, R349, R348, R320: NOP, BRA, BRS and BRC move the path's position, and change nothing else; BRC compares all
64 bits as signed. R351, R350, R391: CALL pushes a call record and slides the window of every held thread, within the limits;
RET of a path outside a CALLV bin pops them and goes on at the continuation, where every held thread has the same. A path whose
window slides past its `.pack` footprint goes on under `.map` (R102; when it is past is a reading, DEDUCED, log 68). -/
def Obligations.ControlMovesPathsAndWindows : Prop :=
  ((∀ s e, AtIssue s e {} e.act.lanes → GoesOn .nop s e (e.addr + 8 * e.len)) ∧
   (∀ x s e, AtIssue s e {} e.act.lanes → GoesOn (.bra x) s e (x.addr e.addr)) ∧
   (∀ o : UniSrcOp, ∀ s e, AtIssue s e { u := o.a.need o.ra } e.act.lanes → (o.a.read e).toNat % 8 = 0 →
     (o.a.read e).toNat < 2 ^ 56 → GoesOn (.brs o) s e (o.a.read e).toNat) ∧
   ∀ (o : BrcOp) (y : Word) (need : List (Nat × Bool)) s e,
     (∀ u, o.b = .uni u → y = u.read e ∧ need = u.need false) → (∀ n, o.b = .imm n → y = n.signExtend 64 ∧ need = []) →
     AtIssue s e { u := o.a.need o.ra ++ need } e.act.lanes →
       (Holds o.cond (o.a.read e).toInt y.toInt → GoesOn (.brc o) s e (o.t.addr e.addr)) ∧
       (¬Holds o.cond (o.a.read e).toInt y.toInt → GoesOn (.brc o) s e (e.addr + 8 * e.len))) ∧
  ((∀ (o : CallOp) s e, AtIssue s e {} e.act.lanes →
     (∀ tid ∈ e.act.lanes, (e.thread s tid).base + o.n.toNat + 224 ≤ 1024 ∧ (e.thread s tid).calls.length < 64) →
     (s.poolFree e.ctx.team e.ctx.core e.team e.act.lanes o.n.toNat 1).1 = true →
     ∃ t f, exec (.call o) s = .next t ∧ Retired s t e (o.t.addr e.addr) f ∧ SameElse s { t with fresh := s.fresh } ∧
       (∀ a, f a = { a with foot := (f a).foot, footAt := (f a).footAt }) ∧ (e.act.foot = none → f = id) ∧
       (∀ n tid th, e.act.foot = some n → e.act.lanes.count tid = 1 → s.thread e.ctx.team tid = some th →
         e.act.footAt.getD tid 0 + n ≤ th.base + o.n.toNat → (f e.act).foot = none) ∧
       ∀ tid th, e.act.lanes.count tid = 1 → s.thread e.ctx.team tid = some th →
         t.thread e.ctx.team tid = some (called th (e.addr + 8 * e.len) o.n.toNat)) ∧
   ∀ s e cont, AtIssue s e {} e.act.lanes → e.act.kind ≠ .bin false → e.act.lanes ≠ [] →
     (∀ tid ∈ e.act.lanes, (e.thread s tid).floor < (e.thread s tid).calls.length ∧
       ((e.thread s tid).calls.head?.map (·.cont)) = some cont) →
     ∃ t, exec .ret s = .next t ∧ t.mem = s.mem ∧ (∃ a, t.act? e.ref = some a ∧ a.pc = cont ∧ a.lanes = e.act.lanes) ∧
       ∀ tid th, e.act.lanes.count tid = 1 → s.thread e.ctx.team tid = some th →
         t.thread e.ctx.team tid = some (returned th))

/-- R360, R35: EXIT makes its executing threads done: they leave the path's lane map and keep no register and no
reservation; memory is as it was. -/
def Obligations.ExitEndsItsThreads : Prop :=
  ∀ g s e ts, Executes s e g {} ts → ∃ t, exec (.exit g) s = .next t ∧ t.mem = s.mem ∧
    (∀ tid ∈ ts, ∀ th, s.thread e.ctx.team tid = some th → ∃ th', t.thread e.ctx.team tid = some th' ∧
      th'.done = true ∧ th'.v = [] ∧ th'.h = [] ∧ th'.resv = none) ∧
    ∀ p ∈ t.ctxs, p.2.team = e.ctx.team → ∀ a ∈ p.2.p0 ++ p.2.p1, ∀ tid ∈ ts, tid ∉ a.lanes

/-- R340: an arrival at a barrier waits and is counted; the arrival that meets the target set by the phase's first one
resumes every path of the team that waits there, and the count starts again. BAR is a release (R341). R189: FENCE
completes where no load or atomic of the path waits for a peer's reply or in the operand log and, for a release, its context's
stores are all visible and its atomics performed; else it waits. That FENCE awaits the path's own peer operations is the
model's reading (DEDUCED, log 40). -/
def Obligations.BarriersAndFencesWait : Prop :=
  (∀ (o : BarOp) s e, AtIssue s e {} e.act.lanes → Released s e →
     let b := e.team.bars.getD o.id.toNat ⟨0, 0⟩
     let target := if b.count = 0 then o.n1.toNat + 1 else b.target
     ∃ t tm, exec (.bar o) s = .next t ∧ t.teams.get? e.ctx.team = some tm ∧ t.mem = s.mem ∧ t.threads = s.threads ∧
       (b.count + 1 = target → tm.bars.get? o.id.toNat = some ⟨0, target⟩ ∧
         ∀ r a, s.act? r = some a → (∃ c, s.ctxs.get? r.ctx = some c ∧ c.team = e.ctx.team) →
           (a.status = .barrier o.id.toNat ∨ r = e.ref) →
           ∃ a', t.act? r = some a' ∧ a'.status = .ready) ∧
       (b.count + 1 ≠ target → tm.bars.get? o.id.toNat = some ⟨b.count + 1, target⟩ ∧
         ∃ a, t.act? e.ref = some a ∧ a.status = .barrier o.id.toNat ∧ a.pc = e.addr + 8 * e.len)) ∧
  (∀ (o : FenceOp) s e, AtIssue s e {} e.act.lanes →
     let away : Prop := (∃ p ∈ s.pend, p.2.ctx = e.ref.ctx ∧ p.2.uid = e.act.uid ∧ p.2.peer = true ∧ p.2.work ≠ .store ∧
       (∀ w, p.2.work ≠ .code w) ∧ ∀ u v x y z, p.2.work ≠ .cpa u v x y z) ∨
       ∃ l ∈ e.ctx.log, l.acc.uid = e.act.uid ∧ l.acc.kind.ordered = true ∧ l.acc.kind.isStore = false
     (¬away → (o.kind = .acq ∨ Released s e) → GoesOn (.fence o) s e (e.addr + 8 * e.len)) ∧
     (away ∨ o.kind ≠ .acq ∧ ¬Released s e → ∃ t, exec (.fence o) s = .next t ∧ t.mem = s.mem ∧
       ∃ a, t.act? e.ref = some a ∧ a.pc = e.act.pc ∧ (a.status = .again .drain ∨ a.status = .again .log)))

/-! ### Traps -/

/-- R273, R275, R406, R285, R331: TRAP, a word that is none, and BRK on a die that is not armed take a trap, uniform over
the held threads; on an armed die BRK holds the die before the BRK. R276: a trap in a launch without a handler, or inside a
handler, or where the slide of 32 would break R351 (R275), kills the launch, with STATUS 5 or 4: every path of its teams is stopped, and the management kernel is told the code
and TSTAT. -/
def Obligations.TrapsStartHandlersOrKill : Prop :=
  ((∀ i code s e, (i = .trap ∧ code = 0x0D ∨ i = .illegalWord ∧ code = 0x01 ∨
       i = .brk ∧ code = 0x0E ∧ (s.die (dieOf e.ctx.core)).armed = false) → AtIssue s e {} e.act.lanes →
     HandlerFits s e e.act.lanes → e.addr < 2 ^ 56 →
       ∃ t, exec i s = .next t ∧ TrapTaken s t e code e.act.lanes true) ∧
   ∀ s e, AtIssue s e {} e.act.lanes → (s.die (dieOf e.ctx.core)).armed = true →
     ∃ t, exec .brk s = .next t ∧ (t.die (dieOf e.ctx.core)).held = true ∧ t.mem = s.mem ∧ t.threads = s.threads ∧
       ∃ a, t.act? e.ref = some a ∧ a.pc = e.act.pc) ∧
  (∀ (s : State) (e : Env) (code : Nat) (tids : List Nat) (uni : Bool), s.env? = some e → e.launch.killed = none → MustKill s e tids →
     let t := e.trap s code tids uni
     let status := if e.rcd.trapent = 0 then 5 else 4
     (∃ l, t.launches.get? e.team.launch = some l ∧ l.status = status ∧ l.killed = some status) ∧
     (∃ r, t.hub.reports = s.hub.reports ++ [r] ∧ r.launch = e.team.launch ∧ r.cause = status ∧ r.code = code) ∧
     (∀ a, t.act? e.ref = some a → a.status = .stopped) ∧ t.mem = s.mem ∧ t.threads = s.threads)

/-- R277, R406: RFT of a handler that SOFT started, under ACT resume, ends it: NEST is 0, its threads' windows are 32 lower, and the
trapping path goes on after its instruction. -/
def Obligations.ReturnFromSoftTrapResumes : Prop :=
  ∀ s e (ti : TrapInfo) (par : Act) (f : Fetched) rest, AtIssue s e {} e.act.lanes → e.act.kind = .handler ti → ti.code = 0x0D → ti.entry = none →
    ti.op = none → ti.len = 1 → ti.uni = true → par.last = some f → f.instr.1 = .trap → e.ctx.tstat.extractLsb' 9 2 = 0 → e.ctx.stack e.ref.slot = e.act :: par :: rest →
    par.lanes = e.act.lanes → e.act.lanes ≠ [] →
    ∃ t c a, exec .rft s = .next t ∧ t.ctxs.get? e.ref.ctx = some c ∧ (c.stack e.ref.slot).head? = some a ∧
      a.pc = ti.pc + 8 ∧ a.lanes = par.lanes ∧ a.status = .ready ∧ a.s = par.s ∧ a.k = par.k ∧
      c.tstat.getLsbD 7 = false ∧ t.mem = s.mem ∧
      ∀ tid th, e.act.lanes.count tid = 1 → s.thread e.ctx.team tid = some th →
        t.thread e.ctx.team tid = some { th with base := th.base - 32, floor := 0 }

/-! ### Memory -/

/-- R169, R147 (with R151): a global LD, LR, ST, SC, ATOM, SLD or SST whose pages are not all in the TLBs waits, with every
thread's address and data as read at issue, for their translation: a walk for each missing page is posted, and nothing else
changes but the queues that carry the walks' reads. -/
def Obligations.GlobalAccessesAwaitTranslation : Prop :=
  ∀ i f s e ts, accessRule i = some f → Issues i s e ts → Admitted s e (f e s ts) → (f e s ts).shared = false →
    ¬Translated s e (f e s ts) →
    ∃ t, exec i s = .next t ∧ t.threads = s.threads ∧ t.mem = s.mem ∧ t.teams = s.teams ∧ t.launches = s.launches ∧
      t.poison = s.poison ∧ t.hub = { s.hub with ovChanged := t.hub.ovChanged } ∧
      t.ctxs = s.ctxs.modify e.ref.ctx (fun c => c.modTop e.ref.slot fun a => { a with status := .translating (f e s ts) }) ∧
      (∀ id < s.nextId, ∀ o, s.pend.get? id = some o → (∀ p, o.work ≠ .walk p) → t.pend.get? id = some o) ∧
      ∀ p ∈ e.missing s (f e s ts), ∃ id o, s.nextId ≤ id ∧ t.pend.get? id = some o ∧ o.work = .walk p ∧ o.uid = e.act.uid

/-- R374, R375, R186: LD and LR that pass their checks read each thread's bytes as the thread sees them. A load of scratchpad
alone is written at retirement; any other is posted, to be written by its replies. LR reserves each thread's granule (R196). -/
def Obligations.LoadsBringTheirBytes : Prop :=
  ∀ i f s e ts l s1, (∃ o, i = .ld o) ∨ (∃ o, i = .lr o) → accessRule i = some f → Issues i s e ts → Windows s e ts →
    let a := f e s ts
    Passes s e a l s1 → l ≠ [] →
    ∀ ty, a.kind = .ld ty ∨ a.kind = .lr ty →
    ∃ t, exec i s = .next t ∧ WentOn t e ∧ t.mem = s1.mem ∧
      let val (g : Got) : Word := extended ty (loaded s1 e a g)
      (a.kind = .ld ty → a.shared = true → (∀ g ∈ l, ∀ p ∈ g.2.segs, p.1 < 2 ^ 50) →
        ∀ g ∈ l, (l.map (·.1.tid)).count g.1.tid = 1 → ∀ th, s1.thread e.ctx.team g.1.tid = some th → th.done = false →
          ∃ th', t.thread e.ctx.team g.1.tid = some th' ∧ ∀ w ∈ lanesOf ty g.1.dst (val g), th'.lreg w.1 = ⟨w.2, true⟩) ∧
      (a.kind = .lr ty ∨ a.shared = false ∨ (∃ g ∈ l, ∃ p ∈ g.2.segs, 2 ^ 50 ≤ p.1) → ∃ o, t.pend.get? (s1.nextId + 1) = some o ∧ o.work = .load ∧ o.ctx = e.ref.ctx ∧
        o.uid = e.act.uid ∧ o.res = l.flatMap fun g => (lanesOf ty g.1.dst (val g)).map fun w => .v g.1.tid w.1 w.2) ∧
      (a.kind = .lr ty → ∀ g ∈ l, (l.map (·.1.tid)).count g.1.tid = 1 → ∀ th, s1.thread e.ctx.team g.1.tid = some th →
        ∃ th', t.thread e.ctx.team g.1.tid = some th' ∧
          th'.resv = (g.2.segs.head?).map fun p => ⟨p.1 / 64, s1.cycOf e.ctx.core⟩)

/-- R405, R186, R78: a weak ST or SST that passes its checks puts each thread's bytes into its context's store queue, by
ascending tid; memory changes when they leave it. A strong store, or one to an SC page or over poison, writes memory
now (R187, R191, R309). That a store is visible to every agent when it leaves its queue is the model's choice (DESIGN
CHOICE, log 9). -/
def Obligations.StoresEnterTheQueueInOrder : Prop :=
  ∀ i f s e ts l s1, (∃ o, i = .st o) ∨ (∃ o, i = .sst o) → accessRule i = some f → Issues i s e ts →
    let a := f e s ts
    Passes s e a l s1 →
    let bytes (g : Got) : List Byte := match a.kind with
      | .st ty => natLE g.1.data.toNat (ty.width / 8)
      | .sst b => (imgBytes e.team.span b).take (imgLen e.team.span)
      | _ => []
    ∃ t, exec i s = .next t ∧ WentOn t e ∧
      (s1.storesNow a l = false → t.mem = s1.mem ∧ ∃ c c', s1.ctxs.get? e.ref.ctx = some c ∧ t.ctxs.get? e.ref.ctx = some c' ∧
        c'.queue = c.queue ++ (byTid l).flatMap fun g => storePieces g.1 false s1.nextId (s1.nextId + 1) g.2.segs (bytes g)) ∧
      (s1.storesNow a l = true → t.mem = (byTid l).foldl (fun m g => writeOver m g.2.segs (bytes g)) s1.mem)

/-- R337, R336: ATOM that passes its checks applies its operation at each address, by ascending tid, each reading what the one
before left, and posts the old values. -/
def Obligations.AtomicsApplyInTidOrder : Prop :=
  ∀ (o : AtomicOp) f s e ts l s1, accessRule (.atom o) = some f → Issues (.atom o) s e ts →
    Passes s e (f e s ts) l s1 → l ≠ [] →
    ∃ t r, exec (.atom o) s = .next t ∧ WentOn t e ∧ t.pend.get? (s1.nextId + 1) = some r ∧ r.work = .atomic ∧
      let old (m : List Host.Cell) (g : Got) : Nat := leNat (readOver m g.2.segs)
      let put (m : List Host.Cell) (g : Got) : List Host.Cell := writeOver m g.2.segs
        (natLE (atomNew o.op o.ty (BitVec.ofNat 64 (old m g)) g.1.data g.1.data2).toNat o.ty.size)
      t.mem = (byTid l).foldl put s1.mem ∧
      r.res = (if o.ret then
        ((byTid l).foldl (fun (p : List Res × List Host.Cell) g =>
          (p.1 ++ resAt (decide (o.ty.size = 8)) g.1.tid g.1.dst (BitVec.ofNat 64 (old p.2 g)), put p.2 g)) ([], s1.mem)).1
        else [])

/-- R396, R197: SC of one thread that passes its checks stores and gives 0 where its reservation holds the granule and is less
than 4096 cycles old, else it gives 1 and stores nothing; for any number of threads each outcome is 0 or 1, and no executing
thread keeps a reservation. -/
def Obligations.StoreConditionalDecides : Prop :=
  ∀ (o : ScOp) f s e ts l s1, accessRule (.sc o) = some f → Issues (.sc o) s e ts → Windows s e ts →
    Passes s e (f e s ts) l s1 → l ≠ [] →
    ∃ t r, exec (.sc o) s = .next t ∧ WentOn t e ∧ t.pend.get? (s1.nextId + 1) = some r ∧ r.work = .sc ∧
      (∀ x ∈ r.res, ∃ tid n, x = .v tid n 0 ∨ x = .v tid n 1) ∧
      (∀ g ∈ l, ∀ th, t.thread e.ctx.team g.1.tid = some th → th.resv = none) ∧
      ∀ g k n, l = [g] → g.2.segs = [(k, n)] →
        let ok : Prop := ∃ th v, s1.thread e.ctx.team g.1.tid = some th ∧ th.resv = some v ∧ v.granule = k / 64 ∧
          s1.cycOf th.core - v.since < 4096
        (ok → t.mem = memWrites s1.mem k ((natLE g.1.data.toNat (o.ty.width / 8))) ∧ r.res = [.v g.1.tid g.1.dst 0]) ∧
        (¬ok → t.mem = s1.mem ∧ r.res = [.v g.1.tid g.1.dst 1])

/-- R78, R79, R69: SLD that passes its checks and finds a valid image (and a free slot where it needs one) posts the set that
the image holds. R82, R83, R81: SQPUSH and SQPOP on a queue whose descriptor and entry can be used: a full queue takes nothing, an empty
one gives the empty set, with status 1; else the image is written, or read and checked, and TAIL or HEAD advances, with
status 0, in one step. -/
def Obligations.SetMemoryWordsActOnTheirImage : Prop :=
  (∀ (o : SetMem) (push : Bool) s e k s1,
     let i : Instr := if push then .sqpush o else .sqpop o
     let a := queueAccess o push e s
     AtIssue s e (queueNeeds o push) e.act.lanes → Admitted s e a → Translated s e a → s.requests e.ctx.core + 4 ≤ 1024 →
     Usable s e a (addressOf e s o.base none (o.off.bytes 16) 0) 32 false k s1 →
     let f (at' n : Nat) : Nat := leNat (memReads s.mem (k + at') n)
     let head := f 0 4
     let tail := f 4 4
     let cap := f 8 4
     let ring := f 16 8
     let used := (tail + 2 ^ 32 - head) % 2 ^ 32
     let len := imgLen e.team.span
     1 ≤ cap → cap ≤ 4096 → f 12 4 = 0 → ring % 16 = 0 → f 24 8 = 0 → used ≤ cap →
     (push = true → used = cap → QueueDone i s e s.mem [.u o.sd.toNat 1]) ∧
     (push = false → head = tail → QueueDone i s e s.mem [.k o.k.toNat .empty, .u o.sd.toNat 1]) ∧
     ∀ k2 s2, Usable s1 e { a with kind := if push then .sst 0 else .sld 0 }
         ((ring + (if push then tail else head) % cap * len) % 2 ^ 64) len push k2 s2 →
       (push = true → used ≠ cap → QueueDone i s e
         (memWrites (memWrites s.mem k2 ((imgBytes e.team.span (setIn s e o.k.toNat)).take len)) (k + 4) (natLE (tail + 1) 4))
         [.u o.sd.toNat 0]) ∧
       (push = false → head ≠ tail → ∀ b x, imgSet e.team.span (memReads s.mem k2 len) = some b →
         s2.canon e.ctx.team (e.team.side e.ctx.core) b = some x →
         QueueDone i s e (memWrites s.mem k (natLE (head + 1) 4)) [.k o.k.toNat x.1, .u o.sd.toNat 0] ∧
         ∃ tm, x.2.teams.get? e.ctx.team = some tm ∧ x.1.members tm (tm.side e.ctx.core) = b)) ∧
  (∀ (o : SetMem) f s e ts g s1 b x, accessRule (.sld o) = some f → Issues (.sld o) s e ts →
     Passes s e (f e s ts) [g] s1 →
     let own := (s1.ownStores e.ref.ctx e.ctx.team noTid).filter (·.op < s1.nextId + 1)
     imgSet e.team.span (s1.seenSegs own g.2.segs) = some b →
     s1.name.2.canon e.ctx.team (e.team.side e.ctx.core) b = some x →
     ∃ t r tm, exec (.sld o) s = .next t ∧ WentOn t e ∧ t.pend.get? (s1.nextId + 1) = some r ∧ r.work = .sld o.k.toNat ∧
       r.res = [.k o.k.toNat x.1] ∧ t.teams.get? e.ctx.team = some tm ∧ x.1.members tm (tm.side e.ctx.core) = b ∧
       ∃ a, t.act? e.ref = some a ∧ (a.kr o.k.toNat).full = false)

/-- R155, R152: TAGL reads the way that holds a line, or −1; TAGS and TAGI change the tags of their core alone: TAGS puts
each thread's line into its way, by ascending tid, and out of the set's other ways; TAGI takes it out. R157, R388,
R156: PRES, once its path's reads and its context's stores of the lines are done, sets or clears the presence of
exactly its lines, and changes no data. Which bits of a tag instruction's address raise PROT is the model's reading
(DEDUCED, log 30). -/
def Obligations.TagsAndPresenceActOnTheirLines : Prop :=
  ((∀ o : TaglOp, LanesComplete (.tagl o) o.guard
     { u := memNeedsU o.base o.ra, v := memNeedsV o.idx o.rb, dv := [o.d.toNat] } (fun e s ts => TagsOk o.toTagOp e s ts)
     fun e s _ tid =>
       let a := addressOf e s o.base o.idx (o.off.bytes 16) tid
       ([(o.d.toNat, match (List.range 8).find? fun w => tagAt s e (tagSetOf e a) w = some (a / 128) with
         | some w => BitVec.ofNat 32 w
         | none => BitVec.ofInt 32 (-1))], 0)) ∧
   (∀ (o : TagsOp) s e ts,
     Executes s e o.guard { u := memNeedsU o.base o.ra, v := memNeedsV o.idx o.rb ++ o.way.need false false } ts →
     TagsOk o.toTagOp e s ts →
     let way (tid : Nat) : Nat := (o.way.read .uint32 e s tid).toNat % 2 ^ 32
     (∀ tid ∈ ts, way tid ≤ 7) →
     ∃ t, exec (.tags o) s = .next t ∧ OnlyTags s t e ∧
       ∀ set < e.team.spadBytes / 1024, ∀ w < 8,
         let line (tid : Nat) : Nat := addressOf e s o.base o.idx (o.off.bytes 16) tid / 128
         let mine (tid : Nat) : Prop := line tid % (e.team.spadBytes / 1024) = set
         (∀ tid ∈ ts, mine tid → way tid = w → (∀ u ∈ ts, tid < u → mine u → way u ≠ w ∧ line u ≠ line tid) →
           tagAt t e set w = some (line tid)) ∧
         ((∀ tid ∈ ts, mine tid → way tid ≠ w ∧ tagAt s e set w ≠ some (line tid)) → tagAt t e set w = tagAt s e set w) ∧
         ((∀ x y n, x < 8 → y < 8 → tagAt s e set x = some n → tagAt s e set y = some n → x = y) →
           ∀ y n, y < 8 → tagAt t e set w = some n → tagAt t e set y = some n → w = y)) ∧
   ∀ (o : TagOp) s e ts, Executes s e o.guard { u := memNeedsU o.base o.ra, v := memNeedsV o.idx o.rb } ts → TagsOk o e s ts →
     ∃ t, exec (.tagi o) s = .next t ∧ OnlyTags s t e ∧
       ∀ set < e.team.spadBytes / 1024, ∀ w < 8, tagAt t e set w =
         if ts.any fun tid => decide (tagAt s e set w = some (addressOf e s o.base o.idx (o.off.bytes 16) tid / 128))
           && decide (addressOf e s o.base o.idx (o.off.bytes 16) tid / 128 % (e.team.spadBytes / 1024) = set)
         then none else tagAt s e set w) ∧
  (∀ (o : PresOp) (on : Bool) s e,
     let off := addressOf e s o.base none (o.off.bytes 16) 0
     let lines := (List.range (o.n1.toNat + 1)).map fun i => lineKey e.ctx.core (e.team.spadBase + off + 128 * i)
     AtIssue s e { u := o.base.need o.ra } e.act.lanes → off % 128 = 0 → off + 128 * (o.n1.toNat + 1) ≤ e.team.spadBytes →
     s.reading e.ref.ctx e.act.uid lines = false → e.ctx.storing lines = false →
     ∃ t, exec (if on then .presSet o else .presClr o) s = .next t ∧ WentOn t e ∧ t.mem = s.mem ∧ t.threads = s.threads ∧
       t.pend = s.pend ∧ ∀ k, t.linePresent k = if k ∈ lines then on else s.linePresent k)

/-- R354, R355, R28: CSRR of TSW, with no flag of its threads on its way, and CSRW of TSW read and write the nine flags of each
executing thread. PMOV moves a register pair to and from a path register (R254). R354, R202, R207, R208, R274, R297, R296: the control registers of context and path are read, and written where they can
be: SLK without its reserved bits, OVD's two fields, ACT of TSTAT while a handler runs; RDCLK writes cycles and ticks;
TMARK writes a record where its launch is traced, and nothing else. -/
def Obligations.ThreadAndControlRegistersMove : Prop :=
  ((∀ o : TswReadOp, LanesComplete (.csrrTsw o) o.guard { dv := [o.d.toNat] } (fun e s ts => e.flagsDue s ts = false)
     fun e s _ tid => ([(o.d.toNat, (e.thread s tid).tsw &&& 0x1FF)], 0)) ∧
   (∀ o : PmovOp, LanesComplete (.pmovToVector o) o.guard { h := [(o.hn.toNat, o.m)], dv := [o.v.toNat, o.v.toNat + 1] }
     (fun _ _ _ => True) fun e s _ tid => (lanesOf .int64 o.v.toNat ((e.thread s tid).path o.hn.toNat).val, 0)) ∧
   (∀ (o : TswWriteOp) s e ts, Executes s e o.guard { v := o.a.need false o.ra } ts →
     ∃ t, exec (.csrwTsw o) s = .next t ∧ Retired s t e (e.addr + 8 * e.len) id ∧ SameElse s t ∧
       (∀ tid th, ts.count tid = 1 → s.thread e.ctx.team tid = some th → t.thread e.ctx.team tid = some
         { th with tsw := BitVec.ofNat 32 ((o.a.read .uint32 e s tid).toNat % 2 ^ 9) }) ∧
       ∀ k, (∀ tid ∈ ts, k ≠ tkey e.ctx.team tid) → t.threads.get? k = s.threads.get? k) ∧
   ∀ (o : PmovOp) s e ts,
     Executes s e o.guard { v := [(o.v.toNat, o.m), (o.v.toNat + 1, o.m)], dh := [o.hn.toNat] } ts →
     ∃ t, exec (.pmovToPath o) s = .next t ∧ Retired s t e (e.addr + 8 * e.len) id ∧ SameElse s t ∧
       (∀ tid th, ts.count tid = 1 → s.thread e.ctx.team tid = some th → t.thread e.ctx.team tid = some
         { th with h := th.h.set o.hn.toNat ⟨(th.reg (o.v.toNat + 1)).val ++ (th.reg o.v.toNat).val, true⟩ }) ∧
       ∀ k, (∀ tid ∈ ts, k ≠ tkey e.ctx.team tid) → t.threads.get? k = s.threads.get? k) ∧
  ((∀ (o : CsrrOp) s e, AtIssue s e { du := [o.sd.toNat] } e.act.lanes →
     Sets (.csrr o) s e fun a => { a with s := a.s.set o.sd.toNat ⟨csrRule o.csr e s, true⟩ }) ∧
   (∀ (o : UniSrcOp) s e, AtIssue s e { u := o.a.need o.ra } e.act.lanes →
     let x := (o.a.read e).toNat
     (∀ i, i = .csrwSlk o ∨ i = .slkset o → SetsCtx i s e fun c => { c with slk := BitVec.ofNat 64 (x % 2 ^ 48) }) ∧
     SetsCtx (.csrwOvd o) s e (fun c => { c with ovd := BitVec.ofNat 64 (x % 2 ^ 18) }) ∧
     SetsCtx (.csrwTstat o) s e (fun c => if c.tstat.getLsbD 7 = true then
       { c with tstat := BitVec.ofNat 64 (c.tstat.toNat / 2 ^ 11 * 2 ^ 11 + x / 2 ^ 9 % 4 * 2 ^ 9 + c.tstat.toNat % 2 ^ 9) } else c) ∧
     ∃ t, exec (.tmark o) s = .next t ∧ t.threads = s.threads ∧ Retired s t e (e.addr + 8 * e.len) id ∧
       SameButRing s t e.ctx.core ∧ (t.core e.ctx.core).ring =
         if s.traced e.ctx.core e.team.launch = true then s.ringPut (dieOf e.ctx.core) (s.core e.ctx.core).ring 9 e.ctx.slot e.ref.slot
           (natLE (e.addr / 8) 4 ++ natLE x 8)
         else (s.core e.ctx.core).ring) ∧
   (∀ (o : SlkOneOp) s e, AtIssue s e { u := o.a.need o.ra } e.act.lanes →
     ∃ w : Word, SetsCtx (.slksetOne o) s e (fun c => { c with slk := w }) ∧ w.toNat < 2 ^ 48 ∧ ∀ cls : BitVec 2, slackOf w cls =
       if cls = o.cls then (o.a.read e).toNat % 2 ^ 12 else slackOf e.ctx.slk cls) ∧
   ∀ (sd : BitVec 8) s e, AtIssue s e { du := [sd.toNat, sd.toNat + 1] } e.act.lanes → Sets (.rdclk sd) s e fun a =>
     { a with s := (a.s.set sd.toNat ⟨BitVec.ofNat 64 (s.cycOf e.ctx.core), true⟩).set (sd.toNat + 1) ⟨BitVec.ofNat 64 (s.tick / 720720), true⟩ })

/-- R159, R158, R160: STRM, with the context's stores visible and a descriptor that keeps its table, starts a stream in its
slot with the descriptor's fields and no line issued; STRMX ends the stream of its slot, and changes nothing else unless that
stream had an overdue line (R207). -/
def Obligations.StreamsStartAndEnd : Prop :=
  (∀ (o : StrmOp) s e k s1,
    let addr := addressOf e s o.base none (o.off.bytes 16) 0
    let a := accessBy e (.strm o.id.toNat) false false .lg o.ov o.sl [⟨noTid, addr, 0, 0, noDst⟩] true
    AtIssue s e { u := o.base.need o.ra } e.act.lanes → Admitted s e a → Translated s e a → e.ctx.queue = [] →
    EngineAt s e addr 32 .read k s1 →
    let f := fieldOf s.mem k
    let stride := asInt 32 true (f 8 4)
    f 0 8 < 2 ^ 56 → 1 ≤ f 12 4 → f 16 4 % 128 = 0 → 1 ≤ f 20 2 → f 20 2 ≤ 256 →
    f 22 1 ∈ [4, 8, 16, 32, 64, 128] → f 0 8 % f 22 1 = 0 → stride % (f 22 1 : Int) = 0 → f 23 1 < f 20 2 → f 24 8 = 0 →
    f 16 4 + 128 * f 20 2 ≤ e.team.spadBytes →
    ∃ t c st, exec (.strm o) s = .next t ∧ WentOn t e ∧ t.mem = s.mem ∧ t.threads = s.threads ∧
      t.ctxs.get? e.ref.ctx = some c ∧ c.streams.get? o.id.toNat = some st ∧ st.base = f 0 8 ∧ st.stride = stride ∧
      st.count = f 12 4 ∧ st.ring = f 16 4 ∧ st.rlines = f 20 2 ∧ st.ebytes = f 22 1 ∧ st.look = f 23 1 ∧ st.next = 0 ∧
      st.filled = [] ∧ st.landed = 0 ∧ st.uid = e.act.uid) ∧
  ∀ (id : BitVec 2) s e, AtIssue s e {} e.act.lanes →
    (∃ t c, exec (.strmx id) s = .next t ∧ WentOn t e ∧ t.mem = s.mem ∧ t.threads = s.threads ∧
      t.ctxs.get? e.ref.ctx = some c ∧ c.streams.get? id.toNat = none) ∧
    ((∀ st, e.ctx.streams.get? id.toNat = some st → st.tardy = false) →
      SetsCtx (.strmx id) s e fun c => { c with streams := c.streams.erase id.toNat })

/-- R161, R156: CPA counts a copy for every executing thread, clears the presence of each destination line, and posts the
copies; a thread with no valid byte reads nothing. R162, R37: CPWAIT stops its path, and completes at once when its tag's count is 0: it writes the copies that completed
since the last CPWAIT of the tag, where it has a destination, and that count starts again; a count that is not 0 keeps
the path stopped. -/
def Obligations.CopiesStartAndAreAwaited : Prop :=
  (∀ (o : CpaOp) s e ts k s1,
     let vv : List (Nat × Bool) := match o.valid with
       | .reg r => [(r.toNat, false)]
       | .imm _ => []
     let src (tid : Nat) : Nat := addressOf e s o.sb (some o.si) 0 tid
     let dst (tid : Nat) : Nat := addressOf e s o.db (some o.di) 0 tid
     let tag := o.tag.toNat
     let n : Needs := { u := o.db.need false ++ o.sb.need o.rb, v := o.di.need false o.ra ++ o.si.need false o.rc ++ vv }
     Executes s e o.guard n ts → EngineReady s e → s.requests e.ctx.core + ts.length ≤ 1024 →
     (∀ tid ∈ ts, dst tid % 32 = 0 ∧ src tid % 32 = 0 ∧ dst tid + 32 ≤ e.team.spadBytes ∧ src tid < 2 ^ 56) →
     CopySources s e (copyAccess o e s ts) k s1 →
     ∃ t c, exec (.cpa o) s = .next t ∧ WentOn t e ∧ t.mem = s.mem ∧ t.threads = s.threads ∧
       t.ctxs.get? e.ref.ctx = some c ∧ c.tags.getD tag 0 = e.ctx.tags.getD tag 0 + ts.length ∧
       ∀ tid ∈ ts, ∃ id p,
         let m := copyCount o e s tid
         let line := lineKey e.ctx.core (e.team.spadBase + dst tid)
         t.linePresent line = false ∧ t.pend.get? id = some p ∧
         p.work = .cpa tag tid (e.team.spadBase + dst tid) (src tid) m ∧ p.fills = [line] ∧
         p.srcs = (if m = 0 then [] else [(k tid, m)])) ∧
  ((∀ (o : CpwaitOp) s e ts, Executes s e o.guard { du := (o.sd.map fun d => d.toNat).toList } ts →
     ∃ t, exec (.cpwait o) s = .next t ∧ t.threads = s.threads ∧ SameElse s t ∧
       t.ctxs = s.ctxs.modify e.ref.ctx fun c => c.modTop e.ref.slot fun a =>
         { a with status := .cpwait o.tag.toNat (o.sd.map fun d => d.toNat) }) ∧
   ∀ s r a e tag sd, s.act? r = some a → a.status = .cpwait tag sd → s.envAt ⟨r, a.pc, 1⟩ = some e →
     (e.ctx.tags.getD tag 0 ≠ 0 ∨ s.running e.ctx = false → exec (.cpwaitComplete r) s = .next s) ∧
     (e.ctx.tags.getD tag 0 = 0 → s.running e.ctx = true → ∃ t c b, exec (.cpwaitComplete r) s = .next t ∧ t.mem = s.mem ∧ t.threads = s.threads ∧
       t.ctxs.get? r.ctx = some c ∧ c.tagDone.getD tag 0 = 0 ∧ t.act? r = some b ∧ b.pc = a.pc + 8 ∧ b.status = .ready ∧
       ∀ n, b.u n = if sd = some n then ⟨BitVec.ofNat 64 (e.ctx.tagDone.getD tag 0), true⟩ else a.u n))

/-- R344, R343: BCOPY of n bytes, n below 2^32, between ranges that its core's engine and windows reach, posts its copy on
timeline 0 and clears the presence of the lines it fills; of no bytes it is complete at once. -/
def Obligations.BlockCopiesStartNumbered : Prop :=
  ∀ (o : BcopyOp) s e,
    let offs : Word × Word := match o.offs with
      | some p => (p.1.signExtend 64, p.2.signExtend 64)
      | none => (0, 0)
    let dst := ((o.a.read e).toNat + offs.1.toNat) % 2 ^ 64
    let src := ((o.b.read e).toNat + offs.2.toNat) % 2 ^ 64
    let n := (o.c.read e).toNat
    AtIssue s e { u := o.a.need o.ra ++ o.b.need o.rb ++ o.c.need o.rc, du := [o.sd.toNat] } e.act.lanes →
    n < 2 ^ 32 → (s.opsOf e.ref.ctx fun x => decide (x.tl = 0)).length < 64 → EngineReady s e →
    (n ≠ 0 → ∀ from' into s1, s.copyRanges e.who src dst n o.dsp = (.go from', .go into, s1) →
      ∃ t, exec (.bcopy o) s = .next t ∧ EnginePosted s t e 0 (some o.sd.toNat) (.bcopy src dst n o.dsp)
        ((Reach.go into).segs.flatMap fun p => linesOf p.1 p.2)) ∧
    (n = 0 → PathsStand s e.ref.ctx → ∃ t a, exec (.bcopy o) s = .next t ∧ t.mem = s.mem ∧ t.act? e.ref = some a ∧
      a.u o.sd.toNat = ⟨BitVec.ofNat 64 (e.ctx.issued.getD 0 0 + 1), true⟩ ∧ a.pc = e.addr + 8 * e.len ∧ a.status = .ready)

/-- R240, R223, R263, R165: GATHER with a descriptor that keeps R239, and COLL, post their operation on timelines 1 and 4;
LAUNCH and TLRD go on with an empty destination. All but TLRD are releases; LAUNCH waits for its context's earlier accesses
(R190). -/
def Obligations.UnitInstructionsPostTheirOperation : Prop :=
  ∀ (o : DescOp) s e,
    let addr := addressOf e s o.base none (o.off.bytes 16) 0
    AtIssue s e { u := o.base.need o.ra, du := [o.sd.toNat] } e.act.lanes →
    (addr % 64 = 0 → EngineReady s e → ∀ k s1 d, EngineAt s e addr 64 .read k s1 →
      gatherDesc (memReads s.mem k 64) e.team e.ctx.core = some d → d.n ≠ 0 →
      ∃ t, exec (.gather o) s = .next t ∧ EnginePosted s t e 1 (some o.sd.toNat) (.gather addr (some d) []) (d.lines e.who)) ∧
    (addr % 64 = 0 → EngineReady s e →
      ∃ t, exec (.coll o) s = .next t ∧ EnginePosted s t e 4 (some o.sd.toNat) (.coll addr none [] 0 ⟨[], none, false⟩) []) ∧
    (addr % 256 = 0 → Released s e → e.launchHeld s = none → s.launchesHeld (dieOf e.ctx.core) < 256 →
      ∃ t x a, exec (.launch o) s = .next t ∧ WentOn t e ∧ t.mem = s.mem ∧ t.threads = s.threads ∧ t.teams = s.teams ∧
        t.launches = s.launches ∧ t.pend.get? s.nextId = some x ∧ x.work = .launch o.sd.toNat addr e.launch.root ∧
        x.ctx = e.ref.ctx ∧ x.uid = e.act.uid ∧ x.res = [.u o.sd.toNat 0] ∧ t.act? e.ref = some a ∧
        a.s = e.act.s.set o.sd.toNat ⟨(e.act.u o.sd.toNat).val, false⟩ ∧ a.k = e.act.k) ∧
    ∀ (q : TlrdOp), AtIssue s e { du := [q.sd.toNat] } e.act.lanes →
      ∃ t, exec (.tlrd q) s = .next t ∧ Posted s t e (.tlrd q.sd.toNat q.tl.toNat) [.u q.sd.toNat 0]

/-- R227, R228, R229, R226: GMAX offers each thread's candidate to its slot, by ascending tid, at once; GNEXT takes one round
of each distinct slot, by its lowest tid, and posts the index and the score to every thread that addresses it. -/
def Obligations.GateInstructionsRankCandidates : Prop :=
  (∀ (o : GmaxOp) s e ts k, SlotsAt o.toGateOp s e ts k →
    let n : Needs := { u := memNeedsU o.base o.ra, v := memNeedsV o.idx o.rb ++ o.vs.need false o.rc ++ o.ve.need false false }
    Executes s e o.guard n ts →
      let score (tid : Nat) : Nat := (o.vs.read .fp32 e s tid).toNat % 2 ^ 32
      let expert (tid : Nat) : Nat := (o.ve.read .uint32 e s tid).toNat % 2 ^ 32
      ∃ t, exec (.gmax o) s = .next t ∧ WentOn t e ∧
        t.mem = (sortNat ts).foldl (fun m tid => offered m (k tid) (score tid) (expert tid)) s.mem) ∧
  ∀ (o : GnextOp) s e ts k, SlotsAt o.toGateOp s e ts k →
    Executes s e o.guard { u := memNeedsU o.base o.ra, v := memNeedsV o.idx o.rb, dv := [o.d.toNat, o.s.toNat] } ts →
      ∃ t p, exec (.gnext o) s = .next t ∧ WentOn t e ∧
        t.mem = (((sortNat ts).map k).eraseDups).foldl rounded s.mem ∧
        t.pend.get? s.nextId = some p ∧ p.work = .gnext ∧ p.uid = e.act.uid ∧
        p.res = ts.flatMap fun tid =>
          let x := roundOf s.mem (k tid)
          let b := (e.thread s tid).base
          [.v tid (b + o.d.toNat) (BitVec.ofNat 32 x.1), .v tid (b + o.s.toNat) (BitVec.ofNat 32 x.2)]

/-- R236, R234, R235: ROUTE reads its descriptor; a thread whose expert is out of range receives 0xFFFFFFFF and KEY, one
of a null expert its code; for an expert that is dispatched the cursor advances, and its thread receives the slot and stores
its tag there, or 0xFFFFFFFE when the expert is full (said here for one thread). -/
def Obligations.RouteAnswersEachThread : Prop :=
  ∀ (o : RouteOp) s e ts k s1,
    let addr := (o.base.read e).toNat
    let ve (tid : Nat) : Nat := (o.e.read .uint32 e s tid).toNat % 2 ^ 32
    let tag (tid : Nat) : Nat := (o.tag.read .uint32 e s tid).toNat % 2 ^ 32
    let item (tid : Nat) : Item :=
      ⟨tid, addr, BitVec.ofNat 64 (ve tid), BitVec.ofNat 64 (tag tid), (e.thread s tid).base + o.d.toNat⟩
    let a := accessBy e (.route addr false) o.sp true (if o.sp then .team else .pkg) o.ov o.sl (ts.map item) false
    Executes s e o.guard { u := o.base.need o.ra, v := o.e.need false o.rb ++ o.tag.need false o.rc, dv := [o.d.toNat] } ts →
    ts ≠ [] → Windows s e ts → Admitted s e a → Translated s e a → NoStores s e → s.requests e.ctx.core + 3 * ts.length ≤ 1024 →
    DescriptorAt s e a addr k s1 →
    let f := fieldOf s.mem k
    let nexp := f 24 4
    let kind (x : Nat) : Nat := tableKind (s.rtabOf e.team) x
    (∀ i ∈ [0, 8, 16], f i 8 % 4 = 0 ∧ (o.sp = true → f i 8 < 2 ^ 32)) → 1 ≤ nexp → nexp ≤ 1024 → f 28 4 = 0 →
    ((∀ tid ∈ ts, nexp ≤ ve tid ∨ kind (ve tid) ≠ 0) →
      ∃ t p, exec (.route o) s = .next t ∧ WentOn t e ∧ t.mem = s.mem ∧ t.pend.get? s.nextId = some p ∧ p.work = .route ∧
        (∀ tid ∈ ts, .v tid ((e.thread s tid).base + o.d.toNat)
          (BitVec.ofNat 32 (if nexp ≤ ve tid then 0xFFFFFFFF else 0xFFFFFFF0 + kind (ve tid))) ∈ p.res) ∧
        ∀ tid, Res.flags tid 0x80 ∈ p.res ↔ tid ∈ ts ∧ nexp ≤ ve tid) ∧
    ∀ tid x ka kb ca cb ha hb s2, ts = [tid] → ve tid = x → x < nexp → kind x = 0 →
      let words : RouteItem := (item tid, some (.go (.mem [(ka, 8)] ca ha), .go (.mem [(kb, 4)] cb hb)))
      let d : RouteDesc := ⟨f 0 8, f 8 8, f 16 8, nexp⟩
      State.routeReach e.who o.sp d a.items s1 = ([words], s2) → s2.segsPoisoned [(ka, 8), (kb, 4)] = false →
      (∀ y ∈ linesOf ka 8 ++ linesOf kb 4, s2.linePresent y = true) → s2.routeHeld e.who a d s2.nextId [words] = none →
      let lo := fieldOf s.mem ka 0 4
      let hi := fieldOf s.mem ka 4 4
      let c := fieldOf s.mem kb 0 4
      let m := memWrites s.mem kb (natLE (c + 1) 4)
      let dst := (e.thread s tid).base + o.d.toNat
      ∃ t, exec (.route o) s = .next t ∧ WentOn t e ∧ t.mem = m ∧
        (¬(lo ≤ hi ∧ c < hi - lo ∧ lo + c < 0xFFFFFFF0) →
          ∃ id p, t.pend.get? id = some p ∧ p.work = .route ∧ p.res = [.v tid dst 0xFFFFFFFE#32]) ∧
        (lo ≤ hi ∧ c < hi - lo ∧ lo + c < 0xFFFFFFF0 → ∀ km cm hm,
          State.itemReach { s2 with mem := m } e.who { a with kind := .route 0 true }
            ⟨tid, (f 16 8 + 4 * (lo + c)) % 2 ^ 64, BitVec.ofNat 64 (tag tid), BitVec.ofNat 64 (lo + c), dst⟩ =
            (.go (.mem [(km, 4)] cm hm), { s2 with mem := m }) →
          State.writePoisoned { s2 with mem := m } [(km, 4)] [(km, 4)] = false →
          (∃ id p, t.pend.get? id = some p ∧ p.work = .route ∧ p.res = [.v tid dst (BitVec.ofNat 32 (lo + c))]) ∧
          ∃ ctx, t.ctxs.get? e.ref.ctx = some ctx ∧ ∃ q ∈ ctx.queue, q.tid = tid ∧ q.at' = km ∧ q.bytes = natLE (tag tid) 4)

/-! ### Matrix arrays -/

/-- R134, R381, R133: MLDW of a format that the arrays take posts the load of its tile on timeline 3. R135: MSWP, with every
tile of the context of its form, posts the exchange; with none it has no effect. -/
def Obligations.TileInstructionsPost : Prop :=
  (∀ (o : MldwOp) s e key,
    let k := 8 * o.kq.toNat
    let fmt := slotElem (e.rcd.slot o.slot.toNat)
    AtIssue s e { u := o.base.need o.ra } e.act.lanes → Released s e → fmt ∈ [0, 3, 4, 5] → k ≤ 32 * rateOf fmt →
    (fmt = 5 → k % 32 = 0) → (o.pair = true → e.pairOk = true) →
    MatrixAt e o.base o.off (tileBytes fmt k (if o.pair then 128 else 64)) key →
    ∃ t, exec (.mldw o) s = .next t ∧ EnginePosted s t e 3 none (.mldw key k fmt o.pair) [] ∧ t.threads = s.threads) ∧
  ∀ (pair : Bool) s e live shadow, AtIssue s e {} e.act.lanes → s.tilesAhead e.ref.ctx = (live, shadow) →
    (∀ x, live = some x ∨ shadow = some x → x.pair = pair) →
    (live = none → shadow = none → GoesOn (.mswp pair) s e (e.addr + 8 * e.len)) ∧
    (¬(live = none ∧ shadow = none) → ∃ t, exec (.mswp pair) s = .next t ∧ Posted s t e (.mswp pair) [])

/-- R136, R143: MSTR that breaks no rule, with room in its quad's table, posts its pass on timeline 3, for its rows. -/
def Obligations.PassesEnterTheTable : Prop :=
  ∀ (o : MstrOp) s e live shadow key,
    let m := o.m1.toNat + 1
    let fmt := slotElem (e.rcd.slot o.slot.toNat)
    let row := (o.row.read e).toNat
    AtIssue s e { u := o.base.need o.ra ++ o.row.need o.rb } e.act.lanes → Released s e →
    s.tilesAhead e.ref.ctx = (some live, shadow) → fmt ∈ [0, 3, 4, 5] → live.elem ∈ [0, 3, 4, 5] →
    live.k ≤ 32 * min (rateOf live.elem) (rateOf fmt) → (fmt = 5 → o.t = false ∧ live.k % 32 = 0) → live.pair = o.pair →
    (o.pair = true → e.pairOk = true) → (e.rcd.sched = 0 ∨ e.ctx.isHome = true) →
    (∀ i < m, ∀ c ∈ (if o.pair then rowCores e else [e.ctx.core]), RowHeld s c e.ctx.team (row + i)) →
    MatrixAt e o.base o.off (tileBytes fmt live.k m) key → (s.requestsOf (e.ctx.core / 4)).length < 16 →
    ∃ t, exec (.mstr o) s = .next t ∧ EnginePosted s t e 3 none (.mstr key row m fmt o.pair o.clr o.t false none) [] ∧
      t.threads = s.threads

/-- R139, R140: MACQ takes the lowest free run of rows, on both cores from the leader of a pair, and never waits: −1 and −2
say what was not free. MREL gives back rows that the team holds: they are free now, or as soon as the context's earlier
passes and drains of them are over. -/
def Obligations.AccumulatorRowsAreGrantedAndReleased : Prop :=
  (∀ (o : MacqOp) s e, AtIssue s e { du := [o.sd.toNat] } e.act.lanes →
    let n := o.n1.toNat + 1
    let free (c r : Nat) : Prop := ∀ i < n, RowFree s c (r + i)
    ∃ t a, exec (.macq o) s = .next t ∧ WentOn t e ∧ t.mem = s.mem ∧ t.threads = s.threads ∧ t.act? e.ref = some a ∧
      (∀ r, r + n ≤ 256 → free e.ctx.core r → (∀ q < r, ¬free e.ctx.core q) →
        ((∀ c ∈ rowCores e, free c r) →
          a.u o.sd.toNat = ⟨BitVec.ofNat 64 r, true⟩ ∧ ∀ c ∈ rowCores e, ∀ i < n, RowHeld t c e.ctx.team (r + i)) ∧
        ((∃ c ∈ rowCores e, ¬free c r) → a.u o.sd.toNat = ⟨BitVec.ofInt 64 (-2), true⟩ ∧ t.cores = s.cores)) ∧
      ((∀ r, r + n ≤ 256 → ¬free e.ctx.core r) → a.u o.sd.toNat = ⟨BitVec.ofInt 64 (-1), true⟩ ∧ t.cores = s.cores)) ∧
  ∀ (o : MrelOp) s e,
    let n := o.n1.toNat + 1
    let row := (o.row.read e).toNat
    AtIssue s e { u := o.row.need o.ra } e.act.lanes → PathsStand s e.ref.ctx → (∀ c ∈ rowCores e, RowsOnce s c) →
    (∀ i < n, ∀ c ∈ rowCores e, RowHeld s c e.ctx.team (row + i)) →
    ∃ t, exec (.mrel o) s = .next t ∧ WentOn t e ∧ t.mem = s.mem ∧ t.threads = s.threads ∧
      ∀ i < n, ∀ c ∈ rowCores e,
        (s.rowsUsed e.ref.ctx s.nextId row n true true = false → RowFree t c (row + i)) ∧
        (s.rowsUsed e.ref.ctx s.nextId row n true true = true → RowHeld t c 0 (row + i))

/-- R141, R380: MDRN to registers posts the drain of its rows, column j of row k to lane j mod W of register vd + 64k/W +
j/W, and those registers are empty; MDRN to scratchpad posts it with the presence of its lines cleared. -/
def Obligations.DrainsPostTheirRows : Prop :=
  (∀ (o : MdrnRegOp) s e,
    let n := o.n1.toNat + 1
    let row := (o.row.read e).toNat
    let w := e.rcd.w
    o.d.toNat + n * (64 / w) ≤ 224 →
    AtIssue s e { u := o.row.need o.rb, dv := (List.range (n * (64 / w))).map (o.d.toNat + ·) } e.act.lanes →
    (∀ i < n, (s.core e.ctx.core).rows.get? (row + i) = some (e.ctx.team, false)) → row + n ≤ 256 →
    ∃ t p, exec (.mdrnRegisters o) s = .next t ∧ WentOn t e ∧ t.mem = s.mem ∧ t.pend.get? s.nextId = some p ∧
      p.work = .mdrn row n 0 true [] ∧ ∀ tid reg, (∃ x, .v tid reg x ∈ p.res) ↔ ∃ k < n, ∃ j < 64,
        e.act.lanes[j % w]? = some tid ∧ reg = (e.thread s tid).base + (o.d.toNat + k * (64 / w) + j / w)) ∧
  ∀ (o : MdrnSpadOp) s e key,
    let n := o.n1.toNat + 1
    let row := (o.row.read e).toNat
    let addr := ((o.base.read e).toNat + (o.off.bytes 16).toNat) % 2 ^ 64
    AtIssue s e { u := o.base.need o.ra ++ o.row.need o.rb } e.act.lanes →
    (∀ i < n, RowHeld s e.ctx.core e.ctx.team (row + i)) → MatrixAt e o.base o.off (256 * n) key →
    (∀ lines, e.drainLines s addr row n = .ok lines → ∃ t p, exec (.mdrnScratchpad o) s = .next t ∧ WentOn t e ∧
      t.mem = s.mem ∧ t.threads = s.threads ∧ t.pend.get? s.nextId = some p ∧ p.work =
        .mdrn row n addr false (((List.range n).map (row + ·)).filter (s.core e.ctx.core).pairRow) ∧
      p.fills = lines ∧ ∀ x ∈ lines, t.linePresent x = false) ∧
    ((∀ i < n, (s.core e.ctx.core).rows.get? (row + i) = some (e.ctx.team, false)) → ∃ lines,
      e.drainLines s addr row n = .ok lines)

/-! ### Applications -/

/-- R89, R97, R98, R99: APPLY.g runs its block over the held threads of its set, above its path. FORK runs la in path slot 0
and lb, over what la does not take, in slot 1, and its path waits at the join; where slot 1 is not free it runs la, then lb.
AEND ends a child, and an applied context, whose issuers resume with the last one; elsewhere it traps FRAME. -/
def Obligations.GroupBlocksRunAndEnd : Prop :=
  (∀ (o : ApplyOp) s e rest, AtIssue s e { k := [o.ka.toNat] } e.act.lanes → e.ctx.stack e.ref.slot = e.act :: rest →
    let m := e.act.lanes.filter fun t => (setIn s e o.ka.toNat).getLsbD t
    (m = [] → ∃ t, exec (.applyG o) s = .next t ∧ t.threads = s.threads ∧ Retired s t e (e.addr + 8 * e.len) id ∧
      SameButRing s t e.ctx.core) ∧
    (m ≠ [] → AllFull e.act → s.packEmpty e.ctx.team (footOf o.pack o.foot e.rcd.vregs) m = [] →
      ∃ t c x p, exec (.applyG o) s = .next t ∧ t.mem = s.mem ∧ t.threads = s.threads ∧
      t.ctxs.get? e.ref.ctx = some c ∧ c.stack e.ref.slot = x :: p :: rest ∧ Runs x e.act (o.t.addr e.addr) m ∧
      x.kind = .child ∧ Stands p e ∧ p.status = .under)) ∧
  (∀ (o : ForkOp) s e rest, AtIssue s e { k := [o.ka.toNat, o.kb.toNat] } e.act.lanes →
    e.ctx.stack e.ref.slot = e.act :: rest → AllFull e.act →
    let a := e.act.lanes.filter fun t => (setIn s e o.ka.toNat).getLsbD t
    let b := e.act.lanes.filter fun t => (setIn s e o.kb.toNat).getLsbD t
    let only := b.filter fun t => !a.contains t
    let both := b.filter fun t => a.contains t
    let la := offAddr e.addr o.la
    let lb := offAddr e.addr o.lb
    ∃ t c, exec (.fork o) s = .next t ∧ t.mem = s.mem ∧ t.threads = s.threads ∧ t.ctxs.get? e.ref.ctx = some c ∧
      (a = [] → b = [] → Retired s t e (e.addr + 8 * e.len) id ∧ SameButRing s t e.ctx.core) ∧
      (a ≠ [] ∨ b ≠ [] → e.ref.slot = 0 → e.ctx.p1 = [] → ∃ xs p, c.p0 = xs ++ p :: rest ∧ Stands p e ∧
        p.status = .join (decide (a = [])) (decide (only = [])) lb both ∧
        (a = [] → xs = []) ∧ (a ≠ [] → ∃ x, xs = [x] ∧ Runs x e.act la a ∧ x.kind = .forkA) ∧
        (only = [] → c.p1 = []) ∧ (only ≠ [] → ∃ y, c.p1 = [y] ∧ Runs y e.act lb only ∧ y.kind = .forkB)) ∧
      (a ≠ [] ∨ b ≠ [] → (e.ref.slot ≠ 0 ∨ e.ctx.p1 ≠ []) → ∃ x p, c.stack e.ref.slot = x :: p :: rest ∧ Stands p e ∧
        p.status = .under ∧ (a ≠ [] → Runs x e.act la a ∧ x.kind = .forkSeq lb b) ∧
        (a = [] → Runs x e.act lb b ∧ x.kind = .child))) ∧
  ∀ s e, AtIssue s e {} e.act.lanes →
    (∀ p rest, e.ctx.stack e.ref.slot = e.act :: p :: rest → e.act.kind = .child → e.ctx.log = [] → e.logs s = false →
      PathsStand s e.ref.ctx →
      p.lanes ≠ [] → e.footEmpty s = [] →
      ∃ t b, exec .aend s = .next t ∧ t.mem = s.mem ∧ t.act? e.ref = some b ∧ b.uid = p.uid ∧ b.pc = p.pc ∧ b.lanes = p.lanes ∧
        b.status = .ready ∧ b.s = p.s ∧ b.k = p.k) ∧
    (∀ app q, e.ref.slot = 0 → e.ctx.p0 = [e.act] → e.ctx.p1 = [] → e.act.kind = .applied app → e.ctx.app = some app →
      e.ctx.log = [] → e.logs s = false → e.ctx.queue = [] → (∀ p ∈ s.pend, p.2.ctx ≠ e.ref.ctx) →
      e.footEmpty s = [] →
      e.team.apps.get? app = some q → q.live = [e.ref.ctx] → q.todo = [] →
      ∃ t, exec .aend s = .next t ∧ t.mem = s.mem ∧ t.ctxs.get? e.ref.ctx = none ∧
        ∀ r b, s.act? r = some b → (r.ctx, b.uid) ∈ q.issuers → b.status = .applied app → r.ctx ≠ e.ref.ctx →
          PathsStand s r.ctx → ∃ b', t.act? r = some b' ∧ b'.pc = b.pc ∧ b'.lanes = b.lanes ∧ b'.status = .ready) ∧
    (e.act.kind = .home ∨ (∃ b, e.act.kind = .bin b) → HandlerFits s e e.act.lanes → e.addr < 2 ^ 56 →
      ∃ t, exec .aend s = .next t ∧ TrapTaken s t e 0x08 e.act.lanes true)

/-- R39, R77, R91 to R96: SUNI.f, APPLY.f and APPLYK.f arrive; when the participants of their frame have all arrived at
one address, SUNI.f writes the union of their sets to each, and APPLY.f and APPLYK.f open a frame of their members,
whose contexts form one by one: runs of at most W, by core, for APPLYK.f by ascending key, whose value is in s_key.
With no member every participant goes on; a key that is out of range sets KEY. Who the participants of a frame are is
the model's reading (DEDUCED, log 28). -/
def Obligations.FrameCollectivesMeet : Prop :=
  (∀ i col (opens : Bool) n s e f rest,
    ((∃ o, i = .suniF o ∧ col = .suni o ∧ opens = false ∧ n = ({ k := [o.ka.toNat], dk := [o.kd.toNat] } : Needs)) ∨
      (∃ o, i = .applyF o ∧ col = .apply o ∧ opens = true ∧ n = ({ k := [o.ka.toNat] } : Needs)) ∨
      ∃ o, i = .applykF o ∧ col = .applyK o ∧ opens = true ∧ n = ({} : Needs)) →
    AtIssue s e n e.act.lanes → e.ctx.frames = f :: rest → e.act.inTrap = false →
    (opens = true → ((e.team.frames.get? f).map (·.depth)).getD 0 < 15) →
    (∀ p ∈ s.parts e.ctx.team f, ∀ x, p.2.arrivedAt = some x → x = e.addr) →
    ∃ t, exec i s = .next t ∧ t.threads = s.threads ∧ SameElse s t ∧
      t.ctxs = s.ctxs.modify e.ref.ctx fun c => c.modTop e.ref.slot fun a => { a with status := .arrived e.addr e.len col }) ∧
  (∀ (o : SetOp) s team f addr len ps c tm l rcd u, Met s team f addr len (.suni o) ps c tm l rcd →
    (∀ tid, u.getLsbD tid = true ↔ tid < 2048 ∧ ∃ p ∈ ps, tid ∈ p.2.acting ∧ (partSet s tm p o.ka.toNat).getLsbD tid = true) →
    (s.canon team 0 u).isSome = true → (s.canon team 1 u).isSome = true →
    ∃ t tm', exec (.frameRendezvousComplete team f) s = .next t ∧ t.threads = s.threads ∧ t.mem = s.mem ∧
      t.teams.get? team = some tm' ∧ ∀ p ∈ ps, ∃ a, t.act? p.1 = some a ∧ a.pc = addr + 8 * len ∧ a.status = .ready ∧
        a.lanes = p.2.lanes ∧ a.s = p.2.s ∧ (a.kr o.kd.toNat).full = true ∧ partSet t tm' (p.1, a) o.kd.toNat = u ∧
        ∀ k, k ≠ o.kd.toNat → a.kr k = p.2.kr k) ∧
  (∀ (o : ApplyOp) s team f addr len ps c tm l rcd set, Met s team f addr len (.apply o) ps c tm l rcd →
    (∀ p ∈ ps, partSet s tm p o.ka.toNat = set) → (∀ q ∈ c.2.s, q.1 < o.n.toNat → q.2.full = true) →
    (∀ q ∈ c.2.k, q.2.full = true) →
    let m := (sortNat (ps.flatMap fun p => p.2.acting)).filter fun tid => set.getLsbD tid
    let todo := s.formList team tm rcd.w m none
    (m = [] ∨ CarriesOver s tm c todo) →
    ∃ t, exec (.frameRendezvousComplete team f) s = .next t ∧ t.threads = s.threads ∧ t.mem = s.mem ∧
      (m = [] → AllGoOn t ps (addr + 8 * len)) ∧
      (m ≠ [] → Applied s t team f tm ps c (addr + 8 * len) (o.t.addr addr) m todo o.n.toNat
        (footOf o.pack o.foot rcd.vregs) 0)) ∧
  (∀ (o : ApplyKOp) s team f addr len ps c tm l rcd, Met s team f addr len (.applyK o) ps c tm l rcd →
    (∀ p ∈ ps, (s.envOf p).isSome = true ∧ s.keyEmpty p o = []) → (c.2.u o.nkeys.toNat).full = true →
    (∀ q ∈ c.2.s, q.1 < o.n.toNat → q.2.full = true) → (∀ q ∈ c.2.k, q.2.full = true) →
    let nkeys := (c.2.u o.nkeys.toNat).val.toNat
    let keys := ps.flatMap fun p =>
      p.2.acting.map fun i => (i, (((s.thread team i).getD (Thread.start (s.coreOf p.1))).reg o.vkey.toNat).val.toNat)
    let null (k : Nat) : Bool := match l.rtab with
      | some t => decide (k < t.length) && (t.getD k 0).extractLsb' 30 2 ≠ 0
      | none => false
    let g := keys.filter fun q => decide (q.2 < nkeys) && !null q.2
    let todo := (sortNat ((g.map Prod.snd).eraseDups)).flatMap fun k =>
      s.formList team tm rcd.w (sortNat ((g.filter fun q => q.2 = k).map Prod.fst)) (some k)
    (g = [] ∨ CarriesOver s tm c todo) →
    ∃ t, exec (.frameRendezvousComplete team f) s = .next t ∧ t.mem = s.mem ∧
      (∀ tid th, s.thread team tid = some th → t.thread team tid = some
        (if keys.any (fun q => decide (q.1 = tid ∧ nkeys ≤ q.2)) then { th with tsw := th.tsw ||| 0x80 } else th)) ∧
      (g = [] → AllGoOn t ps (addr + 8 * len)) ∧
      (g ≠ [] → Applied s t team f tm ps c (addr + 8 * len) ((Target.far o.off).addr addr)
        (sortNat (g.map Prod.fst)) todo o.n.toNat (footOf o.pack o.foot rcd.vregs) o.skey.toNat)) ∧
  ∀ s team app tm a q rest slot, s.teams.get? team = some tm → tm.apps.get? app = some a → a.todo = q :: rest →
    s.teamRuns team = true → s.freeSlot q.core = some slot →
    let lanes := q.lanes.filter fun i => !((s.thread team i).map (·.done)).getD true
    lanes ≠ [] → s.packEmpty team a.foot lanes = [] → s.earlierWaits q.core app = false →
    ∃ t tm' b id, exec (.appliedContextForm team app) s = .next t ∧ t.mem = s.mem ∧ t.threads = s.threads ∧
      Formed t id team q.core slot (a.frame :: a.parents) (fun x => x.pc = a.target ∧ x.lanes = lanes ∧ x.kind = .applied app ∧
        x.foot = s.footFor q.core lanes.length a.foot ∧ x.k = (if q.core = a.lead then a.k else a.kOther) ∧
        ∀ n, x.u n = match q.key with
          | some k => if n = a.skey then ⟨BitVec.ofNat 64 k, true⟩ else (a.s.get? n).getD ⟨0, true⟩
          | none => (a.s.get? n).getD ⟨0, true⟩) ∧
      t.teams.get? team = some tm' ∧ tm'.apps.get? app = some b ∧ b.todo = rest ∧ b.live = a.live ++ [id]

/-- R107, R402, R42, R36: CALLV and SPAWN put their threads into the bin of their key (said here for one entry address and
a bin that stays below W threads); CALLV slides its threads' windows and its path waits for their returns; SPAWN
starts a thread in each lowest free spare tid and writes that tid, or 0xFFFFFFFF where there is none. A bin that is
due, the first first, forms a context in a free slot; placement resumes; a context whose paths all wait lends its slot
and takes one again. That a context takes the lowest free slot is the model's choice (DESIGN CHOICE, log 60). -/
def Obligations.BinsGatherThreadsAndForm : Prop :=
  (∀ (o : CallvOp) s e i x old,
    AtIssue s e { v := [(o.va.toNat, o.ra), (o.va.toNat + 1, o.ra)] } e.act.lanes →
    (∀ tid ∈ e.act.lanes, ((e.thread s tid).pair o.va.toNat).toNat = x) → x % 8 = 0 → e.act.lanes.Nodup →
    (∀ tid ∈ e.act.lanes, (∃ th, s.thread e.ctx.team tid = some th) ∧ (e.thread s tid).base + o.n.toNat + 224 ≤ 1024 ∧
      (e.thread s tid).calls.length < 64) → (s.poolFree e.ctx.team e.ctx.core e.team e.act.lanes o.n.toNat 1).1 = true → PathsStand s e.ref.ctx →
    BinReady s e.ctx.core e.ctx.team x false i old e.act.lanes.length →
    ∃ t a, exec (.callv o) s = .next t ∧ t.mem = s.mem ∧ t.act? e.ref = some a ∧ Stands a e ∧ a.status = .returns ∧
      Binned t e.ctx.core i e.ctx.team x false (old ++ sortNat e.act.lanes) ∧
      ∀ tid ∈ e.act.lanes, ∀ th, s.thread e.ctx.team tid = some th → t.thread e.ctx.team tid = some
        { called th (e.addr + 8 * e.len) o.n.toNat with bins := ⟨e.ref.ctx, e.act.uid, th.calls.length + 1⟩ :: th.bins }) ∧
  (∀ (o : SpawnOp) s e ts i x old,
    let args := [o.b.toNat, o.b.toNat + 1, o.b.toNat + 2, o.b.toNat + 3]
    Executes s e o.guard { v := [(o.a.toNat, o.ra), (o.a.toNat + 1, o.ra)] ++ args.map (·, o.rb), dv := [o.d.toNat] } ts →
    (∀ tid ∈ ts, ((e.thread s tid).pair o.a.toNat).toNat = x) → x % 8 = 0 → x < 2 ^ 56 → ts.Nodup → Released s e →
    (∀ tid ∈ ts, ∃ th, s.thread e.ctx.team tid = some th ∧ th.done = false) → PathsStand s e.ref.ctx →
    let core := if e.team.cores.length = 2 then e.team.cores.getD 1 e.ctx.core else e.ctx.core
    let new : List Nat := (s.spares e.ctx.team e.team).take ts.length
    BinReady s core e.ctx.team x true i old new.length →
    ∃ t a, exec (.spawn o) s = .next t ∧ t.mem = s.mem ∧ t.act? e.ref = some a ∧ Stands a e ∧ a.status = .ready ∧
      (new ≠ [] → Binned t core i e.ctx.team x true (old ++ new)) ∧
      ∀ (j tid : Nat), (sortNat ts)[j]? = some tid → ∀ th : Thread, s.thread e.ctx.team tid = some th →
        (∃ th' : Thread, t.thread e.ctx.team tid = some th' ∧
          Wrote th th' [(o.d.toNat, ((new[j]?).map fun n : Nat => BitVec.ofNat 32 n).getD 0xFFFFFFFF#32)] 0) ∧
        ∀ u, new[j]? = some u → ∃ y, t.thread e.ctx.team u = some y ∧ y.done = false ∧ y.core = core ∧ y.calls = [] ∧
          y.base = 0 ∧ y.tsw = 0 ∧ y.h = [] ∧ ∀ n, y.reg n = if n < 4 then ⟨(th.reg (o.b.toNat + n)).val, true⟩ else ⟨0, true⟩) ∧
  (∀ s core k b slot i, (i = .binTimerExpiry core k ∨ i = .binFormOnSlot core) → s.firstDue core = some (k, b) →
    (s.core core).bins.get? k = some b → s.appWaits core = false → s.freeSlot core = some slot →
    (∃ tm, s.teams.get? b.team = some tm) →
    ∃ t id, exec i s = .next t ∧ t.mem = s.mem ∧ t.threads = s.threads ∧ (t.core core).bins.get? k = none ∧
      Formed t id b.team core slot [] fun x => x.pc = b.entry ∧ x.lanes = sortNat b.tids ∧ x.kind = .bin b.spawn ∧
        (∀ n, x.u n = if n = 0 then ⟨BitVec.ofNat 64 b.entry, true⟩ else ⟨0, true⟩) ∧ ∀ n, x.kr n = ⟨.empty, true⟩) ∧
  (∀ s r c a tm spawn x tids i old, s.runningAct r = some (c, a) → a.status = .placing spawn (tids.map (·, x)) →
    s.teams.get? c.team = some tm → PathsStand s r.ctx →
    (spawn = false → ∃ tid ∈ a.lanes, ∃ th, s.thread c.team tid = some th ∧ ∃ b ∈ th.bins, b.ctx = r.ctx ∧ b.uid = a.uid) →
    let core := if spawn = true ∧ tm.cores.length = 2 then tm.cores.getD 1 c.core else c.core
    BinReady s core c.team x spawn i old tids.length → tids ≠ [] →
    ∃ t b, exec (.binPlacementResume r) s = .next t ∧ t.mem = s.mem ∧ t.threads = s.threads ∧
      Binned t core i c.team x spawn (old ++ tids) ∧ t.act? r = some b ∧ b.pc = a.pc ∧ b.lanes = a.lanes ∧
      b.status = if spawn then .ready else .returns) ∧
  ∀ s ctx c, s.ctxs.get? ctx = some c → s.teamRuns c.team = true →
    let first (a : Act) : Prop := c.p0.head? = some a ∨ c.p1.head? = some a
    (c.phase = .resident → (c.p0 ≠ [] ∨ c.p1 ≠ []) →
      (∀ a, first a → (∃ x, a.status = .applied x) ∨ a.status = .returns ∨ ∃ x n col, a.status = .arrived x n col) →
      ∃ t d, exec (.contextLend ctx) s = .next t ∧ t.threads = s.threads ∧ t.teams = s.teams ∧ t.pend = s.pend ∧
        t.ctxs.get? ctx = some d ∧ d.phase = .lent ∧ SameWork c d ∧
        ∀ tm i k, s.teams.get? c.team = some tm → s.imageFor ctx c = some i → Memory.wf s.mem = true →
          s.areaKey tm (tm.side c.core) (0x10000 + 0x8000 * i) = some k → d.imageAt = i ∧
            d.image.take c.imageBytes.length = c.imageBytes ∧ d.image.length ≤ 0x8000 ∧
            memReads t.mem k d.image.length = d.image ∧ ∀ x, (x < k ∨ k + 0x8000 ≤ x) → memRead t.mem x = memRead s.mem x) ∧
    (∀ a, first a → (a.status = .atJoin ∨ ∃ x y lb ov, a.status = .join x y lb ov) → exec (.contextLend ctx) s = .next s) ∧
    ∀ slot, c.phase = .lent → s.freeSlot c.core = some slot →
      ∃ t d, exec (.contextUnlend ctx) s = .next t ∧ t.mem = s.mem ∧ t.threads = s.threads ∧ t.ctxs.get? ctx = some d ∧
        d.phase = .resident ∧ d.slot = slot ∧ d.queue = c.queue ∧ d.log = c.log ∧
        ((∀ k, s.imageKey c = some k → memReads s.mem k c.image.length = c.image) → SameWork c d) ∧
        ∀ k a, s.imageKey c = some k → c.image ≠ [] → c.p0.head? = some a →
          let now := memReads s.mem k c.image.length
          let place (n : Nat) : Nat := sectionAt 0 + 144 + 8 * n
          (∃ b, d.p0.head? = some b ∧ ∀ n < 160, partOf c.image (place n) 8 ≠ partOf now (place n) 8 →
            (b.u n).val = BitVec.ofNat 64 (partOf now (place n) 8)) ∧
          (c.sameOwn now = false → ∃ h ∈ d.held, h.uid = a.uid ∧ h.trap.code = 0x01 ∧ h.trap.uni = true)

/-! ### Waiting -/

/-- R166, R167: WAIT of conditions that the rule allows stops its path; it completes with the mask of those that hold when
one of them holds, or all do; when its time-out has expired it writes 0; its words are read anew. That the time-out
counts in whole ticks of R297's clock is the model's reading (DEDUCED, log 54). -/
def Obligations.WaitCompletesWithItsMask : Prop :=
  (∀ (o : WaitOp) s e key,
    let n := o.n1.toNat + 1
    let tu : List (Nat × Bool) := match o.timeout with
      | .uni u => u.need o.rb
      | _ => []
    let time : Nat := match o.timeout with
      | .none => 0
      | .uni u => (u.read e).toNat
      | .imm i => i.toNat
    let reg (i : Nat) : Word := (e.act.u (o.sa.toNat + i)).val
    let conds := (List.range n).map fun i => (⟨reg (2 * i), reg (2 * i + 1), none, none⟩ : WCond)
    let regs := (List.range (2 * n)).map fun i => (o.sa.toNat + i, o.ra)
    let limit : Option Nat := if time = 0 then none else some (s.tick + 720720 * time)
    AtIssue s e { u := regs ++ tu, du := [o.sd.toNat] } e.act.lanes →
    (∀ c ∈ conds, CondLegal e c ∧ (condKind c = 6 → WordAt s e c (key c) ∧ e.memHeld s = none ∧ s.logUsed e.ref.ctx < 16 ∧
      (WordSc s e c → AllPerformed s e))) →
    ∃ t a, exec (.wait o) s = .next t ∧ t.mem = s.mem ∧ t.threads = s.threads ∧ t.act? e.ref = some a ∧ a.pc = e.act.pc ∧
      a.status = .wait ⟨conds.map (found key), o.all, o.sd.toNat, limit, o.sl, e.len, s.tick⟩) ∧
  ∀ s r a w e, Waits s r a w e → (∀ c ∈ w.conds, CondLegal e c) →
    ((∀ c ∈ w.conds, condKind c = 6 → ∃ k, c.key = some k ∧ s.poisonIn k 8 = false ∧
        overlaps (s.ownStores r.ctx e.ctx.team noTid) [(k, 8)] = false) →
      let ends := if w.all then ∀ c ∈ w.conds, CondHolds s e c else ∃ c ∈ w.conds, CondHolds s e c
      (ends → (∀ d, w.deadline = some d → s.tick < d) → ∃ t mask, exec (.waitComplete r) s = .next t ∧ WaitEnds s t r a w mask ∧
        ∀ i < 64, mask.getLsbD i = true ↔ ∃ c, w.conds[i]? = some c ∧ CondHolds s e c) ∧
      (¬ends → exec (.waitComplete r) s = .next s)) ∧
    (∀ d, w.deadline = some d →
      (d ≤ s.tick → ∃ t, exec (.waitTimeout r) s = .next t ∧ WaitEnds s t r a w 0) ∧
      (d ≤ s.tick → exec (.waitComplete r) s = .next s) ∧ (s.tick < d → exec (.waitTimeout r) s = .next s)) ∧
    ∀ key, (∀ c ∈ w.conds, condKind c = 6 → WordAt s e c (key c)) →
      ∃ t b, exec (.waitWordReread r) s = .next t ∧ t.mem = s.mem ∧ t.threads = s.threads ∧ t.act? r = some b ∧ b.pc = a.pc ∧
        b.status = .wait { w with conds := w.conds.map (found key), read := s.tick }

/-- R214, R216, R217, R218: CHSND puts its bytes into a free slot, whose data arrive later, oldest first; CHRCV takes the
oldest slot that holds data; its copy writes them, and frees the slot. A path that waits issues again when a slot is
free or data are there, and traps CHAN when neither can come. The order of CHSND's checks is the model's reading
(DEDUCED, log 31). -/
def Obligations.ChannelsMoveTheirSlots : Prop :=
  (∀ (o : ChanOp) s e c,
    let off := addressOf e s o.base none (o.off.bytes 16) 0
    let n := (o.count.read e).toNat
    let key := spadKey e.ctx.core (e.team.spadBase + off)
    AtIssue s e { u := o.base.need o.ra ++ o.count.need o.rb } e.act.lanes → chanIn s e.team.launch o.ch.toNat = some c →
    c.first ≤ e.team.id → e.team.id ≤ c.last → 1 ≤ n → n ≤ c.size → off % 16 = 0 → off + n ≤ e.team.spadBytes →
    c.fifo.length < c.slots → Released s e → (∀ x ∈ linesOf key n, s.linePresent x = true) →
    s.requests e.ctx.core + (n + 63) / 64 ≤ 1024 →
    ∃ t id p, exec (.chsnd o) s = .next t ∧ WentOn t e ∧ t.mem = s.mem ∧ t.threads = s.threads ∧ t.pend.get? id = some p ∧
      p.work = .chsnd o.ch.toNat ∧ chanIn t e.team.launch o.ch.toNat =
        some { c with fifo := c.fifo ++ [⟨id, false, false, memReads s.mem key n, e.team.id⟩] }) ∧
  (∀ (o : ChanOp) s e c x,
    let off := addressOf e s o.base none (o.off.bytes 16) 0
    let key := spadKey e.ctx.core (e.team.spadBase + off)
    AtIssue s e { u := o.base.need o.ra, du := [o.sd.toNat] } e.act.lanes → chanIn s e.team.launch o.ch.toNat = some c →
    e.team.id = c.cons → off % 16 = 0 → off < e.team.spadBytes → c.fifo.find? (fun y => !y.taken) = some x → x.ready = true →
    off + x.bytes.length ≤ e.team.spadBytes → s.requests e.ctx.core + (x.bytes.length + 63) / 64 ≤ 1024 →
    ∃ t id p, exec (.chrcv o) s = .next t ∧ WentOn t e ∧ t.mem = s.mem ∧ t.threads = s.threads ∧ t.pend.get? id = some p ∧
      p.work = .chrcv o.ch.toNat o.sd.toNat key ∧
      p.res = [.u o.sd.toNat (BitVec.ofNat 64 (x.team % 2 ^ 32 * 2 ^ 32 + x.bytes.length % 2 ^ 32))] ∧
      p.fills = linesOf key x.bytes.length ∧ (∀ y ∈ p.fills, t.linePresent y = false) ∧
      (∃ a, t.act? e.ref = some a ∧ (a.u o.sd.toNat).full = false) ∧ chanIn t e.team.launch o.ch.toNat =
        some { c with fifo := c.fifo.map fun y => if y.op = x.op ∧ y.taken = false then { y with taken := true, op := id } else y }) ∧
  (∀ s id o l ch c, ChanOpAt s id o l → chanIn s l ch = some c →
    (o.work = .chsnd ch → ∀ x, c.fifo.filter (fun y => !y.ready && decide (y.op = id)) = [x] →
      ∃ t, exec (.chsndSlotFilled id) s = .next t ∧ t.mem = s.mem ∧ Completes s t id o o.res ∧
        let rest := c.fifo.filter fun y => !y.ready && decide (y.op ≠ id)
        chanIn t l ch = some { c with fifo := c.fifo.filter (fun y => y.ready) ++ { x with ready := true } :: rest }) ∧
    ∀ sd dst x, o.work = .chrcv ch sd dst → c.fifo.find? (fun y => y.op = id) = some x →
      ∃ t, exec (.chrcvCopyComplete id) s = .next t ∧ t.mem = memWrites s.mem dst x.bytes ∧
        Completes (s.put dst x.bytes) t id o o.res ∧
        chanIn t l ch = some { c with fifo := c.fifo.filter fun y => y.op ≠ id }) ∧
  ∀ s r a ch len e c,
    (ChanWaits s r a ch len true e c →
      (c.fifo.length < c.slots → ∃ t, exec (.chsndSlotFree r) s = .next t ∧ IssuesNext s t r) ∧
      (c.slots ≤ c.fifo.length → s.teamDone e.team.launch c.cons = true → HandlerFits s e e.act.lanes → a.pc < 2 ^ 56 →
        ∃ t, exec (.channelDeadTrap r) s = .next t ∧ TrapTaken s t e 0x0C e.act.lanes true)) ∧
    (ChanWaits s r a ch len false e c →
      (∀ x, c.fifo.find? (fun y => !y.taken) = some x → x.ready = true →
        ∃ t, exec (.chrcvDataReady r) s = .next t ∧ IssuesNext s t r) ∧
      (c.fifo.find? (fun y => !y.taken) = none → s.producersDone e.team.launch c = true → HandlerFits s e e.act.lanes →
        a.pc < 2 ^ 56 → ∃ t, exec (.channelDeadTrap r) s = .next t ∧ TrapTaken s t e 0x0C e.act.lanes true))

/-! ### Completions -/

/-- R375, R337, R396, R359, R362, R79, R82, R83, R228, R234, R165, R263: an operation whose packets have arrived writes its
results when it completes, once, and its registers are full; a load does so thread by thread; TLRD receives the
counter as it stands; LAUNCH receives the next launch id as the launch unit takes its record. -/
def Obligations.PostedResultsArrive : Prop :=
  ∀ s id o, s.pend.get? id = some o →
    let done (i : Instr) (rs : List Res) : Prop := ∃ t, exec i s = .next t ∧ t.mem = s.mem ∧ Completes s t id o rs
    (o.arrived? = true → s.asking id = false →
      (o.work = .atomic → done (.atomicReply id) o.res) ∧ (o.work = .sc → done (.scOutcome id) o.res) ∧
      (o.work = .latency → done (.longLatencyResult id) o.res) ∧ (∀ k, o.work = .sld k → done (.sldComplete id) o.res) ∧
      (o.work = .queue → done (.setQueueComplete id) o.res) ∧ (o.work = .gnext → done (.gnextComplete id) o.res) ∧
      (o.work = .route → o.acc = none → done (.routeComplete id) o.res) ∧
      (o.work = .load → ∀ tid mine rest,
        mine = o.res.filter (fun r => match r with
          | .v t _ _ => decide (t = tid)
          | _ => false) →
        rest = o.res.filter (fun r => match r with
          | .v t _ _ => decide (t ≠ tid)
          | _ => true) →
        (rest = [] → done (.loadReply id tid) o.res) ∧
        (rest ≠ [] → ∃ t o', exec (.loadReply id tid) s = .next t ∧ t.mem = s.mem ∧ t.ctxs = s.ctxs ∧
          Delivered s t o.team mine ∧ t.pend.get? id = some o' ∧ o' = { o with res := rest }))) ∧
    (∀ sd tl c, o.work = .tlrd sd tl → s.ctxs.get? o.ctx = some c →
      done (.tlrdValue id) [.u sd (BitVec.ofNat 64 (c.tl.getD tl 0))]) ∧
    ∀ sd rcd root, o.work = .launch sd rcd root → o.arrived? = true → s.asking id = false → ∃ t l, exec (.launchAccepted id) s = .next t ∧ t.mem = s.mem ∧
      Completes s t id o [.u sd (BitVec.ofNat 64 s.hub.nextLaunch)] ∧ t.hub.nextLaunch = s.hub.nextLaunch + 1 ∧
      t.launches.get? s.hub.nextLaunch = some l ∧ l.root = root ∧ l.at' = rcd ∧ l.phase = .accepted ∧ l.record = none ∧
      l.status = 0 ∧ l.queue = none

/-- R156, R159, R161, R163, R240, R344, R405: engines complete what they hold. A copy of CPA writes its bytes and zeros to
its 32 bytes and lowers its tag; BCOPY copies its bytes; GATHER writes each row, and ends when all are written; a stream issues
its lines in order and fills them; a store leaves its queue and changes memory. -/
def Obligations.CopiesStreamsAndStoresComplete : Prop :=
  (∀ s id o w tag tid dst src m c, EngineOp s id o w → o.work = .cpa tag tid dst src m → s.ctxs.get? o.ctx = some c →
    o.peer = false → s.segsPoisoned o.srcs = false →
    let bs := readOver s.mem o.srcs
    ∃ t, exec (.cpaCopyComplete id) s = .next t ∧ EngineDone s t id o ∧
      t.mem = memWrites s.mem (spadKey c.core dst) (bs ++ List.replicate (32 - bs.length) 0) ∧
      (PathsStand s o.ctx → (c.p0 ≠ [] ∨ c.p1 ≠ []) → ∃ d, t.ctxs.get? o.ctx = some d ∧
        d.tags.getD tag 0 = c.tags.getD tag 0 - 1 ∧ d.tagDone.getD tag 0 = c.tagDone.getD tag 0 + 1)) ∧
  (∀ s id o w src dst n dsp a b, EngineOp s id o w → o.work = .bcopy src dst n dsp → ReadAt s w src n a →
    WriteAt s w dsp dst n b → Apart a b → ∃ t, exec (.bcopyComplete id) s = .next t ∧
      (o.finished = false → t.mem = writeOver s.mem b (readOver s.mem a) ∧ OnlyResv s t ∧ ∃ o', t.pend.get? id = some o' ∧
        o'.work = o.work ∧ o'.fills = o.fills ∧ o'.finished = true) ∧
      (o.finished = true → t.mem = s.mem ∧ EngineDone s t id o)) ∧
  (∀ s id o w addr d rows row ki dsegs, EngineOp s id o w → o.work = .gather addr (some d) rows → row < d.n → row ∉ rows →
    ReadAt s w ((d.idx + 4 * row) % 2 ^ 64) 4 [(ki, 4)] → WriteAt s w d.dsp (d.row row) d.outBytes dsegs →
    (d.n ≤ 1 ∨ d.outBytes ≤ d.dstride) →
    let x := fieldOf s.mem ki 0 4
    ∀ bs, (0xFFFFFFF0 ≤ x → bs = List.replicate d.outBytes 0) →
      (x < 0xFFFFFFF0 → ∃ a, ReadAt s w ((d.src + x * d.sstride) % 2 ^ 64) d.inBytes a ∧
        bs = expandRow d.sfmt d.dfmt d.elems (readOver s.mem a)) →
      ∃ t o', exec (.gatherRowComplete id row) s = .next t ∧ t.mem = writeOver s.mem dsegs bs ∧ OnlyResv s t ∧
        t.pend.get? id = some o' ∧ o'.work = .gather addr (some d) (row :: rows) ∧
        Filled s t id (o.fills.filter fun x => !o'.fills.contains x)) ∧
  (∀ s id o w addr d rows, EngineOp s id o w → o.work = .gather addr (some d) rows → d.n ≤ rows.length →
    ∃ t, exec (.gatherComplete id) s = .next t ∧ EngineDone s t id o ∧ t.mem = s.mem) ∧
  (∀ s ctx slot c st w, s.ctxs.get? ctx = some c → c.streams.get? slot = some st → s.who? ctx 0 = some w →
    (c.p0 ≠ [] ∨ c.p1 ≠ []) → s.teamRuns c.team = true → s.streamGo st = true → s.requests c.core + 128 / st.ebytes ≤ 1024 →
    let per := 128 / st.ebytes
    let line := lineKey c.core (w.t.spadBase + st.ring + 128 * (st.next % st.rlines))
    ∃ t d id p a, exec (.streamLineIssue ctx slot) s = .next t ∧ t.mem = s.mem ∧ t.threads = s.threads ∧
      t.ctxs.get? ctx = some d ∧ d.streams.get? slot = some { st with next := st.next + 1, tardy := false } ∧ t.pend.get? id = some p ∧
      p.work = .stream slot st.next st.id ∧ p.fills = [line] ∧ t.linePresent line = false ∧ p.acc = some a ∧
      a.items.map (·.addr) = ((List.range per).filter fun q => decide (st.next * per + q < st.count)).map fun q =>
        (((st.base : Int) + (st.next * per + q : Nat) * st.stride) % 2 ^ 64).toNat) ∧
  (∀ s id o w slot n sid a line c st l, EngineOp s id o w → o.work = .stream slot n sid → o.acc = some a → o.fills = [line] →
    s.ctxs.get? o.ctx = some c → c.streams.get? slot = some st → st.id = sid → State.elements w a.items s = (l, s) →
    (∀ g ∈ l, ∃ segs h, g.2 = .go (.mem segs false h)) → s.segsPoisoned (l.flatMap (·.2.segs)) = false →
    s.ringShared w line sid = false →
    let bs := l.flatMap fun g => readOver s.mem g.2.segs
    ∃ t, exec (.streamLineFilled id) s = .next t ∧ EngineDone s t id o ∧
      t.mem = memWrites s.mem (spadKey (line / 4096) (128 * (line % 4096))) (bs ++ List.replicate (128 - bs.length) 0) ∧
      (PathsStand s o.ctx → (c.p0 ≠ [] ∨ c.p1 ≠ []) → ∃ d, t.ctxs.get? o.ctx = some d ∧
        (st.landed + 1 < st.lines → ∃ late, d.streams.get? slot =
          some { st with filled := n :: st.filled, landed := st.landed + 1, tardy := late }) ∧
        ((c.streams.map Prod.fst).Nodup → st.lines ≤ st.landed + 1 → d.streams.get? slot = none))) ∧
  ∀ s ctx c q rest o, s.ctxs.get? ctx = some c → c.queue = q :: rest → s.spentStore ctx c = none → q.faulted = false →
    q.peer = false → s.olderStore ctx c q = false → s.pend.get? q.op = some o → o.leg = .arrived → o.res = [] →
    ∃ t, exec (.storeAck ctx) s = .next t ∧ OnlyResv s t ∧ t.mem = memWrites s.mem q.at' q.bytes ∧
      ((∀ x ∈ rest, x.op ≠ q.op) → t.pend.get? q.op = none) ∧ ((∃ x ∈ rest, x.op = q.op) → (t.pend.get? q.op).isSome = true) ∧
      (PathsStand s ctx → (c.p0 ≠ [] ∨ c.p1 ≠ []) → ∃ d, t.ctxs.get? ctx = some d ∧ d.queue = rest)

/-- R223, R224, R225: a collective reads its descriptor and its group; an exchange with a peer starts, sends this rank's
contribution, takes the bytes of the peer's and ends; it fails with status 1 when a peer is silent for more than 65,536 ticks;
when every exchange has ended its result (the model's `CollDesc.result`) is in its destination and status 0 in its descriptor;
after a failure the destination is indeterminate and the descriptor holds the status. The form of a peer's contribution is the
model's (PRESUMED, logs 13 and 16). -/
def Obligations.CollectivesRunToTheirStatus : Prop :=
  ∀ s id o w addr bufs x, EngineOp s id o w →
    let ended (t : State) : Prop := EngineDone s t id o ∨ ∃ o', t.pend.get? id = some o' ∧ o'.work = o.work ∧ o'.finished = true
    (∀ bs d g n gs l, o.work = .coll addr none bufs 0 x → HubReads s w.root addr 64 bs → collDesc bs = some (d, g, n) →
      HubReads s w.root g (2 * n) gs → groupIds gs n = some l → (∀ q ∈ s.hub.inbox, q.2.kind ≠ 5) →
      ∃ t o', exec (.collDescriptorRead id) s = .next t ∧ t.mem = s.mem ∧ t.threads = s.threads ∧ t.pend.get? id = some o' ∧
        o'.work = .coll addr (some { d with group := l }) bufs 0 x ∧ o'.sent = s.tick) ∧
    (∀ d k mine, o.work = .coll addr (some d) bufs 0 x → k ∈ d.meets → k ∉ x.done →
      (x.peer = none ∨ x.peer = some k ∧ x.sent = false) → HubReads s w.root (d.srcFor k) d.part mine →
      ∃ t o', exec (.collStep id ⟨k, none⟩) s = .next t ∧ t.mem = s.mem ∧ t.threads = s.threads ∧ t.pend.get? id = some o' ∧
        o'.work = .coll addr (some d) bufs 0 ⟨x.done, some k, true⟩ ∧ (x.peer = none → o'.sent = s.tick)) ∧
    (∀ d k bs, o.work = .coll addr (some d) bufs 0 x → k ∈ d.meets → k ∉ x.done →
      (bufs.getD k []).length + bs.length ≤ d.part → (d.needs k = true ∨ bs = []) →
      let b := if bs = [] then bufs else bufs.set k (bufs.getD k [] ++ bs)
      let ends := x.peer = some k ∧ x.sent = true ∧ (d.needs k = true → (b.getD k []).length = d.part)
      ∃ t o', exec (.collStep id ⟨k, some bs⟩) s = .next t ∧ t.mem = s.mem ∧ t.threads = s.threads ∧ t.pend.get? id = some o' ∧
        (ends → o'.work = .coll addr (some d) b 0 ⟨k :: x.done, none, false⟩) ∧ (¬ends → o'.work = .coll addr (some d) b 0 x)) ∧
    (∀ d, o.work = .coll addr (some d) bufs 0 x →
      (x.peer ≠ none → 720720 * 65536 < s.tick - o.sent → ∃ t o', exec (.collPeerTimeout id) s = .next t ∧ t.mem = s.mem ∧
        t.pend.get? id = some o' ∧ o'.work = .coll addr (some d) bufs 1 x) ∧
      (x.peer = none ∨ s.tick - o.sent ≤ 720720 * 65536 → exec (.collPeerTimeout id) s = .next s)) ∧
    (∀ d mine dsegs sc h ssegs sc' h', o.work = .coll addr (some d) bufs 0 x → o.finished = false → (∀ k ∈ d.meets, k ∈ x.done) →
      s.hubTook id 1 = none →
      HubReads s w.root (d.srcFor d.rank) d.part mine → s.hubInto w.root d.dst d.dstBytes = .go (.mem dsegs sc h) →
      (∃ r, s.hubInto w.root (addr + 40) 8 = .go r) →
      let bs := d.result (if d.needs d.rank then bufs.set d.rank mine else bufs)
      let u := ((State.putSegs dsegs bs s).unpoison dsegs)
      u.hubInto w.root (addr + 40) 8 = .go (.mem ssegs sc' h') →
      ∃ t, exec (.collComplete id) s = .next t ∧ ended t ∧ t.mem = writeOver (writeOver s.mem dsegs bs) ssegs (natLE 0 8)) ∧
    (o.finished = true → (∃ d st, o.work = .coll addr d bufs st x) →
      ∃ t, exec (.collComplete id) s = .next t ∧ EngineDone s t id o ∧ t.mem = s.mem) ∧
    ∀ d status, o.work = .coll addr d bufs status x → status ≠ 0 → o.finished = false →
      (∀ ssegs sc h, s.hubInto w.root (addr + 40) 8 = .go (.mem ssegs sc h) →
        (d = none ∨ ∃ y, d = some y ∧ ∀ r, s.hubInto w.root y.dst y.dstBytes ≠ .go r) →
        ∃ t, exec (.collComplete id) s = .next t ∧ ended t ∧ t.mem = writeOver s.mem ssegs (natLE status 8)) ∧
      ∀ y dsegs sc h ssegs sc' h', d = some y → s.hubInto w.root y.dst y.dstBytes = .go (.mem dsegs sc h) →
        (∀ junk : List Byte, junk.length = y.dstBytes →
          ((State.putSegs dsegs junk s).unpoison dsegs).hubInto w.root (addr + 40) 8 = .go (.mem ssegs sc' h')) →
        ∃ t, ∃ junk : List Byte, exec (.collComplete id) s = .next t ∧ ended t ∧ junk.length = y.dstBytes ∧
          t.mem = writeOver (writeOver s.mem dsegs junk) ssegs (natLE status 8)

/-! ### Tree descent -/

/-- R247 to R255: DESC takes every held thread of its path, empties vd and hn, and posts the batch; the threads at one node
of a level use one fetch, each writes its dot product and goes right where that is not below 0 and no NaN; a thread receives
its leaf, its path and DN when its last level is computed; the batch ends with its last thread. A node is fetched once for an
instruction. ASCD posts the replay of the paths: one add to one element of a gradient row after another, level by level, in
ascending tid; then each thread's input gradient is the sum of its level gradients times the weights on its path. Which
operation the engine serves next is R256's slack (the model's `State.serves`, log 15). -/
def Obligations.DescentsFollowTheirRules : Prop :=
  (∀ (o : DescentOp) s e k s1 d,
    let dpU : List (Nat × Bool) := match o.dp with
      | some p => [(p.1.toNat, false)]
      | none => []
    let dpV : List (Nat × Bool) := match o.dp with
      | some p => [(p.2.toNat, false)]
      | none => []
    let n : Needs := { u := (o.a.toNat, o.ra) :: (o.sdesc.toNat, o.rc) :: dpU, v := (o.va.toNat, o.rb) :: dpV, dv := [o.d.toNat], dh := [o.hn.toNat] }
    let addr := (e.act.u o.sdesc.toNat).val.toNat
    let walker (tid : Nat) : Walker := ⟨tid, e.sharedAt s o.a o.va tid, (o.dp.map fun p => e.sharedAt s p.1 p.2 tid).getD 0,
      0, 0, 0, false, false, false, false, (e.thread s tid).base + o.d.toNat⟩
    let l := e.act.lanes.map walker
    AtIssue s e n e.act.lanes → addr % 64 = 0 → s.descents e.ctx.core < 8 → EngineReady s e → EngineAt s e addr 64 .read k s1 →
    treeDesc (memReads s.mem k 64) e.rcd = some d →
    (∀ x ∈ l, x.x % 16 = 0 ∧ x.x + 2 * d.dim ≤ e.team.spadBytes ∧
      (o.dp.isSome = true → x.dots % 16 = 0 ∧ x.dots + 4 * d.depth ≤ e.team.spadBytes)) →
    ∃ t, exec (.desc o) s = .next t ∧ EnginePosted s t e 2 none (.desc addr (some d) o.hn.toNat o.dp.isSome l [])
        (if o.dp.isSome then (l.flatMap fun x => x.lines e.who d).eraseDups else []) ∧
      ∀ tid ∈ e.act.lanes, ∀ th, s.thread e.ctx.team tid = some th → ∃ th', t.thread e.ctx.team tid = some th' ∧
        (th'.reg o.d.toNat).full = false ∧ (th'.path o.hn.toNat).full = false) ∧
  (∀ (o : AscentOp) s e k s1 d,
    let dxU : List (Nat × Bool) := match o.dx with
      | some p => [(p.1.toNat, false)]
      | none => []
    let dxV : List (Nat × Bool) := match o.dx with
      | some p => [(p.2.toNat, false)]
      | none => []
    let us := (o.sg.toNat, false) :: (o.a.toNat, o.ra) :: (o.sdesc.toNat, o.rc) :: dxU
    let n : Needs := { u := us, v := (o.va.toNat, o.rb) :: (o.vg.toNat, false) :: dxV, h := [(o.hn.toNat, false)] }
    let addr := (e.act.u o.sdesc.toNat).val.toNat
    let climber (tid : Nat) : Climber := ⟨tid, e.sharedAt s o.a o.va tid, e.sharedAt s o.sg o.vg tid,
      (o.dx.map fun p => e.sharedAt s p.1 p.2 tid).getD 0, ((e.thread s tid).path o.hn.toNat).val.toNat⟩
    let l := e.act.lanes.map climber
    AtIssue s e n e.act.lanes → addr % 64 = 0 → s.descents e.ctx.core < 8 → EngineReady s e → EngineAt s e addr 64 .read k s1 →
    treeDesc (memReads s.mem k 64) e.rcd = some d → d.gbase ≠ 0 →
    (∀ x ∈ l, x.x % 16 = 0 ∧ x.x + 2 * d.dim ≤ e.team.spadBytes ∧ x.lg % 16 = 0 ∧ x.lg + 4 * d.depth ≤ e.team.spadBytes ∧
      (o.dx.isSome = true → x.dx % 16 = 0 ∧ x.dx + 4 * d.dim ≤ e.team.spadBytes)) →
    let ts := sortNat e.act.lanes
    let all : Climbing := ⟨(List.range d.depth).flatMap fun j => ts.map fun t => (j, t, 0), if o.dx.isSome then ts else [], []⟩
    ∃ t, exec (.ascd o) s = .next t ∧ EnginePosted s t e 2 none (.ascd addr (some d) o.dx.isSome l all)
      (if o.dx.isSome then (l.flatMap fun x => linesOf (ownKey e.who x.dx) (4 * d.dim)).eraseDups else [])) ∧
  (∀ s id o w r addr d hn dp l ns, EngineOp s id o w → s.tree? id = some (o, w, r) → o.work = .desc addr (some d) hn dp l ns →
    let fmt := slotElem (r.slot d.slot)
    (∀ node level here bs, s.serves id o = true → s.walking o w d fmt l = here → here ≠ [] → (∀ x ∈ here, x.node = node ∧ x.level = level) →
      (here.map (·.tid)).Nodup → (dp = false ∨ here.length = 1) →
      NodeIs s w d fmt ns node bs →
      let bias := if d.bias then some (leNat ((bs.drop (d.nb fmt)).take 4)) else none
      let y (x : Walker) : Nat := dotProduct (nodeWeights fmt d.dim bs)
        ((unpack 2 d.dim (memReads s.mem (ownKey w x.x) (2 * d.dim))).map fun v => v % 2 ^ 16 * 2 ^ 16) bias
      let right (x : Walker) : Nat := match Fmt.fp32.value (y x) with
        | .nan _ => 0
        | .inf neg => if neg then 0 else 1
        | .fin neg m _ => if m = 0 ∨ neg = false then 1 else 0
      let next (x : Walker) : Walker := { x with path := x.path + right x * 2 ^ level, node := 2 * node + 1 + right x,
                                                 level := level + 1, nan := x.nan || (Fmt.fp32.value (y x)).isNan }
      ∃ t o' l' ns', exec (.descLevel id) s = .next t ∧ t.pend.get? id = some o' ∧ o'.work = .desc addr (some d) hn dp l' ns' ∧
        ns'.get? node = some bs ∧
        (∀ x ∈ here, l.filter (fun z => z.tid = x.tid) = [x] → next x ∈ l') ∧
        (dp = false → t.mem = s.mem) ∧
        ∀ x, dp = true → here = [x] → t.mem = memWrites s.mem (ownKey w x.dots + 4 * level) (natLE (y x) 4)) ∧
    (∀ tid x, l.find? (fun z => z.tid = tid && !z.complete && decide (d.depth ≤ z.level)) = some x → x.dst < 1024 →
      ∃ t o' l', exec (.descThreadComplete id tid) s = .next t ∧ t.mem = s.mem ∧ Delivered s t w.team
          [.v tid x.dst (BitVec.ofNat 32 (x.node + 1 - 2 ^ d.depth)), .h tid hn (BitVec.ofNat 64 x.path),
           .flags tid (if x.nan then 0x100 else 0)] ∧
        t.pend.get? id = some o' ∧ o'.work = .desc addr (some d) hn dp l' ns ∧ (∀ z ∈ l', z.tid = tid → z.complete = true) ∧
        (dp = true → ∀ k ∈ x.lines w d, (∀ z ∈ l, z.tid ≠ tid → z.complete = false → k ∉ z.lines w d) →
          (∀ p ∈ s.pend, p.1 ≠ id → k ∉ p.2.fills) → (∀ p ∈ s.ctxs, ∀ a ∈ p.2.log, k ∉ a.fills p.2.core) →
          t.linePresent k = true)) ∧
    ((∀ x ∈ l, x.complete = true ∧ x.lost = false) →
      ∃ t, exec (.descComplete id) s = .next t ∧ EngineDone s t id o ∧ t.mem = s.mem)) ∧
  ∀ s id o w r addr d dx l z, EngineOp s id o w → s.tree? id = some (o, w, r) → o.work = .ascd addr (some d) dx l z →
    let fmt := slotElem (r.slot d.slot)
    let grad (x : Climber) (j : Nat) : Nat := leNat (memReads s.mem (ownKey w x.lg + 4 * j) 4)
    let ready (x : Climber) : Prop := s.present [(ownKey w x.x, 2 * d.dim), (ownKey w x.lg, 4 * d.depth)] = true
    (z.adds = [] → z.grads = [] → ∃ t, exec (.ascdComplete id) s = .next t ∧ EngineDone s t id o ∧ t.mem = s.mem) ∧
    (∀ j tid k rest x segs, s.serves id o = true → z.adds = (j, tid, k) :: rest → (j, tid, k) ∉ rest →
      l.find? (fun y => decide (y.tid = tid)) = some x → ready x →
      (∃ h, s.engineReach w ((d.rowAt (pathNode x.path j) + 4 * k) % 2 ^ 64) 4 .both = (.go (.mem segs false h), s)) →
      s.segsPoisoned segs = false →
      let old := leNat (readOver s.mem segs)
      let input := leNat (memReads s.mem (ownKey w x.x + 2 * k) 2) * 2 ^ 16
      let new := if k < d.dim then (Fmt.fp32.fma .rne (grad x j) input old).bits else (Fmt.fp32.add .rne old (grad x j)).bits
      ∃ t o', exec (.ascdComplete id) s = .next t ∧ t.mem = writeOver s.mem segs (natLE new 4) ∧ OnlyResv s t ∧
        t.pend.get? id = some o' ∧ o'.work = .ascd addr (some d) dx l
          { z with adds := (if k + 1 < d.rowBytes / 4 then [(j, tid, k + 1)] else []) ++ rest }) ∧
    ∀ x (bs : Nat → List Byte), s.serves id o = true → z.adds = [] →
      l.find? (fun y => z.grads.contains y.tid) = some x → ready x →
      (∀ j < d.depth, NodeIs s w d fmt z.nodes (pathNode x.path j) (bs j)) →
      let out (i : Nat) : Nat := (List.range d.depth).foldl (fun acc j =>
        (Fmt.fp32.fma .rne (grad x j) ((nodeWeights fmt d.dim (bs j)).getD i 0) acc).bits) 0
      let others := l.filter fun y => z.grads.contains y.tid && decide (y.tid ≠ x.tid)
      ∃ t o' ns, exec (.ascdComplete id) s = .next t ∧ OnlyResv s t ∧
        t.mem = memWrites s.mem (ownKey w x.dx) ((List.range d.dim).flatMap fun i => natLE (out i) 4) ∧
        t.pend.get? id = some o' ∧ o'.work = .ascd addr (some d) dx l ⟨[], z.grads.filter (· ≠ x.tid), ns⟩ ∧
        Filled s t id ((x.lines w d).filter fun k => others.all fun y => !(y.lines w d).contains k)

/-! ### The steps of the matrix arrays -/

/-- R134 to R138, R140, R141, R144, R145, R380, R381: a load makes its tile the shadow tile, in program order, once its
lines are present; an exchange swaps the tiles after the loads and passes before it; the table grants a request whose
arrays are free and that no better one contends with (priority, slack, age), or in scheduled mode the one that its
position names; a granted pass writes its rows; a drain brings its rows to the registers or the scratchpad; released
rows are free. How a pending exchange is held is the model's (DEDUCED, log 36). -/
def Obligations.MatrixStepsTakeEffect : Prop :=
  (∀ s id o w, EngineOp s id o w → s.segsPoisoned o.srcs = false →
    (∀ key k fmt pair, o.work = .mldw key k fmt pair → LoadTurn s id o →
      ∃ t, exec (.mldwComplete id) s = .next t ∧ EngineDone s t id o ∧ t.mem = s.mem ∧ TilesAre s t o fun c => (c.live,
        let n := if pair then 128 else 64
        some ⟨k, fmt, pair, bf16s fmt (k * n) (memReads s.mem key (tileBytes fmt k n))⟩)) ∧
    (∀ pair, o.work = .mswp pair → s.before o.ctx id (fun x => x.isMldw || x.isMswp || x.isMstr) = false →
      ∃ t, exec (.mswpTakesEffect id) s = .next t ∧ EngineDone s t id o ∧ t.mem = s.mem ∧
        TilesAre s t o fun c => (c.shadow, c.live)) ∧
    (∀ key row m fmt pair clr tr tile, o.work = .mstr key row m fmt pair clr tr true (some tile) →
      s.before o.ctx id Work.isMstr = false → s.present o.srcs = true → (passCores w pair).Nodup →
      fmt ∈ [0, 3, 4, 5] → tile.elem ∈ [0, 3, 4, 5] →
      (clr = true ∨ ∀ c ∈ passCores w pair, ∀ i < m, ((s.core c).acc.get? (row + i)).isSome = true) →
      let acts := activationRows tr m tile.k (bf16s fmt (m * tile.k) (memReads s.mem key (tileBytes fmt tile.k m)))
      ∃ t, exec (.matrixPassComplete id) s = .next t ∧ EngineDone s t id o ∧ t.mem = s.mem ∧
        ∀ p ∈ (passCores w pair).zip (passColumns tile pair), ∀ (i : Nat) a, acts[i]? = some a →
          let old : List (BitVec 32) := if clr then List.replicate 64 0 else ((s.core p.1).acc.get? (row + i)).getD []
          (t.core p.1).acc.get? (row + i) = if o.gone.contains (p.1, row + i) then none else
            some (passRow (min (rateOf tile.elem) (rateOf fmt)) tile.k p.2 a (old.map BitVec.toNat)))) ∧
  (∀ s quad, (∀ b ∈ s.bids quad, b.sched = []) →
    let may (b : Bid) : Prop := b ∈ s.bids quad ∧ (∀ c ∈ b.cores, s.arrayBusy c b.o.ctx = false) ∧
      ∀ x ∈ s.bids quad, x.op ≠ b.op → (∃ c ∈ x.cores, c ∈ b.cores) →
        ¬(b.prio < x.prio ∨ b.prio = x.prio ∧ (x.slack < b.slack ∨ x.slack = b.slack ∧ x.op < b.op))
    (s.pend.map Prod.fst).Nodup → (∃ b, may b) → ∃ t b q key row m fmt pair clr tr l, may b ∧ exec (.matrixPassGrant quad) s = .next t ∧ t.mem = s.mem ∧
      t.threads = s.threads ∧ t.pend.get? b.op = some q ∧ b.o.work = .mstr key row m fmt pair clr tr false l ∧
      q.work = .mstr key row m fmt pair clr tr true ((s.ctxs.get? b.o.ctx).bind (·.live))) ∧
  (∀ s quad x i ctx pair b key row m fmt clr tr p l, (s.bids quad).find? (fun b => decide (b.sched ≠ [])) = some x →
    let q := ((s.die (quad / 96)).quads.get? (quad % 96)).getD ⟨x.w.t.launch, 0⟩
    s.schedPos x.w.t.launch quad x.sched x.sched.length (if q.launch = x.w.t.launch then q.pos else 0) = some (i, ctx, pair) →
    (s.bids quad).find? (fun b => decide (b.o.ctx = ctx) && decide ((b.cores.length = 2) = (pair = true)) &&
      b.cores.all fun k => !s.arrayBusy k ctx) = some b → s.pend.get? b.op = some b.o →
    b.o.work = .mstr key row m fmt p clr tr false l →
    ∃ t q', exec (.matrixPassGrant quad) s = .next t ∧ t.mem = s.mem ∧ t.threads = s.threads ∧ t.pend.get? b.op = some q' ∧
      q'.work = .mstr key row m fmt p clr tr true ((s.ctxs.get? ctx).bind (·.live)) ∧
      (t.die (quad / 96)).quads.get? (quad % 96) = some ⟨x.w.t.launch, (i + 1) % x.sched.length⟩) ∧
  ∀ s id o w row n, s.pend.get? id = some o → o.arrived? = true → s.opWho o = some w → o.tainted = false →
    (∀ addr regs pairs (rows : Nat → Nat → List (BitVec 32)), o.work = .mdrn row n addr regs pairs → s.asking id = false →
      DrainTurn s id o →
      (regs = true → (∀ k < n, (w.core, row + k) ∉ o.gone ∧ (s.core w.core).acc.get? (row + k) = some (rows w.core (row + k))) →
        let vals := (List.range n).flatMap fun k => rows w.core (row + k)
        ∃ t, exec (.mdrnComplete id) s = .next t ∧ t.mem = s.mem ∧ Completes s t id o (o.res.map fun r => match r with
          | .v tid reg x => .v tid reg (vals.getD x.toNat 0)
          | r => r)) ∧
      (regs = false → o.res = [] → ∀ key : Nat → Nat → Nat,
        let parts := (List.range n).flatMap fun k => if pairs.contains (row + k)
          then w.t.cores.map fun c => (c, row + k, pairOffset addr + 256 * k) else [(w.core, row + k, addr + 256 * k)]
        (∀ p ∈ parts, (p.1, p.2.1) ∉ o.gone ∧ (s.core p.1).acc.get? p.2.1 = some (rows p.1 p.2.1) ∧
          sharedKey p.1 w.t p.2.2 256 = some (key p.1 p.2.2)) →
        ∃ t, exec (.mdrnComplete id) s = .next t ∧ EngineDone s t id o ∧ t.mem = parts.foldl (fun m p =>
          memWrites m (key p.1 p.2.2) ((rows p.1 p.2.1).flatMap fun x => natLE x.toNat 4)) s.mem)) ∧
    (o.work = .mrel row n → o.res = [] →
      (s.rowsUsed o.ctx id row n true true = true → exec (.mrelRowsFreed id) s = .next s) ∧
      (s.rowsUsed o.ctx id row n true true = false → ∃ t, exec (.mrelRowsFreed id) s = .next t ∧ EngineDone s t id o ∧
        t.mem = s.mem ∧ ∀ c ∈ (if w.t.cores.head? = some w.core then w.t.cores else [w.core]), RowsOnce s c →
          ∀ r, (t.core c).rows.get? r = match (s.core c).rows.get? r with
            | some x => if row ≤ r ∧ r < row + n ∧ x.1 = 0 then none else some x
            | none => none))

/-! ### The steps of paths, of faults and of traps -/

/-- R332, R409, R268, R44, R169, R170, R177, R179, R180, R196, R207, R275: a fetch brings the words of a path's next
instruction; a path whose registers are full, or that the scheduler chooses, issues next; a load whose pages have been
walked reads; a page that is served becomes present and what awaits it goes on; one that cannot be served traps PAGE
or fails its operation; held and waiting traps start their handlers; an invalidation empties the TLBs of a page; a
reservation ends after 4096 cycles. The buffer of a fetched word is the model's (DEDUCED, log 20). -/
def Obligations.PathsFetchTranslateAndTrap : Prop :=
  (∀ s r c a l, s.runningAct r = some (c, a) → (a.status = .ready ∨ ∃ p, a.status = .fetch p) → (∀ h ∈ c.held, h.uid ≠ a.uid) →
    s.launchOf c = some l → ∃ t b, exec (.instructionFetch r) s = .next t ∧ t.act? r = some b ∧
      (∀ f s1, s.fetchAt c.core (s.launchId c) l.root a.pc = (.words f, s1) → b.ibuf = some f ∧ b.status = .ready ∧ b.pc = a.pc ∧ t.mem = s.mem) ∧
      ∀ p s1, s.fetchAt c.core (s.launchId c) l.root a.pc = (.absent p, s1) → b.status = .fetch p ∧ b.pc = a.pc ∧ t.mem = s.mem) ∧
  (∀ s r c a rs, s.ctxs.get? r.ctx = some c → s.act? r = some a → a.status = .source rs →
    (s.canIssue c a = true → ∃ t, exec (.scoreboardWake r) s = .next t ∧ IssuesNext s t r) ∧
    (s.canIssue c a = false → exec (.scoreboardWake r) s = .next s)) ∧
  (∀ s core q, s.cands (some core) (some q) ≠ [] →
    ∃ t, exec (.quarterIssue core q) s = .next t ∧ ChoosesFrom s t (s.cands (some core) (some q))) ∧
  (∀ s core, (∃ c ∈ s.cands (some core) none, c.aged = true) →
    ∃ t, exec (.fairnessTimer core) s = .next t ∧ ChoosesFrom s t ((s.cands (some core) none).filter fun c => c.aged)) ∧
  (∀ s r a x e, RunsOn s r a a.pc x.len e → a.status = .translating x → s.walking? a.uid = true →
    exec (.translationComplete r) s = .next s) ∧
  (∀ s r a x e ty l s1, RunsOn s r a a.pc x.len e → a.status = .translating x → x.kind = .ld ty → x.shared = false →
    s.walking? a.uid = false → (s.walked a.uid (dieOf e.ctx.core)).logUsed r.ctx < 16 →
    Reaches (s.walked a.uid (dieOf e.ctx.core)) e x l s1 → l ≠ [] → (∀ i ∈ x.items, i.dst < 1024) →
    ∃ t o, exec (.translationComplete r) s = .next t ∧ WentOn t e ∧ t.mem = s1.mem ∧ t.pend.get? (s1.nextId + 1) = some o ∧
      o.work = .load ∧ o.uid = a.uid ∧ o.res = l.flatMap fun g =>
        (lanesOf ty g.1.dst (extended ty (loaded s1 e x g))).map fun w => .v g.1.tid w.1 w.2) ∧
  (∀ (p : PageService) s, NoLogs s →
    let m := memWrites s.mem (dieKey p.entryAt) (natLE p.entry.toNat 8)
    ∃ t, exec (.faultServiceComplete p) s = .next t ∧
      t.mem = s.hub.kBits.foldl (fun m a => memWrite m (dieKey a) (memRead m (dieKey a) ||| 0x40)) m ∧
      (∀ r a q, s.act? r = some a → a.status = .fetch q → q.root = p.root → q.page = pageOf false p.va.toNat →
        PathsStand s r.ctx → ∃ b, t.act? r = some b ∧ b.pc = a.pc ∧ b.status = .ready) ∧
      ∀ id o, s.pend.get? id = some o → ∃ o', t.pend.get? id = some o' ∧ ∀ q ∈ o'.faults, q ∈ o.faults ∧
        ¬(q.root = p.root ∧ q.page = pageOf false p.va.toNat)) ∧
  (∀ s root (va : Word), NoLogs s →
    let hit (q : PageRef) : Prop := q.root = root ∧ q.page = pageOf false va.toNat
    (∀ r a q e, RunsOn s r a a.pc 0 e → e.ctx.stack r.slot = [a] → a.status = .fetch q → hit q → PathsStand s r.ctx →
      (∀ o ∈ s.pend, ∀ q ∈ o.2.faults, ¬hit q) → (∀ c ∈ s.ctxs, ∀ slot b q, (c.2.stack slot).head? = some b →
        b.status = .fetch q → hit q → c.1 = r.ctx ∧ (slot = 0 ↔ r.slot = 0)) → (s.ctxs.map Prod.fst).Nodup → r.slot < 2 →
      HandlerFits s e a.lanes → a.pc < 2 ^ 56 → ∃ t, exec (.faultUnservable root va) s = .next t ∧ TrapTaken s t e 0x04 a.lanes true) ∧
    ∀ id o src dst n dsp c q, s.pend = [(id, o)] → o.work = .bcopy src dst n dsp → q ∈ o.faults → hit q →
      s.ctxs.get? o.ctx = some c → (∀ c ∈ s.ctxs, ∀ slot b p, (c.2.stack slot).head? = some b → b.status ≠ .fetch p) →
      ∃ t o' d, exec (.faultUnservable root va) s = .next t ∧ t.mem = s.mem ∧ t.pend.get? id = some o' ∧ o'.failed = some 0x04 ∧
        t.ctxs.get? o.ctx = some d ∧ ∃ h ∈ d.held, h.uid = o.uid ∧ h.trap.code = 0x04 ∧ h.trap.pc = o.pc ∧ h.trap.uni = true ∧
          h.trap.op = some id) ∧
  (∀ s r a h e i, (i = .heldTrapRaise r ∧ (h.trap.code = 0x0A → a.status = .ready) ∨ i = .overdueTrap r ∧ h.trap.code = 0x0A) →
    RunsOn s r a (if h.trap.code = 0x0A then a.pc else h.trap.pc) 0 e → (∀ x ∈ e.ctx.held, (e.ctx.byUid x.uid).isSome = true) →
    e.ctx.held.find? (fun x => x.uid = a.uid) = some h → h.trap.uni = true → a.status = .ready → a.lanes ≠ [] →
    HandlerFits s e a.lanes → e.addr < 2 ^ 56 → h.trap.code < 32 →
    ∃ t, exec i s = .next t ∧ TrapTaken s t e h.trap.code a.lanes true) ∧
  (∀ s r a x e, RunsOn s r a x.pc x.len e → a.status = .trapped x → HandlerFits s e x.tids → x.pc < 2 ^ 56 → x.code < 32 →
    ∃ t, exec (.trapEntry r) s = .next t ∧ TrapTaken s t e x.code x.tids x.uni) ∧
  (∀ s root (va : Word), ∃ t, exec (.pageInvalidation root va) s = .next t ∧ t.mem = s.mem ∧ t.threads = s.threads ∧
    t.ctxs = s.ctxs ∧ t.pend = s.pend ∧
    let keep (x : TlbEntry) : Prop := ¬(x.root = root ∧ x.page = pageOf x.big va.toNat)
    (∀ c x, x ∈ (t.core c).tlb ↔ x ∈ (s.core c).tlb ∧ keep x) ∧ ∀ d x, x ∈ (t.die d).tlb ↔ x ∈ (s.die d).tlb ∧ keep x) ∧
  ∀ s team tid th v, s.thread team tid = some th → th.resv = some v →
    (4096 ≤ s.cycOf th.core - v.since → ∃ t, exec (.lrReservationExpiry team tid) s = .next t ∧ t.thread team tid = some { th with resv := none } ∧
      (∀ k, k ≠ tkey team tid → t.threads.get? k = s.threads.get? k) ∧ SameElse s t ∧ t.ctxs = s.ctxs) ∧
    (s.cycOf th.core - v.since < 4096 → exec (.lrReservationExpiry team tid) s = .next s)

/-! ### The crossbars and the peers -/

/-- R199, R200, R204, R205, R206, R210 to R213, R219: held packets lose slack at the epoch boundaries of their die and are counted
once when they are overdue; an output that is not taken grants a head packet of least slack, then of the input granted least
recently, and is taken for its beats; at its target a request is answered with the slack that is left, a packet for another die
enters there at its bridge, a reply reaches its operation. A head that waits too long launches a probe; a probe hops to the
buffer that its head waits for, is dropped where that can move, and confirms a cycle at its origin; a step of a recovery moves
every head of the cycle along its route into the recovery slot there. What a packet of the model stands for is the model's choice
(DESIGN CHOICE, log 15). -/
def Obligations.CrossbarsGrantAndRecover : Prop :=
  (∀ s die, (s.die die).overdue < 2 ^ 48 →
    let x := s.die die
    let aged (p : Packet) : Nat := p.slack - (s.cyc die / 16 - max p.since (16 * x.epoch) / 16)
    ∃ t, exec (.slackEpoch die) s = .next t ∧ t.mem = s.mem ∧ t.pend = s.pend ∧ (t.die die).epoch = s.cyc die / 16 ∧
      (t.die die).xbar.pkts = x.xbar.pkts.map (fun p => { p with slack := aged p, counted := p.counted || decide (aged p = 0) }) ∧
      (t.die die).overdue = (x.overdue + (x.xbar.pkts.filter fun p => decide (aged p = 0) && !p.counted).length) % 2 ^ 48) ∧
  (∀ s die port p, Granting s die port p →
    let x := (s.die die).xbar
    let last := x.last.getD port []
    (∀ inp q, x.head inp = some q → q.out = port →
      ¬(q.slack < p.slack ∨ q.slack = p.slack ∧ grantAge last p.inp < grantAge last q.inp)) ∧
    ∃ t, exec (.xbarGrant die port) s = .next t ∧
      (p.flit = none → t.mem = s.mem ∧ t.threads = s.threads ∧ p.out = port ∧ x.head p.inp = some p ∧
        (t.die die).xbar.last.getD port [] = last.filter (· ≠ p.inp) ++ [p.inp] ∧
        (t.die die).xbar.busy.getD port 0 = s.cyc die + p.beats ∧ (∀ z ∈ x.pkts, z.inp ≠ p.inp → z ∈ (t.die die).xbar.pkts) ∧
        (∀ d q, Onward die p d q → t.pend = s.pend ∧ (d ≠ die → (t.die die).xbar.pkts.length + 1 = x.pkts.length) ∧
          { q with counted := q.counted || decide (q.slack = 0), since := s.cyc d, headAt := s.cyc d } ∈ (t.die d).xbar.pkts) ∧
        ∀ o, p.reply = true → p.fromDie = die → s.pend.get? p.op = some o →
          (t.die die).xbar.pkts.length + 1 = x.pkts.length ∧ ∃ o', t.pend.get? p.op = some o' ∧ o'.away = o.away - 1 ∧
            o'.late = (o.late || decide (p.slack = 0)) ∧ o'.leg = if o.away ≤ 1 then .arrived else o.leg) ∧
      ∀ f y, p.flit = some f → p.reply = false → p.toDie ≠ die → 4 ≤ p.toDie → s.hub.port f.va.toNat = some y →
        t.mem = s.mem ∧ t.pend = s.pend ∧ t.hub.outbox = s.hub.outbox ++ [(y, { f with slack := BitVec.ofNat 16 p.slack })]) ∧
  (∀ s die port p, (s.die die).xbar.head port = some p → (s.die die).probeAfter ≤ s.cyc die - p.headAt →
    (∀ q ∈ s.probes, (die, port) ∈ q.2.path → q.2.confirmed = false ∧ 256 * die + port < 256 * q.2.die + q.2.origin) →
    ∃ t, exec (.mireProbeLaunch die port) s = .next t ∧ t.mem = s.mem ∧ t.threads = s.threads ∧
      t.probes.get? s.nextId = some ⟨die, port, [(die, port)], false⟩ ∧
      (t.die die).xbar.launched = (s.die die).xbar.launched + 1) ∧
  (∀ s n p, s.probes.get? n = some p → p.confirmed = false →
    let here := p.path.getLast?.getD (p.die, p.origin)
    let dropped : Prop := ∃ t, exec (.mireProbeHop n) s = .next t ∧ t.probes.get? n = none ∧ t.mem = s.mem
    (((s.die here.1).xbar.head here.2 = none ∨ ∃ h, (s.die here.1).xbar.head here.2 = some h ∧ s.accepts here.1 h = true) →
      dropped) ∧
    ∀ b, Blocks s here b →
      (s.heldByLower p b = true ∨ b ≠ (p.die, p.origin) ∧ 64 ≤ p.path.length → dropped) ∧
      (s.heldByLower p b = false →
        (b = (p.die, p.origin) → ∃ t, exec (.mireProbeHop n) s = .next t ∧ t.probes.get? n = some { p with confirmed := true } ∧
          (t.die p.die).xbar.confirmed = (s.die p.die).xbar.confirmed + 1 ∧ t.mem = s.mem) ∧
        (b ≠ (p.die, p.origin) → p.path.length < 64 →
          ∃ t, exec (.mireProbeHop n) s = .next t ∧ t.probes.get? n = some { p with path := p.path ++ [b] } ∧ t.mem = s.mem))) ∧
  ∀ s n p, s.probes.get? n = some p → p.confirmed = true →
    let free : State := { s with probes := s.probes.erase n }
    ((∃ b ∈ p.path, ∀ c, ¬Blocks free b c) → ∃ t, exec (.recoveryStep n) s = .next t ∧ t = free) ∧
    ((∀ b ∈ p.path, ∃ c, Blocks free b c) → ∃ t, exec (.recoveryStep n) s = .next t ∧ t.mem = s.mem ∧
      t.pend = s.pend ∧ t.probes = s.probes ∧ (t.die p.die).xbar.steps = (s.die p.die).xbar.steps + 1 ∧
      ∀ b ∈ p.path, ∀ h d q, (s.die b.1).xbar.head b.2 = some h → Onward b.1 h d q →
        { q with recov := true, counted := q.counted || decide (q.slack = 0), since := s.cyc d, headAt := s.cyc d } ∈
          (t.die d).xbar.pkts)

/-- R219, R220, R221, R222: a flit that is a request waits to be served; a reply that is complete goes back through the bridge of its
address, and its bytes are the results of the load that asked; a negative response, and no reply for 65,536 ticks, fail a peer
operation with REMOTE and RTIMEOUT; a request of a peer, least slack first, reads or writes memory through the peers' tables and is
answered, or refused and reported. A port that is down is not used. The form of a flit is the model's (DESIGN CHOICE, log 13). -/
def Obligations.PeersAreServedAndAnswer : Prop :=
  (∀ (f : Flit) s, FlitWf f →
    (f.kind.toNat ≤ 2 → ∃ t, exec (.flitReceived f) s = .next t ∧
      t = { s with hub := { s.hub with inbox := s.hub.inbox ++ [(s.tick, f)] } }) ∧
    ∀ a o, f.kind.toNat = 3 → s.hub.asks.find? (fun a => decide (a.tag = f.tag.toNat) && a.sent.isSome && !a.back) = some a →
      a.owner ≠ 0 → s.pend.get? a.owner = some o → o.work.ofHub = false →
      ∃ t, exec (.flitReceived f) s = .next t ∧ t.mem = s.mem ∧ t.pend = s.pend ∧
        t.hub.asks = s.hub.asks.map (fun x => if x.tag = a.tag then
          { x with part := a.part ++ f.payload, back := decide (a.n ≤ (a.part ++ f.payload).length) } else x) ∧
        (a.n ≤ (a.part ++ f.payload).length → ∃ z ∈ (t.die (dieOf o.core)).xbar.pkts, z.op = a.owner ∧ z.reply = true ∧
          z.flit = some f ∧ z.inp = 192 + a.va / 128 % 8 ∧ z.out = o.port ∧ z.slack = f.slack.toNat)) ∧
  (∀ s die port p f a o w acc ty i, Granting s die port p → p.flit = some f → p.reply = true → p.fromDie = die → die < 4 →
    s.hub.asks.find? (fun x => decide (x.tag = f.tag.toNat)) = some a → s.hub.asks.filter (fun x => x.owner = a.owner) = [a] →
    s.pend.get? a.owner = some o → o.peer = true → o.leg = .request → s.opWho o = some w → o.work = .load → o.acc = some acc →
    acc.kind = .ld ty → acc.items = [i] → i.dst < 1024 → o.res ≠ [] →
    ∃ t o', exec (.xbarGrant die port) s = .next t ∧ t.mem = s.mem ∧ t.pend.get? a.owner = some o' ∧ o'.leg = .arrived ∧
      o'.late = (o.late || decide (p.slack = 0)) ∧
      o'.res = (lanesOf ty i.dst (extended ty (leNat (a.part.take (ty.width / 8))))).map fun w => .v i.tid w.1 w.2) ∧
  (∀ n s id o w acc code, s.pend.get? id = some o → o.peer = true → s.opWho o = some w → o.acc = some acc →
    (o.work = .load ∨ o.work = .store ∨ o.work = .atomic ∨ o.work = .queue ∨ ∃ k, o.work = .sld k) →
    (∃ f a, n = .flitReceived f ∧ FlitWf f ∧ f.kind.toNat = 4 ∧ code = 0x06 ∧
        s.hub.asks.find? (fun a => decide (a.tag = f.tag.toNat) && a.pending) = some a ∧ a.owner = id) ∨
      (n = .negativeResponse id ∧ code = 0x06 ∧ ∃ a ∈ s.hub.asks, a.owner = id ∧ a.pending = true) ∨
      (n = .remoteTimeout id ∧ code = 0x07 ∧ ∃ a ∈ s.hub.asks, a.owner = id ∧ a.back = false ∧
        ∃ x, a.sent = some x ∧ 720720 * 65536 ≤ s.tick - x) →
    ∃ t c l, exec n s = .next t ∧ t.mem = s.mem ∧ t.pend.get? id = none ∧ t.ctxs.get? o.ctx = some c ∧ l ∈ c.log ∧
      l.acc.kind = acc.kind ∧ l.acc.items = acc.items ∧ l.acc.uid = acc.uid ∧ l.acc.pc = acc.pc ∧ l.failed = some code) ∧
  (∀ s q, s.nextRequest = some q →
    let f := q.2
    let slack := s.hubSlack q.1 f.slack.toNat
    let answer (kind : BitVec 8) (payload : List Byte) : Flit :=
      ⟨Config.deviceId, f.src, BitVec.ofNat 16 slack, kind, f.va, f.tag, payload⟩
    ∃ t, exec .peerAccessServe s = .next t ∧ t.hub.inbox = s.hub.inbox.erase q ∧ q ∈ s.hub.inbox ∧
      (∀ g ∈ s.hub.inbox, s.canServe g.2 = true → slack ≤ s.hubSlack g.1 g.2.slack.toNat) ∧
      let answers (segs : List (Nat × Nat)) (a : Flit) : Prop := ∀ k m, segs.head? = some (k, m) →
        (dieOfKey k < 4 → ∃ z ∈ (t.die (dieOfKey k)).xbar.pkts, z.flit = some { a with slack := 0 } ∧ z.slack = slack ∧
          z.inp = bridgeOf k) ∧
        ∀ y, 4 ≤ dieOfKey k → s.hub.port f.va.toNat = some y → t.hub.outbox = s.hub.outbox ++ [(y, a)]
      (∀ segs sc h, f.kind.toNat = 0 → s.reachHub s.hub.peerRoot f.va.toNat (leNat (f.payload.take 2)) .read = .go (.mem segs sc h) →
        s.segsPoisoned segs = false → t.mem = s.mem ∧ answers segs (answer 3 (readOver s.mem segs))) ∧
      (∀ segs sc h, f.kind.toNat = 1 → s.reachHub s.hub.peerRoot f.va.toNat f.payload.length .write = .go (.mem segs sc h) →
        s.segsPoisoned segs = false → t.mem = writeOver s.mem segs f.payload ∧ answers segs (answer 3 [])) ∧
      ∀ n need y, flitNeed f = some (n, need) → s.reachHub s.hub.peerRoot f.va.toNat n need = .prot →
        s.hub.port f.va.toNat = some y → t.mem = s.mem ∧ t.hub.outbox = s.hub.outbox ++ [(y, answer 4 [])] ∧
          t.hub.reports = s.hub.reports ++ [⟨0, 6, 0x05, f.va⟩]) ∧
  (∀ s port, port < 18 → ∃ t, exec (.nymnexPortDown port) s = .next t ∧ t.mem = s.mem ∧ t.pend = s.pend ∧
    (∀ p, p ∈ t.hub.down ↔ p ∈ s.hub.down ∨ p = port) ∧ ∀ va, t.hub.port va ≠ some port) ∧
  ∀ s port, port < 18 → ∃ t, exec (.nymnexPortRestored port) s = .next t ∧ t.mem = s.mem ∧ t.pend = s.pend ∧
    (∀ p, p ∈ t.hub.down ↔ p ∈ s.hub.down ∧ p ≠ port) ∧ t.hub.stuck = [] ∧
    t.hub.outbox = s.hub.outbox ++ s.hub.stuck.map fun q =>
      ((t.hub.port q.2.va.toNat).getD 0, { q.2 with slack := BitVec.ofNat 16 (s.hubSlack q.1 q.2.slack.toNat) })

/-! ### Launches -/

/-- R260 to R265, R276, R121: a doorbell hands a record over, under the next launch id, and one that is not aligned fails
with STATUS 1 unread; the record is read and checked (STATUS 1, 2 or 3), its dependences are met once every counter
has reached its value, then its count and tables are read and its bands may run; when it is over STATUS is written and
the completion counter incremented; a killed launch's work is discarded once what others may see is done. The order of
the record's checks and the causes reported are the model's (DEDUCED, log 44). -/
def Obligations.LaunchesRunFromRecordToStatus : Prop :=
  (∀ s queue (record : Word) root, s.hub.queues[queue]? = some root →
    let id := s.hub.nextLaunch
    ∃ t y, exec (.launchDoorbell queue record) s = .next t ∧ t.mem = s.mem ∧ t.hub.nextLaunch = id + 1 ∧
      t.launches.get? id = some y ∧ y.root = root ∧ y.at' = record.toNat ∧
      (record.toNat % 256 = 0 → y.phase = .accepted ∧ t.hub.reports = s.hub.reports) ∧
      (record.toNat % 256 ≠ 0 → y.phase = .complete ∧ y.status = 1 ∧ t.hub.reports = s.hub.reports ++ [⟨id, 1, 0, 0⟩])) ∧
  (∀ s l x, s.launches.get? l = some x → x.phase = .accepted →
    (∀ bs, HubReads s x.root x.at' 256 bs →
      let r := parseRecord bs
      ∃ t, exec (.launchRecordCheck l) s = .next t ∧ t.mem = s.mem ∧
        (∃ y, t.launches.get? l = some y ∧ y.record = some r ∧
          (recordOk bs r = true → r.fits s.hub.windowMiB = true → y = { x with record := some r, phase := .checked, waits := [] } ∧
            t.hub = { s.hub with asks := t.hub.asks })) ∧
        (recordOk bs r = false → Refused s t l 1) ∧
        (recordOk bs r = true → r.fits s.hub.windowMiB = false → Refused s t l 2)) ∧
    (x.record = none → s.unitRead l x.root x.at' 256 = (.fail, s) → ∃ t, exec (.launchRecordCheck l) s = .next t ∧ t.mem = s.mem ∧
      Refused s t l 3) ∧
    ∀ ps u, s.unitRead l x.root x.at' 256 = (.wait ps, u) → ∃ t, exec (.launchRecordCheck l) s = .next t ∧ t.mem = s.mem ∧
      t.launches.get? l = some { x with waits := ps } ∧ t.hub = u.hub) ∧
  (∀ s l x r (b : Nat → List Byte), s.launches.get? l = some x → x.phase = .checked → x.record = some r →
    (∀ d ∈ r.deps, d.1 ≠ 0 → HubReads s x.root d.1 8 (b d.1)) →
    ∃ t y, exec (.dependenceRead l) s = .next t ∧ t.mem = s.mem ∧ t.launches.get? l = some y ∧ y.phase = .checked ∧
      y.record = some r ∧ ∀ i d, r.deps[i]? = some d → (i ∈ y.met ↔ d.1 = 0 ∨ d.2 ≤ leNat (b d.1))) ∧
  (∀ s l x r cb chb hb rb tb sb ch, s.launches.get? l = some x → x.phase = .checked → x.record = some r → x.got = 0 →
    x.rtab = none → x.chans = [] → x.sched = [] → (∀ i < r.deps.length, i ∈ x.met) →
    TableAt s x.root r.caddr 4 cb True →
    let count := if r.caddr = 0 then r.tcount else leNat cb
    let word (bs : List Byte) (n i : Nat) : Nat := leNat ((bs.drop (n * i)).take n)
    (count ≠ 0 →
      (r.nchan = 0 ∧ ch = [] ∨ r.nchan ≠ 0 ∧ HubReads s x.root r.chanp (16 * r.nchan) chb ∧ chanTable chb count r.nchan = some ch) ∧
      TableAt s x.root r.rtab 16 hb (routeHeadOk hb = true ∧ HubReads s x.root (r.rtab + 16) (4 * word hb 4 1) rb ∧
        ∀ i < word hb 4 1, routeEntryOk (BitVec.ofNat 32 (word rb 4 i)) = true) ∧
      TableAt s x.root r.tree 64 tb (∃ d, treeDesc tb r = some d) ∧
      TableAt s x.root r.sched (2 * r.slen) sb (∀ i < r.slen, word sb 2 i % 128 = 0)) →
    ∃ t y, exec (.dependencesMet l) s = .next t ∧ t.mem = s.mem ∧ t.launches.get? l = some y ∧ y.phase = .running ∧
      y.count = count ∧ y.since = s.tick ∧ (count ≠ 0 → y.chans = ch ∧
        (r.rtab ≠ 0 → y.rtab = some ((List.range (word hb 4 1)).map fun i => BitVec.ofNat 32 (word rb 4 i))) ∧
        (r.sched ≠ 0 → y.sched = (List.range r.slen).map (word sb 2)))) ∧
  (∀ s l x r segs, s.launches.get? l = some x → x.record = some r → LaunchOver x →
    HubWrites s x.root (x.at' + 154) 1 .write segs →
    let u := State.putSegs segs (natLE x.status 1) s
    (∀ n segs', n = r.cinc → n ≠ 0 → HubWrites u x.root n 8 .both segs' →
      ∃ t y, exec (.launchComplete l) s = .next t ∧ t.launches.get? l = some y ∧ y.phase = .complete ∧
        t.mem = writeOver u.mem segs' (natLE (leNat (readOver u.mem segs') + r.cval.toNat) 8)) ∧
    (r.cinc = 0 → ∃ t y, exec (.launchComplete l) s = .next t ∧ t.launches.get? l = some y ∧ y.phase = .complete ∧
      t.mem = writeOver s.mem segs (natLE x.status 1) ∧ ∀ q ∈ t.teams, q.2.launch ≠ l)) ∧
  ∀ s l x, s.launches.get? l = some x → x.phase = .running → x.killed ≠ none →
    let ours (ctx : Nat) : Prop := ∃ c, (ctx, c) ∈ s.ctxs ∧ ∃ tm, (c.team, tm) ∈ s.teams ∧ tm.launch = l
    ((∃ o ∈ s.pend, ours o.2.ctx ∧ o.2.mustFinish = true) → exec (.launchKill l) s = .next s) ∧
    ((∀ o ∈ s.pend, ours o.2.ctx → o.2.mustFinish = false) → (∀ c ∈ s.ctxs, ours c.1 → ∀ q ∈ c.2.queue, q.faulted = true) →
      ∃ t, exec (.launchKill l) s = .next t ∧ t.mem = s.mem ∧ t.launches = s.launches ∧
        (∀ k tm tid th, (k, tm) ∈ s.teams → tm.launch = l → tid < 2048 → t.thread k tid = some th →
          th.done = true ∧ th.v = [] ∧ th.h = [] ∧ th.resv = none) ∧
        (∀ c ∈ t.ctxs, ∀ tm, (c.2.team, tm) ∈ s.teams → tm.launch ≠ l) ∧ ∀ o ∈ t.pend, ours o.2.ctx → o.2.releases = true)

/-- R27, R29, R64, R265 to R272, R278, R410: the next band of a launch is placed whole, each team with its threads and
home contexts; a team whose threads are done and whose contexts are gone is freed; a band that waits too long stops
unpinned bands of lower priority, whose reservations end; they are saved once their work has drained, loads still out
after 4096 cycles going to the operand log; a saved band is restored, and a running one moved, to other cores with its
scratchpad. The image of a saved context holds what R271 says, where its page is present, and its restoration reads
it: a changed register is taken over, a changed header traps ILLOP. The form of a placement, what is saved of a team
and which bands are stopped are the model's (DEDUCED, logs 42, 43, 45 and 46), as is the place of an image (DESIGN
CHOICE, log 41). -/
def Obligations.BandsArePlacedStoppedAndRestored : Prop :=
  (∀ s l x r, BandNext s l x r → s.bandPlace ((x.band r).map fun _ => r.room) (s.mayPlace x r.prio) = none →
    ∃ t, exec (.bandPlacement l) s = .next t ∧ t = { s with launches := t.launches } ∧
      t.launches.get? l = some { x with waiting := true }) ∧
  (∀ s l x r p, BandNext s l x r → s.bandPlace ((x.band r).map fun _ => r.room) (s.mayPlace x r.prio) = some p →
    let n := min r.band (x.count - x.next)
    ∃ t y, exec (.bandPlacement l) s = .next t ∧ t.launches.get? l = some y ∧ y.next = x.next + n ∧ y.since = s.tick ∧
      y.waiting = false ∧
      p.length = n ∧ (∀ (i : Nat) q, p[i]? = some q → ∃ key, s.nextId ≤ key ∧ Started t key l (x.next + i) r q) ∧
      ((∀ c ∈ s.ctxs, c.1 < s.nextId) → (∀ c ∈ t.ctxs, s.nextId ≤ c.1 → HomeCtx c.2 r) ∧
        (0 < r.w → 0 < r.tsize → n ≠ 0 → ∃ c ∈ t.ctxs, s.nextId ≤ c.1 ∧ ∃ a ∈ c.2.p0, 0 ∈ a.lanes))) ∧
  (∀ s k tm, s.teams.get? k = some tm → tm.freed = false →
    let gone : Prop := (∀ q ∈ s.threads, q.1 / 2048 = k → q.2.done = true) ∧ ∀ c ∈ s.ctxs, c.2.team ≠ k
    (¬gone → exec (.teamFree k) s = .next s) ∧
    (gone → ∃ t u, exec (.teamFree k) s = .next t ∧ t.mem = s.mem ∧ t.teams.get? k = some u ∧ u.freed = true ∧
      (∀ q ∈ t.threads, q.1 / 2048 ≠ k) ∧ (∀ c ∈ tm.cores, ∀ q ∈ (t.core c).rows, q.2.1 ≠ k ∧
        ∀ due ∈ s.releases k tm, due.1 = c → ¬(due.2.1 ≤ q.1 ∧ q.1 < due.2.1 + due.2.2)) ∧
      ∀ y, s.launches.get? tm.launch = some y → t.launches.get? tm.launch = some { y with finished := y.finished + 1 })) ∧
  (∀ s l x r d vs, BandNext s l x r → (∀ q ∈ s.teams, q.2.stopAt = none) →
    let band := (x.band r).map fun _ => r.room
    let asks (d : Nat) : Prop := (s.die d).off = false ∧ (s.die d).held = false ∧
      ticksLong (s.die d).preemptAfter ≤ s.tick - x.since
    s.bandPlace band (s.mayPlace x r.prio) = none → d < 4 → asks d → s.victimsFor d r.prio band = some vs →
    (∀ c < d, asks c → s.victimsFor c r.prio band = none) →
    ∃ t, exec (.preemptionTimer l) s = .next t ∧
      t = { s with agenda := s.agenda ++ vs.map fun k => Turn.event 0 (.preemptionStop k) } ∧
      ∀ k ∈ vs, ∃ tm, (k, tm) ∈ s.teams ∧ tm.freed = false ∧ Unpinned s (s.bandOf k) ∧
        ∀ y, s.launches.get? tm.launch = some y → y.prioOf < r.prio) ∧
  (∀ s k tm x y, (s.teams.map Prod.fst).Nodup → s.teams.get? k = some tm → s.launches.get? tm.launch = some x →
    s.nextVictim k tm y = true → Unpinned s (s.bandOf k) ∧ x.prioOf < y.prioOf ∧ y.phase = .running ∧ y.killed = none ∧
      y.next < y.count ∧ ticksLong (s.die tm.die).preemptAfter ≤ s.tick - y.since) ∧
  (∀ s k tm, s.teams.get? k = some tm → tm.freed = false → s.teamRuns k = true → (∃ y ∈ s.launches, s.nextVictim k tm y.2 = true) →
    ∃ t, exec (.preemptionStop k) s = .next t ∧ t = { s with teams := t.teams, threads := t.threads } ∧
      (∀ j u, s.teams.get? j = some u → t.teams.get? j = some (if j ∈ bandKeys s k then { u with stopAt := some (s.cyc tm.die) } else u)) ∧
      ∀ j tid th, tid < 2048 → s.thread j tid = some th →
        t.thread j tid = some (if j ∈ bandKeys s k then { th with resv := none } else th)) ∧
  (∀ s k tm t0, s.teams.get? k = some tm → tm.stopAt = some t0 →
    let keys := bandKeys s k
    let q := s.quiet keys
    (q.1 = false ∨ q.2 = true ∧ s.cyc tm.die - t0 < 4096 → exec (.loadDrainTimeout k) s = .next s) ∧
    (q.1 = true → (q.2 = false ∨ 4096 ≤ s.cyc tm.die - t0) →
      (∀ o ∈ s.pend, ∀ d c, o.2.work = .sld d → s.ctxs.get? o.2.ctx = some c → c.team ∈ keys → o.2.peer = true) →
      ∃ t, exec (.loadDrainTimeout k) s = .next t ∧ t.launches = s.launches ∧ t.threads = s.threads ∧
        ((∀ u ∈ s.teams, ∀ side off, s.areaKey u.2 side off = none) → t.mem = s.mem) ∧
        (∀ j u, s.teams.get? j = some u → ∃ v, t.teams.get? j =
          some (if j ∈ keys then { u with saved := true, stopAt := none, slots := v } else { u with slots := v })) ∧
        (∀ id c, (s.ctxs.map Prod.fst).Nodup → s.ctxs.get? id = some c → c.team ∈ keys → ∃ d, t.ctxs.get? id = some d ∧
          d.p0 = c.p0 ∧ d.p1 = c.p1 ∧ (c.phase = .resident → d.phase = .saved ∧
            ((s.imageFor id c).isSome = true → ∃ own, d.image = c.imageBytes ++ own ∧ d.image.length ≤ 0x8000))) ∧
        ∀ id o c a, s.pend.get? id = some o → s.ctxs.get? o.ctx = some c → c.team ∈ keys → o.work = .load → o.acc = some a →
          a.items ≠ [] → o.faults = [] → o.failed = none → t.pend.get? id = none ∧
          ∀ i ∈ a.items, (a.once = true ∨ ∃ n v, Res.v i.tid n v ∈ o.res) →
            ∃ d, t.ctxs.get? o.ctx = some d ∧ ∃ e ∈ d.log, e.id = id ∧ (if o.peer = true then i else o.performed i) ∈ e.acc.items)) ∧
  (∀ (s : State) id c tm i key, s.ctxs.get? id = some c → s.teams.get? c.team = some tm → s.imageFor id c = some i →
    s.areaKey tm (tm.side c.core) (0x10000 + 0x8000 * i) = some key →
    ∃ own, (s.saveImage id).mem = memWrites s.mem key (c.imageBytes ++ own) ∧
      (s.saveImage id).ctxs.get? id = some { c with image := c.imageBytes ++ own, imageAt := i }) ∧
  (∀ s k core band tm x r p, BandIs s k band → s.teams.get? k = some tm → tm.freed = false → (∀ q ∈ band, q.2.saved = true) →
    s.launches.get? tm.launch = some x → x.record = some r → x.killed = none → s.higherWaits r.prio tm.die = false →
    (s.die tm.die).held = false → (s.die tm.die).off = false → NoLogs s →
    (s.without (bandKeys s k)).bandOnDie tm.die (bandAsks s band r) = some p →
    (∃ sl y, p.head? = some sl ∧ sl.head? = some y ∧ y.core = core) →
    ∃ t, exec (.teamRestore k core) s = .next t ∧ BandMoved s t band p r ∧
      ∀ id c key a, (s.ctxs.map Prod.fst).Nodup → s.ctxs.get? id = some c → c.team ∈ bandKeys s k → c.image ≠ [] →
        s.imageKey c = some key → c.p0.head? = some a →
        let new := memReads s.mem key c.image.length
        ∃ d b, t.ctxs.get? id = some d ∧ d.p0.head? = some b ∧ d.image = [] ∧
          (new.take 128 ≠ c.image.take 128 → ∃ h ∈ d.held, h.uid = a.uid ∧ h.trap.code = 0x01 ∧ h.trap.uni = true) ∧
          ∀ i < 160, partOf new (272 + 8 * i) 8 ≠ partOf c.image (272 + 8 * i) 8 →
            b.u i = ⟨BitVec.ofNat 64 (partOf new (272 + 8 * i) 8), (a.u i).full⟩) ∧
  (∀ c : Ctx, ImageHolds c) ∧
  ∀ s k core band tm x r p, BandIs s k band → s.teams.get? k = some tm → tm.freed = false → s.teamRuns k = true →
    Unpinned s band → s.quiet (bandKeys s k) = (true, false) → s.launches.get? tm.launch = some x → x.record = some r →
    (∃ y ∈ s.launches, y.2.phase = .running ∧ y.2.killed = none ∧ y.2.next < y.2.count) → dieOf core = tm.die →
    (tm.cores.length = 2 → core % 2 = 0) → (r.sched ≠ 0 → core % 4 = 0) →
    let asks := bandAsks s band r
    State.fitBand (s.without (bandKeys s k)) (min (384 * (tm.die + 1)) (core + (asks.map fun a => a.tids.length).sum))
      asks [] core [] = some p →
    ∃ t, exec (.teamMigration k core) s = .next t ∧ BandMoved { s with mem := (s.saveTeams (bandKeys s k)).mem } t band p r

/-! ### Debugging -/

/-- R64, R271, R279 to R286: a held die issues nothing; it is armed and disarmed; an interval begins when the one before
it is over, or ends early, and a capture keeps its snapshot; a precise stop restores the snapshot of a kept interval,
runs its turns, and the die stands at the point with its own part of the device; it resumes where it was held, a BRK
that held it retiring; a register of a held or saved path changes; the host writes memory, where locked K bits stay.
How BRK retires at the resumption and how a snapshot is kept are the model's (DEDUCED, log 47). -/
def Obligations.DebuggerHoldsStopsAndResumes : Prop :=
  (∀ s d, (∃ t, exec (.dieHold d) s = .next t ∧ OnlyDie s t d (fun x => { x with held := true }) ∧
      ∀ c a, dieOf c.core = d → t.canIssue c a = false) ∧
    (∃ t, exec (.dieArm d) s = .next t ∧ OnlyDie s t d fun x => { x with armed := true }) ∧
    (∃ t, exec (.dieDisarm d) s = .next t ∧ OnlyDie s t d fun x => { x with armed := false }) ∧
    (∃ t, exec (.captureDisable d) s = .next t ∧ OnlyDie s t d fun x => { x with capturing := false }) ∧
    ∃ t, exec (.captureEnable d) s = .next t ∧ (t.die d).capturing = true ∧ IntervalBegins s t d 0 [] true) ∧
  (∀ s d,
    let x := s.die d
    let next := (x.interval + 1) % 2 ^ 32
    (x.held = true ∨ s.cyc d - x.intervalAt < x.intervalLen → exec (.checkpointIntervalStart d) s = .next s) ∧
    (x.held = false → x.intervalLen ≤ s.cyc d - x.intervalAt →
      ∃ t, exec (.checkpointIntervalStart d) s = .next t ∧ IntervalBegins s t d next x.capture x.capturing) ∧
    (x.held = false → x.capturing = true →
      ∃ t, exec (.intervalEarlyEnd d) s = .next t ∧ IntervalBegins s t d next x.capture true) ∧
    (x.held = true ∨ x.capturing = false → exec (.intervalEarlyEnd d) s = .next s)) ∧
  (∀ s (p : Point) c,
    let d := dieOf p.core
    let x := s.die d
    x.capture.find? (fun c => c.interval = p.interval) = some c → p.core < 1536 → x.held = true → x.changed = false →
    s.replaying = false → (∃ y, c.snap.dies.get? d = some y) →
    ∃ t live, exec (.preciseStop p) s = .next t ∧ t.mem = c.snap.mem ∧ t.threads = c.snap.threads ∧ t.ctxs = c.snap.ctxs ∧
      t.teams = c.snap.teams ∧ t.pend = c.snap.pend ∧ t.agenda = c.turns ∧ (t.die d).target = some p ∧ (t.die d).held = false ∧
      (t.die d).live = some live ∧ SplitMem live.mem (x.live.getD s.snap).mem s.mem d) ∧
  (∀ s d x p live, s.dies.find? (fun q => q.2.target.isSome) = some (d, x) → x.target = some p → x.live = some live →
    s.atPoint p = true → ∃ t, step s = .next t ∧ (t.die d).held = true ∧ (t.die d).target = none ∧ t.agenda = [] ∧
      SplitMem t.mem s.mem live.mem d) ∧
  (∀ s d,
    let x := s.die d
    (x.held = false → exec (.dieResume d) s = .next s) ∧
    (x.held = true → s.replaying = true → ∃ t, exec (.dieResume d) s = .next t ∧ (t.die d).held = false ∧
      (t.die d).live = x.live ∧ (t.die d).changed = x.changed ∧ t.mem = s.mem) ∧
    (x.held = true → s.replaying = false → ∃ t, exec (.dieResume d) s = .next t ∧ (t.die d).held = false ∧
      (t.die d).live = none ∧ (t.die d).changed = false ∧
      (x.live = none ∨ x.changed = true → t.mem = s.mem ∧ ((s.ctxs.map Prod.fst).Nodup → ∀ id c (slot : Nat) a, s.ctxs.get? id = some c →
        dieOf c.core = d → slot < 2 → (c.stack slot).head? = some a → a.status = .again .held →
        ∃ b, t.act? ⟨id, slot⟩ = some b ∧ b.pc = a.pc + 8 ∧ b.status = .ready ∧ b.lanes = a.lanes)) ∧
      ∀ live, x.live = some live → x.changed = false → SplitMem t.mem live.mem s.mem d)) ∧
  (∀ s r c a (ch : RegChange), s.ctxs.get? r.ctx = some c → s.act? r = some a →
    ((s.die (dieOf c.core)).held = false → c.phase ≠ .saved → exec (.debuggerRegisterChange r ch) s = .next s) ∧
    ((s.die (dieOf c.core)).held = true ∨ c.phase = .saved →
      ∃ t, exec (.debuggerRegisterChange r ch) s = .next t ∧ (c.image = [] → t.mem = s.mem ∧ t.threads = s.threads) ∧
        (∀ (n : BitVec 8) v key, ch = .s n v → n.toNat < 160 → c.image ≠ [] → c.phase = .saved → s.imageKey c = some key →
          t.mem = memWrites s.mem (key + sectionAt r.slot + (144 + 8 * n.toNat)) (natLE v.toNat 8)) ∧
        ((s.die (dieOf c.core)).held = true → (t.die (dieOf c.core)).changed = true) ∧
        (∀ (n : BitVec 8) v, ch = .s n v → n.toNat < 160 → t.act? r = some { a with s := a.s.set n.toNat ⟨v, (a.u n.toNat).full⟩ }) ∧
        ∀ (n : BitVec 4) v, ch = .k n v → t.act? r = some { a with k := a.k.set n.toNat ⟨formOf v, (a.kr n.toNat).full⟩ })) ∧
  ∀ s pa bs, pa + bs.length ≤ 2 ^ 48 → ∃ t, exec (.hostWriteIntoDieMemory pa bs) s = .next t ∧ t.threads = s.threads ∧
    t.mem = s.hub.kBits.foldl (fun m a => memWrite m (dieKey a) (memRead m (dieKey a) ||| 0x40)) (memWrites s.mem (dieKey pa) bs)

/-! ### Sampling and tracing -/

/-- R288 to R294: sampling and set-trace recording are enabled per die; where the countdown of a scheduler ends the
instruction that issues next is tagged and a new gap from 1 to 24,575 is drawn; its record of 64 bytes goes to the ring
after its last write-back; a ring takes the SYNC record of each multiple of 1,024 ticks; a full page's next page is dropped
where it is unread, its records counted with the times of the first and the last, and told by a LOSS record of the tick
after the drop, first on the page; a read page that moves frees what it passes. The gap that is drawn is a free value;
where a ring's LOSS record stands is the model's (DEDUCED, log 48), and so is a garnet record's split into stages
(DESIGN CHOICE, log 66). -/
def Obligations.SamplesAndRecordsReachTheirRings : Prop :=
  (∀ s d, let from' (x : Die) : Nat := if x.tracing.isSome || x.sampling then x.traceFrom else s.ticks / 1024
    (∃ t, exec (.samplingEnable d) s = .next t ∧ OnlyDie s t d fun x => { x with sampling := true, traceFrom := from' x }) ∧
    ∀ l, ∃ t, exec (.setTraceEnable d l) s = .next t ∧ OnlyDie s t d fun x => { x with tracing := some l, traceFrom := from' x }) ∧
  (∀ s u core r c a l f, (s.die (dieOf core)).sampling = true → (s.core core).garnet ≤ 1 →
    best (s.cands (some core) none) = some r → s.ctxs.get? r.ctx = some c → s.act? r = some a → s.launchOf c = some l →
    s.wordsFor c a l.root = (.words f, u) →
    ∃ t g x, exec (.garnetTag core) s = .next t ∧ t = { u with cores := t.cores, fresh := t.fresh } ∧
      1 ≤ g ∧ g ≤ 24575 ∧ (∀ b, b ≠ core → t.core b = u.core b) ∧
      t.core core = { u.core core with garnet := g + f.instr.2, tagged := (u.core core).tagged ++ [x] } ∧
      x.ctx = r.ctx ∧ x.path = r.slot ∧ x.uid = a.uid ∧ x.pc = a.pc ∧
      x.point = ⟨(u.die (dieOf c.core)).interval, c.core, c.slot, c.serial, c.count⟩ ∧
      x.opc = (if f.word.getLsbD 63 then 0xFF else (f.word.extractLsb' 55 8).toNat) ∧ x.ready = a.since ∧
      x.issued = u.cycOf c.core ∧ x.result = none ∧ x.slackOut = none ∧ x.slackIn = none ∧
      ∀ e, u.envAt ⟨r, a.pc, f.instr.2⟩ = some e → x.lanes = (e.exec u (wordGuard f.word)).length) ∧
  (∀ s core x trap, (s.core core).tagged.find? (fun y => (s.tagOver y).isSome) = some x → s.tagOver x = some trap →
    let now := s.cycOf core
    ∃ t tail, exec (.garnetRecord core) s = .next t ∧ t = { s with cores := t.cores } ∧ (∀ b, b ≠ core → t.core b = s.core b) ∧
      t.core core = { s.core core with
        tagged := (s.core core).tagged.erase x, ring := s.ringPut (dieOf core) (s.core core).ring 8 x.point.slot x.path tail } ∧
      tail.length = 60 ∧ partOf tail 0 4 = x.point.count % 2 ^ 32 ∧ partOf tail 4 4 = x.point.interval % 2 ^ 32 ∧
      partOf tail 8 2 = x.point.core % 2 ^ 16 ∧ partOf tail 10 1 = x.point.serial % 2 ^ 8 ∧ partOf tail 11 1 = x.lanes % 2 ^ 8 ∧
      partOf tail 12 8 = x.pc % 2 ^ 64 ∧ partOf tail 40 1 = x.level % 2 ^ 8 ∧ partOf tail 41 1 = trap % 2 ^ 8 ∧
      partOf tail 42 1 = x.flags.toNat ∧ partOf tail 43 1 = x.opc % 2 ^ 8 ∧
      partOf tail 44 2 = ((x.slackOut.map (min · 4095)).getD 0xFFFF) ∧ partOf tail 46 2 = ((x.slackIn.map (min · 4095)).getD 0xFFFF) ∧
      (∀ b ∈ tail.drop 48, b = 0) ∧ (trap ≠ 0 → partOf tail 36 4 = 0) ∧
      (x.ready ≤ x.issued → x.issued ≤ x.result.getD now → x.result.getD now ≤ now → now - x.ready < 2 ^ 32 →
        partOf tail 20 4 + partOf tail 24 4 + partOf tail 28 4 + partOf tail 32 4 + partOf tail 36 4 = now - x.ready)) ∧
  ∀ s ref,
    let r := s.ringOf ref
    let d := ringDie ref
    let n := s.ticks / 1024
    let up := s.ringUp d r
    (s.ringOn ref = false → exec (.traceSync ref) s = .next s) ∧
    (s.ringOn ref = true → ∃ t, exec (.traceSync ref) s = .next t ∧ RingIs s t ref up) ∧
    (r.lossDue = none → r.data ≠ [] → (s.die d).traceFrom ≤ r.synced →
      (n ≤ r.synced → up = r) ∧
      (n = r.synced + 1 → pageUsed r.page + 24 ≤ 4096 → ∃ x, IsSync x (1024 * n) (s.cycTick d (1024 * n)) ∧
        up = { r with data := r.data.set r.write (r.page ++ [x]), synced := n })) ∧
    (r.lossDue = none → exec (.traceLoss ref) s = .next s) ∧
    (∀ k, r.lossDue = some k → ∃ t, exec (.traceLoss ref) s = .next t ∧ RingIs s t ref up ∧
      (k < s.ticks → (s.die d).traceFrom ≤ r.synced → n ≤ r.synced → ∃ x, IsLoss x r (k + 1) (s.cycTick d (k + 1)) ∧
        up = r.waiting.foldl (fun q y => q.put (k + 1) (s.cycTick d (k + 1)) y)
          { r with data := r.data.set r.write [x], lost := 0, lossDue := none, waiting := [] })) ∧
    (∀ old, up.data.get? up.next = some old → 4096 < pageUsed up.page + 8 →
      ∃ t u, exec (.tracePageDrop ref) s = .next t ∧ RingIs s t ref u ∧ u.write = (up.write + 1) % up.pages ∧
        u.data = up.data.set u.write [] ∧ u.read = (u.write + 1) % up.pages ∧ u.lost = up.lost + old.length ∧
        u.lossDue = some s.ticks ∧
        (∀ x, old.head? = some x → u.lostFirst = if up.lost = 0 then x.tai else up.lostFirst) ∧
        ∀ x, old.getLast? = some x → u.lostLast = x.tai) ∧
    (up.data.get? up.next = none ∨ pageUsed up.page + 8 ≤ 4096 → exec (.tracePageDrop ref) s = .next s) ∧
    ∀ page, (r.pages ≤ page → exec (.traceReadPageMove ref page) s = .next s) ∧
      (page < r.pages → ∃ t u, exec (.traceReadPageMove ref page) s = .next t ∧ RingIs s t ref u ∧ u.read = page ∧
        u.write = r.write ∧ u.lost = r.lost ∧ (∀ q ∈ u.data, q ∈ r.data) ∧ ∀ q ∈ r.data,
          (q ∉ u.data ↔ q.1 ≠ r.write ∧ ∃ i < (page + r.pages - r.read) % r.pages, q.1 = (r.read + i) % r.pages))

/-! ### Boot, status and repair -/

/-- R298 to R303, R311, R312, R14, R174, R210, R269, R281: the stages of boot follow each other; an image is accepted
where its signature verifies and its version is not below the fused one, otherwise the device is in recovery; every
change of clock is one tick for a die, and its rings take a SYNC record; a stack that shuts down kills the launches on
it with STATUS 6; settings lie within their ranges; the responder answers from stage 3 on; DSTAT shows what R303 says,
and reading it clears OVC. The responder's code numbers and its stage are the model's (PRESUMED, log 51), so are the
limits of the pre-emption setting in reference ticks (DEDUCED, log 53). -/
def Obligations.BootReachesServiceAndAnswers : Prop :=
  (∀ s, ∃ t, exec .deviceReset s = .next t ∧ t.hub.stage = 1 ∧ t.hub.service = .booting ∧ t.threads = [] ∧ t.ctxs = [] ∧
    t.teams = [] ∧ t.launches = [] ∧ t.pend = [] ∧ t.cores = [] ∧ t.poison = [] ∧ t.now = 0 ∧ t.agenda = [] ∧ t.tick = s.tick ∧
    (∀ d < 4, t.die d = { Die.reset with tickAt := s.tick }) ∧
    t.hub.nvme = s.hub.nvme ∧ t.hub.fuseVersion = s.hub.fuseVersion ∧ t.hub.nextLaunch = s.hub.nextLaunch ∧
    ∀ k, 2 ^ 48 ≤ k → k < 2 ^ 49 → memRead t.mem k = memRead s.mem k) ∧
  (∀ s f, let ok : Prop := f.sigOk = true ∧ s.hub.fuseVersion ≤ f.version
    (s.hub.stage = 1 → s.hub.nvme = some f → ok → ∃ t, exec .firmwareVerify s = .next t ∧ OnlyHub s t fun h =>
      { h with stage := 2, service := .booting, recoveryImage := false, measured := [h.fuseMeasure, f.measure] }) ∧
    (s.hub.stage = 1 → s.hub.nvme = none ∨ s.hub.nvme = some f ∧ ¬ok →
      ∃ t, exec .firmwareVerify s = .next t ∧ OnlyHub s t fun h => { h with service := .recovery }) ∧
    (s.hub.service = .recovery → ok → ∃ t, exec (.recoveryDoorbell f) s = .next t ∧ OnlyHub s t fun h =>
      { h with stage := 2, service := .booting, recoveryImage := true, window := some f, measured := [h.fuseMeasure, f.measure] }) ∧
    (s.hub.service = .recovery → ¬ok →
      ∃ t, exec (.recoveryDoorbell f) s = .next t ∧ OnlyHub s t fun h => { h with window := some f }) ∧
    (s.hub.recoveryImage = true → 3 ≤ s.hub.stage →
      ∃ t, exec .firmwareNvmeWrite s = .next t ∧ OnlyHub s t fun h => { h with nvme := h.window }) ∧
    (s.hub.recoveryImage = false → exec .firmwareNvmeWrite s = .next s)) ∧
  (∀ s (k : KernelSetup), (s.hub.stage = 2 → k.windowMiB ≤ 256 → k.windowMiB % 32 = 0 →
      ∃ t, exec (.mgmtKernelStart k) s = .next t ∧ t = { s with hub := t.hub, mem := t.mem } ∧ t.mem = locked s.mem k.kBits ∧
        t.hub = { s.hub with stage := 3, windowMiB := k.windowMiB, queues := k.roots, peerRoot := k.peerRoot, kBits := k.kBits,
                             measured := s.hub.measured ++ [k.configMeasure, k.remapMeasure] }) ∧
    (s.hub.stage = 3 → ∃ t, exec .reducedServiceBegin s = .next t ∧ Clocked s t [0, 1, 2, 3] 800 ∧
      t.hub = { s.hub with stage := 4, service := .reduced, ring := t.hub.ring } ∧ (s.hub.ring.data = [] → t.hub.ring = s.hub.ring)) ∧
    (s.hub.stage = 4 → ∃ t, exec .stackCalibration s = .next t ∧ OnlyHub s t fun h => { h with stage := 5 }) ∧
    (s.hub.stage = 5 → ∃ t, exec .fullServiceBegin s = .next t ∧ Clocked s t [0, 1, 2, 3] 1600 ∧
      t.hub = { s.hub with stage := 6, service := .full, ring := t.hub.ring } ∧ (s.hub.ring.data = [] → t.hub.ring = s.hub.ring)) ∧
    ∀ i n, (i = .firmwareVerify ∧ n = 1 ∨ i = .mgmtKernelStart k ∧ n = 2 ∨ i = .reducedServiceBegin ∧ n = 3 ∨
      i = .stackCalibration ∧ n = 4 ∨ i = .fullServiceBegin ∧ n = 5) → s.hub.stage ≠ n → exec i s = .next s) ∧
  (∀ s d mhz, let old := (s.die d).mhz
    let ok : Prop := s.hub.service = .full ∧ 800 ≤ mhz ∧ mhz ≤ 1600 ∧ mhz % 100 = 0 ∧ (mhz = old + 100 ∨ old = mhz + 100)
    (¬ok → exec (.clockStep d mhz) s = .next s) ∧
    (ok → ∃ t, exec (.clockStep d mhz) s = .next t ∧ Clocked s t [d] mhz ∧ (d ∈ t.hub.throttled ↔ mhz < 1600) ∧
      ∀ c, c ≠ d → (c ∈ t.hub.throttled ↔ c ∈ s.hub.throttled))) ∧
  (∀ s d, ∃ t, exec (.stackShutdown d) s = .next t ∧ (t.die d).off = true ∧ t.mem = s.mem ∧ t.threads = s.threads ∧
    (∃ r ∈ t.hub.reports, r.cause = 7 ∧ r.code = d) ∧
    ∀ l y, s.launches.get? l = some y → y.killed = none →
      (StandsOn s l d → t.launches.get? l = some { y with killed := some 6, status := 6 } ∧
        ∃ r ∈ t.hub.reports, r.launch = l ∧ r.cause = 6) ∧
      (¬StandsOn s l d → t.launches.get? l = some y)) ∧
  (∀ s d n (mk : Nat → Nat → Setting) lo hi (f : Die → Die),
    (mk = .probeAfter ∧ lo = 1024 ∧ hi = 65535 ∧ (f = fun x => { x with probeAfter := n }) ∨
      mk = .preemptAfter ∧ lo = 1000 ∧ hi = 1000000 ∧ (f = fun x => { x with preemptAfter := n }) ∨
      mk = .intervalLength ∧ lo = 2 ^ 20 ∧ hi = 2 ^ 32 ∧ (f = fun x => { x with intervalLen := n })) →
    (lo ≤ n → n ≤ hi → ∃ t, exec (.mgmtConfigWrite (mk d n)) s = .next t ∧ OnlyDie s t d f) ∧
    (n < lo ∨ hi < n → exec (.mgmtConfigWrite (mk d n)) s = .next s)) ∧
  (∀ s ref n, let r := s.ringOf ref
    (1 ≤ n → n ≤ 65536 → r.data = [] →
      ∃ t, exec (.mgmtConfigWrite (.ringPages ref n)) s = .next t ∧ RingIs s t ref { r with pages := n }) ∧
    (n = 0 ∨ 65536 < n ∨ r.data ≠ [] → exec (.mgmtConfigWrite (.ringPages ref n)) s = .next s)) ∧
  (∀ s, 3 ≤ s.hub.stage →
    (∃ t, exec .getVersion s = .next t ∧ Answered s t 0x04 [0x13]) ∧ (∃ t v, exec .getCapabilities s = .next t ∧ Answered s t 0x61 [v]) ∧
    (∃ t v, exec (.negotiateAlgorithms true) s = .next t ∧ Answered s t 0x63 [v]) ∧
    (∃ t v, exec .getDigests s = .next t ∧ Answered s t 0x01 [v]) ∧ (∃ t v, exec .getCertificate s = .next t ∧ Answered s t 0x02 [v]) ∧
    (∀ nonce, ∃ t v, exec (.challenge nonce) s = .next t ∧ Answered s t 0x03 [v]) ∧
    (∃ t, exec .getMeasurements s = .next t ∧ Answered s t 0x60 s.hub.measured) ∧
    ∀ i, (i = .negotiateAlgorithms false ∨ ∃ c, i = .spdmUnsupported c ∧ c ∉ [0x81, 0x82, 0x83, 0x84, 0xE0, 0xE1, 0xE3]) →
      ∃ t, exec i s = .next t ∧ Answered s t 0x7F [0x07]) ∧
  (∀ s, ∃ t w, exec .dstatRead s = .next t ∧ IsDstat w s ∧ OnlyHub s t fun h => { h with dstat := w, ovChanged := false }) ∧
  ∀ s (r : Readings), ∃ t, exec (.telemetry r) s = .next t ∧ OnlyHub s t fun h =>
    { h with readings := some r, counters := [0, 1, 2, 3].map fun d => (s.die d).overdue }

/-- R304 to R310: a lost layer begins a rebuild and changes no value; a sector is poisoned where a second one of its
stripe is unreadable; a column is rebuilt stripe by stripe; failed wires are remapped while a bus has at most 16, a
column both of whose buses are dead, or whose tables are lost and not rebuilt, is poisoned; scrubbing changes nothing;
a parity error drops a TLB entry or fetched words, and marks a dirty set slot. How poison is kept is the model's
(DEDUCED, log 49). -/
def Obligations.ColumnsAreRepairedAndScrubbed : Prop :=
  (∀ s core layer, layer < 8 → let k := s.core core
    ∃ t, exec (.columnLoss (.layer core layer)) s = .next t ∧ OnlyCore s t core { k with
      layersLost := if layer ∈ k.layersLost then k.layersLost else k.layersLost ++ [layer], rebuilt := 0 }) ∧
  (∀ s x, (∃ t, exec (.columnLoss (.sector x true)) s = .next t ∧ t = { s with poison := t.poison } ∧
      ∀ y, y ∈ t.poison ↔ y ∈ s.poison ∨ y = x) ∧ exec (.columnLoss (.sector x false)) s = .next s) ∧
  (∀ s core, let k := s.core core
    (k.layersLost ≠ [] ∨ k.remapBad = true → k.rebuilt < 2 ^ 20 → ∃ t, exec (.stripeRebuild core) s = .next t ∧
      OnlyCore s t core { k with rebuilt := k.rebuilt + 1, layersLost := if k.rebuilt + 1 = 2 ^ 20 then [] else k.layersLost }) ∧
    (k.layersLost = [] ∧ k.remapBad = false ∨ 2 ^ 20 ≤ k.rebuilt → exec (.stripeRebuild core) s = .next s)) ∧
  (∀ s core bus wire, bus < 2 → wire < 256 → let k := s.core core
    ∃ t u l, exec (.busWireRemap core bus wire) s = .next t ∧ OnlyCore s t core u ∧
      (∀ w, w ∈ l ↔ w ∈ k.badWires.getD bus [] ∨ w = wire) ∧ u = { k with badWires := k.badWires.set bus l, poisoned := u.poisoned } ∧
      (u.poisoned = true ↔ Cut u)) ∧
  (∀ s core bus failed, bus < 2 → (∀ w ∈ failed, w < 256) → let k := s.core core
    ∃ t u l, exec (.busCalibration core bus failed) s = .next t ∧ OnlyCore s t core u ∧ l.Nodup ∧ (∀ w, w ∈ l ↔ w ∈ failed) ∧
      u = { k with badWires := k.badWires.set bus l, poisoned := u.poisoned } ∧ (u.poisoned = true ↔ Cut u)) ∧
  (∀ s core, let k := s.core core
    ∃ t u, exec (.remapTableReload core) s = .next t ∧ OnlyCore s t core u ∧
      (k.remapBad = false → u = { k with remapBad := true, rebuilt := 0, poisoned := true }) ∧
      (k.remapBad = true → k.rebuilt = 2 ^ 20 → u = { k with remapBad := false, poisoned := u.poisoned } ∧ (u.poisoned = true ↔ Cut u)) ∧
      (k.remapBad = true → k.rebuilt ≠ 2 ^ 20 → u = k)) ∧
  (∀ s core, exec (.patrolScrub core) s = .next s) ∧
  (∀ s d i, ∃ t, exec (.parityError (.dieTlb d i)) s = .next t ∧ OnlyDie s t d fun x => { x with tlb := x.tlb.eraseIdx i }) ∧
  (∀ s core, (∀ i, ∃ t, exec (.parityError (.coreTlb core i)) s = .next t ∧
      OnlyCore s t core { s.core core with tlb := (s.core core).tlb.eraseIdx i }) ∧
    ∃ t, exec (.parityError (.icache core)) s = .next t ∧ t.mem = s.mem ∧ t.threads = s.threads ∧
      (t.core core).icache = [] ∧
      ∀ r c a, s.ctxs.get? r.ctx = some c → s.act? r = some a →
        t.act? r = some (if c.core = core then { a with ibuf := none } else a)) ∧
  ∀ s team side slot tm x, s.teams.get? team = some tm → tm.slots.get? (2 * slot + side) = some x → side < 2 →
    ∃ t u, exec (.parityError (.setSlot team side slot)) s = .next t ∧ t.mem = s.mem ∧ t.ctxs = s.ctxs ∧
      t.teams.get? team = some u ∧ u.slots.get? (2 * slot + side) = some (if x.dirty then { x with poisoned := true } else x) ∧
      ∀ j, j ≠ 2 * slot + side → u.slots.get? j = tm.slots.get? j

/-! ### Words and steps -/

/-- R313 to R330, in the words that the spec gives for them: control, sets, blocks, integers, floats, moves across lanes, memory,
engines, matrices, trees, special registers, a P word. -/
def Obligations.DecodesSpecWords : Prop :=
  decodeTableWord 64 0 = some .nop ∧
  decodeTableWord 64 0x0480000000000203 = some (.bar ⟨2, 3⟩) ∧
  decodeTableWord 64 0x090010100C000003 = some (.sandn ⟨4, 4, 3⟩) ∧
  decodeTableWord 128 0xC0000002000000060D80000408001000 = some (.fork ⟨1, 2, 4, 6⟩) ∧
  decodeTableWord 64 0x104C10080C010040 = some (.iadd ⟨some 3, false, .int32, .rne, 0, 4, .vec (.reg 2), .vec (.reg 3), .none, false, true, false⟩) ∧
  decodeTableWord 64 0x24002800 = none ∧
  decodeTableWord 64 0x2400280014000101 = some (.frnd ⟨none, false, .fp32, .rz, 0, 10, .none, .vec (.reg 5), .none, false, false, false⟩) ∧
  decodeTableWord 64 0x30002813C4000058 = some (.shfl ⟨none, .int32, .xor, 10, .reg 4, .vec (.const 1), false, false⟩) ∧
  decodeTableWord 128 0xC0000000000088003800A01800001040 =
    some (.ld ⟨none, false, false, .int32, .lg, false, 0, 40, .reg 6, none, .wide 0x8800, false, false⟩) ∧
  decodeTableWord 64 0x48001C0C100C0220 = some (.cpa ⟨none, 2, .reg 7, .reg 3, .reg 4, .reg 3, .imm 32, 0, false, false, false⟩) ∧
  decodeTableWord 64 0x51007C1854000200 = some (.mstr ⟨31, .reg 6, .reg 21, .imm 0, false, true, false, 0, false, 0, false, false⟩) ∧
  decodeTableWord 128 0xC341800000000000580028180C301020 = some (.desc ⟨10, 6, 3, 12, 0, false, 0, false, false, false, some (13, 6)⟩) ∧
  decodeTableWord 64 0x6000100000000007 = some (.csrr ⟨4, .sform⟩) ∧
  decodeTableWord 64 0x820405001C121400 =
    some (.pIadd ⟨4, .vec (.reg 5), false⟩ ⟨.fmul, ⟨9, .vec (.reg 10), false⟩⟩) ∧
  decodeTableWord 64 0x8204050004100C00 = none

/-- R313 to R330: every well-formed instruction word that is encoded is decoded to itself, whatever follows it. -/
def Obligations.EncodeThenDecode : Prop :=
  ∀ i : Instr, i.isWord = true → i ≠ .illegalWord → i.wf = true →
    ∀ tail, decode (bytesOf (encode i) ++ tail) = .ok (i, tail)

/-- R313 to R331: a word that decodes is a well-formed instruction's one encoding: no other word of the opcode table decodes to it. -/
def Obligations.DecodeThenEncode : Prop :=
  ∀ w next i n, decodeWords w next = .ok (i, n) → i.isWord = true ∧ i ≠ .illegalWord ∧ i.wf = true ∧
    (n = 1 ∧ encode i = [w] ∨ n = 2 ∧ ∃ x, next = some x ∧ encode i = [w, x])

/-- R18, R23, R313, R331, R332: a turn that issues a path executes the instruction that the bytes at its pc decode to, or that
INSTRUCTION_FETCH has brought; bytes that are none are the step ILLEGAL_WORD, one word long. -/
def Obligations.StepRunsDecodedWord : Prop :=
  ∀ s n r rest c a l, IssueTurn s n r rest c a l →
    (∀ f, a.ibuf = some f → f.addr = a.pc →
      ∃ s1, IssuedAs s s1 r c.core a.pc f.instr.2 n rest ∧ TurnAround s1 r (exec f.instr.1 s1) (step s)) ∧
    ∀ k, (∀ f, a.ibuf = some f → f.addr ≠ a.pc) → CodeAt s c.core (s.launchId c) l a.pc k →
      (∀ i tail, decode (memReads s.mem k 16) = .ok (i, tail) →
        ∃ s1, IssuedAs s s1 r c.core a.pc ((16 - tail.length) / 8) n rest ∧ TurnAround s1 r (exec i s1) (step s)) ∧
      ∀ x, decode (memReads s.mem k 16) = .error x →
        ∃ s1, IssuedAs s s1 r c.core a.pc 1 n rest ∧ TurnAround s1 r (exec .illegalWord s1) (step s)

/-! ### Invariants -/

/-- R210, R261, R279, R281, R285, R297, R298, R303: at reset the device is booting; nothing runs and nothing is launched,
the cycle count is 0, the first launch id is 1, no die is held, armed or captures, its interval is number 0 with the
default length, the probe threshold and the pre-emption wait have their defaults; and the invariant holds. That the overdue counters are 0 is the
model's choice (DESIGN CHOICE, log 5). -/
def Obligations.ResetMeetsInvariant : Prop :=
  let s := State.reset
  DeviceInv s ∧ s.hub.service = .booting ∧ s.hub.nextLaunch = 1 ∧ s.threads = [] ∧ s.ctxs = [] ∧ s.teams = [] ∧ s.launches = [] ∧
  s.pend = [] ∧ s.now = 0 ∧ ∀ d, (s.die d).held = false ∧ (s.die d).armed = false ∧ (s.die d).capturing = false ∧
    (s.die d).interval = 0 ∧ (s.die d).intervalLen = 2 ^ 26 ∧ (s.die d).probeAfter = 8192 ∧ (s.die d).preemptAfter = 10000 ∧ (s.die d).overdue = 0

/-- Every step keeps the invariant: memory keeps its canonical form, windows stay within their files (R351), a core's row
table names each row once (R139). -/
def Obligations.StepKeepsInvariant : Prop := ∀ s t, DeviceInv s → step s = .next t → DeviceInv t
end

