-- ==== Sys2Proof/Laws/Map.lean ====
section
/-!
SUPPORT. Finite maps: what a key reads after a write, a change or a removal.
-/

namespace Sys2Proof.Map

variable {α : Type}

@[simp] theorem get?_nil (k : Nat) : get? ([] : Map α) k = none := rfl

theorem get?_cons (j k : Nat) (x : α) (r : Map α) :
    get? ((j, x) :: r) k = if k = j then some x else get? r k := rfl

@[simp] theorem get?_set_self (m : Map α) (k : Nat) (v : α) : (m.set k v).get? k = some v := by
  induction m with
  | nil => simp [set, get?]
  | cons p r ih =>
    obtain ⟨j, x⟩ := p
    simp only [set]
    split
    · simp [get?]
    · split
      · simp [get?]
      · simp [get?, *]

theorem get?_set_of_ne (m : Map α) {k k' : Nat} (v : α) (h : k' ≠ k) : (m.set k v).get? k' = m.get? k' := by
  induction m with
  | nil => simp [set, get?, h]
  | cons p r ih =>
    obtain ⟨j, x⟩ := p
    simp only [set]
    split
    · subst_vars; simp [get?, h]
    · split
      · simp [get?, h]
      · simp [get?, ih]

theorem get?_set (m : Map α) (k k' : Nat) (v : α) :
    (m.set k v).get? k' = if k' = k then some v else m.get? k' := by
  split
  · subst_vars; simp
  · exact get?_set_of_ne m v ‹_›

@[simp] theorem getD_set_self (m : Map α) (k : Nat) (v d : α) : (m.set k v).getD k d = v := by simp [getD]

theorem getD_set_of_ne (m : Map α) {k k' : Nat} (v d : α) (h : k' ≠ k) : (m.set k v).getD k' d = m.getD k' d := by
  simp [getD, get?_set_of_ne m v h]

theorem get?_modify (m : Map α) (k k' : Nat) (f : α → α) :
    (m.modify k f).get? k' = if k' = k then (m.get? k).map f else m.get? k' := by
  induction m with
  | nil => simp [modify]
  | cons p r ih =>
    obtain ⟨j, x⟩ := p
    simp only [modify, List.map_cons] at ih ⊢
    by_cases hj : j = k
    · subst hj
      simp only [if_true, get?_cons]
      by_cases h : k' = j
      · simp [h]
      · simpa [h] using ih
    · simp only [if_neg hj, get?_cons]
      by_cases h : k' = k
      · subst h
        simpa [Ne.symm hj] using ih
      · simp only [if_neg h] at ih ⊢
        rw [ih]

@[simp] theorem get?_modify_self (m : Map α) (k : Nat) (f : α → α) : (m.modify k f).get? k = (m.get? k).map f := by
  simp [get?_modify]

theorem get?_modify_of_ne (m : Map α) {k k' : Nat} (f : α → α) (h : k' ≠ k) :
    (m.modify k f).get? k' = m.get? k' := by simp [get?_modify, h]

theorem modify_modify (m : Map α) (k : Nat) (f g : α → α) :
    (m.modify k f).modify k g = m.modify k (fun x => g (f x)) := by
  simp only [modify, List.map_map]
  refine List.map_congr_left fun p _ => ?_
  by_cases h : p.1 = k <;> simp [h]

theorem modify_comm (m : Map α) {k j : Nat} (f g : α → α) (h : k ≠ j) :
    (m.modify k f).modify j g = (m.modify j g).modify k f := by
  simp only [modify, List.map_map]
  refine List.map_congr_left fun p _ => ?_
  by_cases hk : p.1 = k <;> by_cases hj : p.1 = j <;> simp_all

@[simp] theorem modify_id (m : Map α) (k : Nat) : m.modify k (fun x => x) = m := by
  simp [modify]

theorem modify_of_get?_none (m : Map α) (k : Nat) (f : α → α) (h : m.get? k = none) : m.modify k f = m := by
  induction m with
  | nil => rfl
  | cons p r ih =>
    obtain ⟨j, x⟩ := p
    rw [get?_cons] at h
    split at h
    · simp at h
    · simp only [modify, List.map_cons] at ih ⊢
      rw [ih h, if_neg (Ne.symm ‹_›)]

@[simp] theorem get?_erase_self (m : Map α) (k : Nat) : (m.erase k).get? k = none := by
  induction m with
  | nil => rfl
  | cons p r ih =>
    obtain ⟨j, x⟩ := p
    by_cases h : j = k
    · subst h; simpa [erase] using ih
    · have hj : (j != k) = true := by simp [h]
      simp only [erase, List.filter_cons, hj, if_true, get?_cons, if_neg (Ne.symm h)]
      exact ih

theorem get?_erase_of_ne (m : Map α) {k k' : Nat} (h : k' ≠ k) : (m.erase k).get? k' = m.get? k' := by
  induction m with
  | nil => rfl
  | cons p r ih =>
    obtain ⟨j, x⟩ := p
    by_cases hj : j = k
    · subst hj
      simp only [erase, List.filter_cons, bne_self_eq_false, Bool.false_eq_true, if_false, get?_cons, if_neg h]
      exact ih
    · have hb : (j != k) = true := by simp [hj]
      simp only [erase, List.filter_cons, hb, if_true, get?_cons]
      simp only [erase] at ih
      rw [ih]

end Sys2Proof.Map
end

