-- ==== Sys2Proof/Laws/Memory.lean ====
section
/-!
SUPPORT. Memory: a byte reads as it was last written, other bytes are as they were, and the canonical form is kept.
-/

namespace Sys2Proof.Machine

/-- Every listed address is at least x. -/
theorem memRead_below : ∀ (m : List Host.Cell) (x : Nat), (∀ c ∈ m, x < c.1) → memRead m x = memDefault
  | [], _, _ => rfl
  | (a, b) :: r, x, h => by
    have ha : x < a := h (a, b) (by simp)
    have hr := memRead_below r x fun c hc => h c (by simp [hc])
    simp [memRead, Nat.ne_of_lt ha, hr]

theorem Memory.wf_tail {a : Nat} {b : Byte} {r : List Host.Cell} (h : Memory.wf ((a, b) :: r) = true) :
    Memory.wf r = true := by
  cases r with
  | nil => rfl
  | cons c r => obtain ⟨a', b'⟩ := c; simp [Memory.wf] at h; exact h.2

theorem Memory.wf_head {a : Nat} {b : Byte} {r : List Host.Cell} (h : Memory.wf ((a, b) :: r) = true) :
    b ≠ memDefault := by
  cases r with
  | nil => simpa [Memory.wf] using h
  | cons c r => obtain ⟨a', b'⟩ := c; simp [Memory.wf] at h; exact h.1.1

theorem Memory.wf_above {a : Nat} {b : Byte} {r : List Host.Cell} (h : Memory.wf ((a, b) :: r) = true) :
    ∀ c ∈ r, a < c.1 := by
  induction r generalizing a b with
  | nil => simp
  | cons c r ih =>
    obtain ⟨a', b'⟩ := c
    have h1 : a < a' := by simp [Memory.wf] at h; exact h.1.2
    intro c hc
    rcases List.mem_cons.1 hc with rfl | hc
    · exact h1
    · exact Nat.lt_trans h1 (ih (Memory.wf_tail h) c hc)

theorem Memory.wf_cons {a : Nat} {b : Byte} {r : List Host.Cell} (hb : b ≠ memDefault) (hr : Memory.wf r = true)
    (h : ∀ c ∈ r, a < c.1) : Memory.wf ((a, b) :: r) = true := by
  cases r with
  | nil => simpa [Memory.wf] using hb
  | cons c r => obtain ⟨a', b'⟩ := c; have := h (a', b') (by simp); simp [Memory.wf, hb, this, hr]

theorem memWrite_above (m : List Host.Cell) (a x : Nat) (v : Byte) (h : ∀ c ∈ m, a < c.1) (hx : a < x) :
    ∀ c ∈ memWrite m x v, a < c.1 := by
  induction m with
  | nil =>
    simp only [memWrite]
    split
    · simp
    · simpa using hx
  | cons p r ih =>
    obtain ⟨a', b'⟩ := p
    have h1 : a < a' := h (a', b') (by simp)
    have h2 : ∀ c ∈ r, a < c.1 := fun c hc => h c (by simp [hc])
    simp only [memWrite]
    split
    · split
      · exact h
      · intro c hc
        rcases List.mem_cons.1 hc with rfl | hc
        · exact hx
        · exact h c hc
    · split
      · split
        · exact h2
        · intro c hc
          rcases List.mem_cons.1 hc with rfl | hc
          · exact hx
          · exact h2 c hc
      · intro c hc
        rcases List.mem_cons.1 hc with rfl | hc
        · exact h1
        · exact ih h2 c hc

/-- Writing a byte keeps the canonical form. -/
theorem Memory.wf_memWrite (m : List Host.Cell) (x : Nat) (v : Byte) (h : Memory.wf m = true) :
    Memory.wf (memWrite m x v) = true := by
  induction m with
  | nil =>
    simp only [memWrite]
    split
    · rfl
    · simpa [Memory.wf] using ‹¬_›
  | cons p r ih =>
    obtain ⟨a, b⟩ := p
    have hb := Memory.wf_head h
    have hr := Memory.wf_tail h
    have ha := Memory.wf_above h
    simp only [memWrite]
    split
    · split
      · exact h
      · refine Memory.wf_cons ‹_› h fun c hc => ?_
        rcases List.mem_cons.1 hc with rfl | hc
        · assumption
        · exact Nat.lt_trans ‹_› (ha c hc)
    · split
      · subst_vars
        split
        · exact hr
        · exact Memory.wf_cons ‹_› hr ha
      · exact Memory.wf_cons hb (ih hr) (memWrite_above r a x v ha (by omega))

/-- Writing bytes keeps the canonical form. -/
theorem Memory.wf_memWrites (m : List Host.Cell) (a : Nat) (bs : List Byte) (h : Memory.wf m = true) :
    Memory.wf (memWrites m a bs) = true := by
  induction bs generalizing m a with
  | nil => exact h
  | cons b bs ih => exact ih _ _ (Memory.wf_memWrite m a b h)

/-- A byte reads as it was written, and every other byte as before. -/
theorem memRead_memWrite (m : List Host.Cell) (x y : Nat) (v : Byte) (h : Memory.wf m = true) :
    memRead (memWrite m x v) y = if y = x then v else memRead m y := by
  induction m with
  | nil =>
    simp only [memWrite]
    split <;> simp [memRead, *]
  | cons p r ih =>
    obtain ⟨a, b⟩ := p
    have hr := Memory.wf_tail h
    have ha := Memory.wf_above h
    simp only [memWrite]
    split
    · split
      · by_cases hy : y = x
        · subst hy
          have : memRead ((a, b) :: r) y = memDefault := memRead_below _ _ fun c hc => by
            rcases List.mem_cons.1 hc with rfl | hc
            · assumption
            · exact Nat.lt_trans ‹_› (ha c hc)
          simp [*]
        · simp [hy]
      · simp [memRead]
    · split
      · subst_vars
        split
        · by_cases hy : y = a
          · subst hy; simp [memRead_below r y ha, *]
          · simp [memRead, hy]
        · simp only [memRead]; split <;> simp_all
      · simp only [memRead, ih hr]
        split
        · subst_vars; simp [Ne.symm ‹¬ x = _›]
        · rfl

/-- Bytes outside a written range read as before. -/
theorem memRead_memWrites_of_out (m : List Host.Cell) (a y : Nat) (bs : List Byte) (h : Memory.wf m = true)
    (hy : y < a ∨ a + bs.length ≤ y) : memRead (memWrites m a bs) y = memRead m y := by
  induction bs generalizing m a with
  | nil => rfl
  | cons b bs ih =>
    simp only [List.length_cons] at hy
    rw [memWrites, ih _ _ (Memory.wf_memWrite m a b h) (by omega), memRead_memWrite m a y b h, if_neg (by omega)]

/-- A byte of a written range reads as it was written. -/
theorem memRead_memWrites_of_in (m : List Host.Cell) (a i : Nat) (bs : List Byte) (h : Memory.wf m = true)
    (hi : i < bs.length) : memRead (memWrites m a bs) (a + i) = bs[i] := by
  induction bs generalizing m a i with
  | nil => simp at hi
  | cons b bs ih =>
    have hw := Memory.wf_memWrite m a b h
    cases i with
    | zero =>
      rw [memWrites, memRead_memWrites_of_out _ _ _ _ hw (by omega), memRead_memWrite m a _ b h]
      simp
    | succ i =>
      have : a + (i + 1) = a + 1 + i := by omega
      rw [memWrites, this, ih _ _ _ hw (by simpa using hi)]
      simp

@[simp] theorem length_memReads (m : List Host.Cell) (a n : Nat) : (memReads m a n).length = n := by
  induction n generalizing a with
  | zero => rfl
  | succ n ih => simp [memReads, ih]

theorem getElem_memReads (m : List Host.Cell) (a n i : Nat) (h : i < n) :
    (memReads m a n)[i]'(by simpa using h) = memRead m (a + i) := by
  induction n generalizing a i with
  | zero => omega
  | succ n ih =>
    cases i with
    | zero => rfl
    | succ i => simp only [memReads, List.getElem_cons_succ]; rw [ih _ _ (by omega)]; congr 1; omega

/-- Bytes read as they were written. -/
theorem memReads_memWrites_self (m : List Host.Cell) (a : Nat) (bs : List Byte) (h : Memory.wf m = true) :
    memReads (memWrites m a bs) a bs.length = bs := by
  apply List.ext_getElem
  · simp
  · intro i h1 h2
    rw [getElem_memReads _ _ _ _ h2, memRead_memWrites_of_in m a i bs h h2]

@[simp] theorem length_natLE (x n : Nat) : (natLE x n).length = n := by
  induction n generalizing x with
  | zero => rfl
  | succ n ih => simp [natLE, ih]

/-- A number is the value of its little-endian bytes (R2). -/
theorem leNat_natLE (x n : Nat) : leNat (natLE x n) = x % 256 ^ n := by
  induction n generalizing x with
  | zero => simp [natLE, leNat, Nat.mod_one]
  | succ n ih =>
    have h : 256 ^ (n + 1) = 256 * 256 ^ n := by ring
    rw [natLE, leNat, ih, BitVec.toNat_ofNat, h, Nat.mod_mul]

end Sys2Proof.Machine
end

