-- ==== Sys2Proof/Laws/State.lean ====
section
/-!
SUPPORT. What each update of the state leaves in each field, and what each update of a thread, an activation or a
context leaves in each of theirs.
-/

namespace Sys2Proof.Machine

/-! ### State.setCore -/

@[simp] theorem State.setCore_mem (s : State) (c : Nat) (k : Core) : (s.setCore c k).mem = s.mem := rfl
@[simp] theorem State.setCore_threads (s : State) (c : Nat) (k : Core) : (s.setCore c k).threads = s.threads := rfl
@[simp] theorem State.setCore_ctxs (s : State) (c : Nat) (k : Core) : (s.setCore c k).ctxs = s.ctxs := rfl
@[simp] theorem State.setCore_teams (s : State) (c : Nat) (k : Core) : (s.setCore c k).teams = s.teams := rfl
@[simp] theorem State.setCore_launches (s : State) (c : Nat) (k : Core) : (s.setCore c k).launches = s.launches := rfl
@[simp] theorem State.setCore_cores (s : State) (c : Nat) (k : Core) : (s.setCore c k).cores = s.cores.set c k := rfl
@[simp] theorem State.setCore_dies (s : State) (c : Nat) (k : Core) : (s.setCore c k).dies = s.dies := rfl
@[simp] theorem State.setCore_pend (s : State) (c : Nat) (k : Core) : (s.setCore c k).pend = s.pend := rfl
@[simp] theorem State.setCore_probes (s : State) (c : Nat) (k : Core) : (s.setCore c k).probes = s.probes := rfl
@[simp] theorem State.setCore_poison (s : State) (c : Nat) (k : Core) : (s.setCore c k).poison = s.poison := rfl
@[simp] theorem State.setCore_hub (s : State) (c : Nat) (k : Core) : (s.setCore c k).hub = s.hub := rfl
@[simp] theorem State.setCore_now (s : State) (c : Nat) (k : Core) : (s.setCore c k).now = s.now := rfl
@[simp] theorem State.setCore_tick (s : State) (c : Nat) (k : Core) : (s.setCore c k).tick = s.tick := rfl
@[simp] theorem State.setCore_cur (s : State) (c : Nat) (k : Core) : (s.setCore c k).cur = s.cur := rfl
@[simp] theorem State.setCore_agenda (s : State) (c : Nat) (k : Core) : (s.setCore c k).agenda = s.agenda := rfl
@[simp] theorem State.setCore_nextId (s : State) (c : Nat) (k : Core) : (s.setCore c k).nextId = s.nextId := rfl
@[simp] theorem State.setCore_fresh (s : State) (c : Nat) (k : Core) : (s.setCore c k).fresh = s.fresh := rfl

/-! ### State.modCore -/

@[simp] theorem State.modCore_mem (s : State) (c : Nat) (f : Core → Core) : (s.modCore c f).mem = s.mem := rfl
@[simp] theorem State.modCore_threads (s : State) (c : Nat) (f : Core → Core) : (s.modCore c f).threads = s.threads := rfl
@[simp] theorem State.modCore_ctxs (s : State) (c : Nat) (f : Core → Core) : (s.modCore c f).ctxs = s.ctxs := rfl
@[simp] theorem State.modCore_teams (s : State) (c : Nat) (f : Core → Core) : (s.modCore c f).teams = s.teams := rfl
@[simp] theorem State.modCore_launches (s : State) (c : Nat) (f : Core → Core) : (s.modCore c f).launches = s.launches := rfl
@[simp] theorem State.modCore_cores (s : State) (c : Nat) (f : Core → Core) : (s.modCore c f).cores = s.cores.set c (f (s.core c)) := rfl
@[simp] theorem State.modCore_dies (s : State) (c : Nat) (f : Core → Core) : (s.modCore c f).dies = s.dies := rfl
@[simp] theorem State.modCore_pend (s : State) (c : Nat) (f : Core → Core) : (s.modCore c f).pend = s.pend := rfl
@[simp] theorem State.modCore_probes (s : State) (c : Nat) (f : Core → Core) : (s.modCore c f).probes = s.probes := rfl
@[simp] theorem State.modCore_poison (s : State) (c : Nat) (f : Core → Core) : (s.modCore c f).poison = s.poison := rfl
@[simp] theorem State.modCore_hub (s : State) (c : Nat) (f : Core → Core) : (s.modCore c f).hub = s.hub := rfl
@[simp] theorem State.modCore_now (s : State) (c : Nat) (f : Core → Core) : (s.modCore c f).now = s.now := rfl
@[simp] theorem State.modCore_tick (s : State) (c : Nat) (f : Core → Core) : (s.modCore c f).tick = s.tick := rfl
@[simp] theorem State.modCore_cur (s : State) (c : Nat) (f : Core → Core) : (s.modCore c f).cur = s.cur := rfl
@[simp] theorem State.modCore_agenda (s : State) (c : Nat) (f : Core → Core) : (s.modCore c f).agenda = s.agenda := rfl
@[simp] theorem State.modCore_nextId (s : State) (c : Nat) (f : Core → Core) : (s.modCore c f).nextId = s.nextId := rfl
@[simp] theorem State.modCore_fresh (s : State) (c : Nat) (f : Core → Core) : (s.modCore c f).fresh = s.fresh := rfl

/-! ### State.modDie -/

@[simp] theorem State.modDie_mem (s : State) (d : Nat) (f : Die → Die) : (s.modDie d f).mem = s.mem := rfl
@[simp] theorem State.modDie_threads (s : State) (d : Nat) (f : Die → Die) : (s.modDie d f).threads = s.threads := rfl
@[simp] theorem State.modDie_ctxs (s : State) (d : Nat) (f : Die → Die) : (s.modDie d f).ctxs = s.ctxs := rfl
@[simp] theorem State.modDie_teams (s : State) (d : Nat) (f : Die → Die) : (s.modDie d f).teams = s.teams := rfl
@[simp] theorem State.modDie_launches (s : State) (d : Nat) (f : Die → Die) : (s.modDie d f).launches = s.launches := rfl
@[simp] theorem State.modDie_cores (s : State) (d : Nat) (f : Die → Die) : (s.modDie d f).cores = s.cores := rfl
@[simp] theorem State.modDie_dies (s : State) (d : Nat) (f : Die → Die) : (s.modDie d f).dies = s.dies.set d (f (s.die d)) := rfl
@[simp] theorem State.modDie_pend (s : State) (d : Nat) (f : Die → Die) : (s.modDie d f).pend = s.pend := rfl
@[simp] theorem State.modDie_probes (s : State) (d : Nat) (f : Die → Die) : (s.modDie d f).probes = s.probes := rfl
@[simp] theorem State.modDie_poison (s : State) (d : Nat) (f : Die → Die) : (s.modDie d f).poison = s.poison := rfl
@[simp] theorem State.modDie_hub (s : State) (d : Nat) (f : Die → Die) : (s.modDie d f).hub = s.hub := rfl
@[simp] theorem State.modDie_now (s : State) (d : Nat) (f : Die → Die) : (s.modDie d f).now = s.now := rfl
@[simp] theorem State.modDie_tick (s : State) (d : Nat) (f : Die → Die) : (s.modDie d f).tick = s.tick := rfl
@[simp] theorem State.modDie_cur (s : State) (d : Nat) (f : Die → Die) : (s.modDie d f).cur = s.cur := rfl
@[simp] theorem State.modDie_agenda (s : State) (d : Nat) (f : Die → Die) : (s.modDie d f).agenda = s.agenda := rfl
@[simp] theorem State.modDie_nextId (s : State) (d : Nat) (f : Die → Die) : (s.modDie d f).nextId = s.nextId := rfl
@[simp] theorem State.modDie_fresh (s : State) (d : Nat) (f : Die → Die) : (s.modDie d f).fresh = s.fresh := rfl

/-! ### State.modCtx -/

@[simp] theorem State.modCtx_mem (s : State) (c : Nat) (f : Ctx → Ctx) : (s.modCtx c f).mem = s.mem := rfl
@[simp] theorem State.modCtx_threads (s : State) (c : Nat) (f : Ctx → Ctx) : (s.modCtx c f).threads = s.threads := rfl
@[simp] theorem State.modCtx_ctxs (s : State) (c : Nat) (f : Ctx → Ctx) : (s.modCtx c f).ctxs = s.ctxs.modify c f := rfl
@[simp] theorem State.modCtx_teams (s : State) (c : Nat) (f : Ctx → Ctx) : (s.modCtx c f).teams = s.teams := rfl
@[simp] theorem State.modCtx_launches (s : State) (c : Nat) (f : Ctx → Ctx) : (s.modCtx c f).launches = s.launches := rfl
@[simp] theorem State.modCtx_cores (s : State) (c : Nat) (f : Ctx → Ctx) : (s.modCtx c f).cores = s.cores := rfl
@[simp] theorem State.modCtx_dies (s : State) (c : Nat) (f : Ctx → Ctx) : (s.modCtx c f).dies = s.dies := rfl
@[simp] theorem State.modCtx_pend (s : State) (c : Nat) (f : Ctx → Ctx) : (s.modCtx c f).pend = s.pend := rfl
@[simp] theorem State.modCtx_probes (s : State) (c : Nat) (f : Ctx → Ctx) : (s.modCtx c f).probes = s.probes := rfl
@[simp] theorem State.modCtx_poison (s : State) (c : Nat) (f : Ctx → Ctx) : (s.modCtx c f).poison = s.poison := rfl
@[simp] theorem State.modCtx_hub (s : State) (c : Nat) (f : Ctx → Ctx) : (s.modCtx c f).hub = s.hub := rfl
@[simp] theorem State.modCtx_now (s : State) (c : Nat) (f : Ctx → Ctx) : (s.modCtx c f).now = s.now := rfl
@[simp] theorem State.modCtx_tick (s : State) (c : Nat) (f : Ctx → Ctx) : (s.modCtx c f).tick = s.tick := rfl
@[simp] theorem State.modCtx_cur (s : State) (c : Nat) (f : Ctx → Ctx) : (s.modCtx c f).cur = s.cur := rfl
@[simp] theorem State.modCtx_agenda (s : State) (c : Nat) (f : Ctx → Ctx) : (s.modCtx c f).agenda = s.agenda := rfl
@[simp] theorem State.modCtx_nextId (s : State) (c : Nat) (f : Ctx → Ctx) : (s.modCtx c f).nextId = s.nextId := rfl
@[simp] theorem State.modCtx_fresh (s : State) (c : Nat) (f : Ctx → Ctx) : (s.modCtx c f).fresh = s.fresh := rfl

/-! ### State.modTeam -/

@[simp] theorem State.modTeam_mem (s : State) (t : Nat) (f : Team → Team) : (s.modTeam t f).mem = s.mem := rfl
@[simp] theorem State.modTeam_threads (s : State) (t : Nat) (f : Team → Team) : (s.modTeam t f).threads = s.threads := rfl
@[simp] theorem State.modTeam_ctxs (s : State) (t : Nat) (f : Team → Team) : (s.modTeam t f).ctxs = s.ctxs := rfl
@[simp] theorem State.modTeam_teams (s : State) (t : Nat) (f : Team → Team) : (s.modTeam t f).teams = s.teams.modify t f := rfl
@[simp] theorem State.modTeam_launches (s : State) (t : Nat) (f : Team → Team) : (s.modTeam t f).launches = s.launches := rfl
@[simp] theorem State.modTeam_cores (s : State) (t : Nat) (f : Team → Team) : (s.modTeam t f).cores = s.cores := rfl
@[simp] theorem State.modTeam_dies (s : State) (t : Nat) (f : Team → Team) : (s.modTeam t f).dies = s.dies := rfl
@[simp] theorem State.modTeam_pend (s : State) (t : Nat) (f : Team → Team) : (s.modTeam t f).pend = s.pend := rfl
@[simp] theorem State.modTeam_probes (s : State) (t : Nat) (f : Team → Team) : (s.modTeam t f).probes = s.probes := rfl
@[simp] theorem State.modTeam_poison (s : State) (t : Nat) (f : Team → Team) : (s.modTeam t f).poison = s.poison := rfl
@[simp] theorem State.modTeam_hub (s : State) (t : Nat) (f : Team → Team) : (s.modTeam t f).hub = s.hub := rfl
@[simp] theorem State.modTeam_now (s : State) (t : Nat) (f : Team → Team) : (s.modTeam t f).now = s.now := rfl
@[simp] theorem State.modTeam_tick (s : State) (t : Nat) (f : Team → Team) : (s.modTeam t f).tick = s.tick := rfl
@[simp] theorem State.modTeam_cur (s : State) (t : Nat) (f : Team → Team) : (s.modTeam t f).cur = s.cur := rfl
@[simp] theorem State.modTeam_agenda (s : State) (t : Nat) (f : Team → Team) : (s.modTeam t f).agenda = s.agenda := rfl
@[simp] theorem State.modTeam_nextId (s : State) (t : Nat) (f : Team → Team) : (s.modTeam t f).nextId = s.nextId := rfl
@[simp] theorem State.modTeam_fresh (s : State) (t : Nat) (f : Team → Team) : (s.modTeam t f).fresh = s.fresh := rfl

/-! ### State.modLaunch -/

@[simp] theorem State.modLaunch_mem (s : State) (l : Nat) (f : Launch → Launch) : (s.modLaunch l f).mem = s.mem := rfl
@[simp] theorem State.modLaunch_threads (s : State) (l : Nat) (f : Launch → Launch) : (s.modLaunch l f).threads = s.threads := rfl
@[simp] theorem State.modLaunch_ctxs (s : State) (l : Nat) (f : Launch → Launch) : (s.modLaunch l f).ctxs = s.ctxs := rfl
@[simp] theorem State.modLaunch_teams (s : State) (l : Nat) (f : Launch → Launch) : (s.modLaunch l f).teams = s.teams := rfl
@[simp] theorem State.modLaunch_launches (s : State) (l : Nat) (f : Launch → Launch) : (s.modLaunch l f).launches = s.launches.modify l f := rfl
@[simp] theorem State.modLaunch_cores (s : State) (l : Nat) (f : Launch → Launch) : (s.modLaunch l f).cores = s.cores := rfl
@[simp] theorem State.modLaunch_dies (s : State) (l : Nat) (f : Launch → Launch) : (s.modLaunch l f).dies = s.dies := rfl
@[simp] theorem State.modLaunch_pend (s : State) (l : Nat) (f : Launch → Launch) : (s.modLaunch l f).pend = s.pend := rfl
@[simp] theorem State.modLaunch_probes (s : State) (l : Nat) (f : Launch → Launch) : (s.modLaunch l f).probes = s.probes := rfl
@[simp] theorem State.modLaunch_poison (s : State) (l : Nat) (f : Launch → Launch) : (s.modLaunch l f).poison = s.poison := rfl
@[simp] theorem State.modLaunch_hub (s : State) (l : Nat) (f : Launch → Launch) : (s.modLaunch l f).hub = s.hub := rfl
@[simp] theorem State.modLaunch_now (s : State) (l : Nat) (f : Launch → Launch) : (s.modLaunch l f).now = s.now := rfl
@[simp] theorem State.modLaunch_tick (s : State) (l : Nat) (f : Launch → Launch) : (s.modLaunch l f).tick = s.tick := rfl
@[simp] theorem State.modLaunch_cur (s : State) (l : Nat) (f : Launch → Launch) : (s.modLaunch l f).cur = s.cur := rfl
@[simp] theorem State.modLaunch_agenda (s : State) (l : Nat) (f : Launch → Launch) : (s.modLaunch l f).agenda = s.agenda := rfl
@[simp] theorem State.modLaunch_nextId (s : State) (l : Nat) (f : Launch → Launch) : (s.modLaunch l f).nextId = s.nextId := rfl
@[simp] theorem State.modLaunch_fresh (s : State) (l : Nat) (f : Launch → Launch) : (s.modLaunch l f).fresh = s.fresh := rfl

/-! ### State.modHub -/

@[simp] theorem State.modHub_mem (s : State) (f : Hub → Hub) : (s.modHub f).mem = s.mem := rfl
@[simp] theorem State.modHub_threads (s : State) (f : Hub → Hub) : (s.modHub f).threads = s.threads := rfl
@[simp] theorem State.modHub_ctxs (s : State) (f : Hub → Hub) : (s.modHub f).ctxs = s.ctxs := rfl
@[simp] theorem State.modHub_teams (s : State) (f : Hub → Hub) : (s.modHub f).teams = s.teams := rfl
@[simp] theorem State.modHub_launches (s : State) (f : Hub → Hub) : (s.modHub f).launches = s.launches := rfl
@[simp] theorem State.modHub_cores (s : State) (f : Hub → Hub) : (s.modHub f).cores = s.cores := rfl
@[simp] theorem State.modHub_dies (s : State) (f : Hub → Hub) : (s.modHub f).dies = s.dies := rfl
@[simp] theorem State.modHub_pend (s : State) (f : Hub → Hub) : (s.modHub f).pend = s.pend := rfl
@[simp] theorem State.modHub_probes (s : State) (f : Hub → Hub) : (s.modHub f).probes = s.probes := rfl
@[simp] theorem State.modHub_poison (s : State) (f : Hub → Hub) : (s.modHub f).poison = s.poison := rfl
@[simp] theorem State.modHub_hub (s : State) (f : Hub → Hub) : (s.modHub f).hub = f s.hub := rfl
@[simp] theorem State.modHub_now (s : State) (f : Hub → Hub) : (s.modHub f).now = s.now := rfl
@[simp] theorem State.modHub_tick (s : State) (f : Hub → Hub) : (s.modHub f).tick = s.tick := rfl
@[simp] theorem State.modHub_cur (s : State) (f : Hub → Hub) : (s.modHub f).cur = s.cur := rfl
@[simp] theorem State.modHub_agenda (s : State) (f : Hub → Hub) : (s.modHub f).agenda = s.agenda := rfl
@[simp] theorem State.modHub_nextId (s : State) (f : Hub → Hub) : (s.modHub f).nextId = s.nextId := rfl
@[simp] theorem State.modHub_fresh (s : State) (f : Hub → Hub) : (s.modHub f).fresh = s.fresh := rfl

/-! ### State.modThread -/

@[simp] theorem State.modThread_mem (s : State) (team tid : Nat) (f : Thread → Thread) : (s.modThread team tid f).mem = s.mem := rfl
@[simp] theorem State.modThread_threads (s : State) (team tid : Nat) (f : Thread → Thread) : (s.modThread team tid f).threads = s.threads.modify (tkey team tid) f := rfl
@[simp] theorem State.modThread_ctxs (s : State) (team tid : Nat) (f : Thread → Thread) : (s.modThread team tid f).ctxs = s.ctxs := rfl
@[simp] theorem State.modThread_teams (s : State) (team tid : Nat) (f : Thread → Thread) : (s.modThread team tid f).teams = s.teams := rfl
@[simp] theorem State.modThread_launches (s : State) (team tid : Nat) (f : Thread → Thread) : (s.modThread team tid f).launches = s.launches := rfl
@[simp] theorem State.modThread_cores (s : State) (team tid : Nat) (f : Thread → Thread) : (s.modThread team tid f).cores = s.cores := rfl
@[simp] theorem State.modThread_dies (s : State) (team tid : Nat) (f : Thread → Thread) : (s.modThread team tid f).dies = s.dies := rfl
@[simp] theorem State.modThread_pend (s : State) (team tid : Nat) (f : Thread → Thread) : (s.modThread team tid f).pend = s.pend := rfl
@[simp] theorem State.modThread_probes (s : State) (team tid : Nat) (f : Thread → Thread) : (s.modThread team tid f).probes = s.probes := rfl
@[simp] theorem State.modThread_poison (s : State) (team tid : Nat) (f : Thread → Thread) : (s.modThread team tid f).poison = s.poison := rfl
@[simp] theorem State.modThread_hub (s : State) (team tid : Nat) (f : Thread → Thread) : (s.modThread team tid f).hub = s.hub := rfl
@[simp] theorem State.modThread_now (s : State) (team tid : Nat) (f : Thread → Thread) : (s.modThread team tid f).now = s.now := rfl
@[simp] theorem State.modThread_tick (s : State) (team tid : Nat) (f : Thread → Thread) : (s.modThread team tid f).tick = s.tick := rfl
@[simp] theorem State.modThread_cur (s : State) (team tid : Nat) (f : Thread → Thread) : (s.modThread team tid f).cur = s.cur := rfl
@[simp] theorem State.modThread_agenda (s : State) (team tid : Nat) (f : Thread → Thread) : (s.modThread team tid f).agenda = s.agenda := rfl
@[simp] theorem State.modThread_nextId (s : State) (team tid : Nat) (f : Thread → Thread) : (s.modThread team tid f).nextId = s.nextId := rfl
@[simp] theorem State.modThread_fresh (s : State) (team tid : Nat) (f : Thread → Thread) : (s.modThread team tid f).fresh = s.fresh := rfl

/-! ### State.modAct -/

@[simp] theorem State.modAct_mem (s : State) (r : PathRef) (f : Act → Act) : (s.modAct r f).mem = s.mem := rfl
@[simp] theorem State.modAct_threads (s : State) (r : PathRef) (f : Act → Act) : (s.modAct r f).threads = s.threads := rfl
@[simp] theorem State.modAct_ctxs (s : State) (r : PathRef) (f : Act → Act) : (s.modAct r f).ctxs = s.ctxs.modify r.ctx (·.modTop r.slot f) := rfl
@[simp] theorem State.modAct_teams (s : State) (r : PathRef) (f : Act → Act) : (s.modAct r f).teams = s.teams := rfl
@[simp] theorem State.modAct_launches (s : State) (r : PathRef) (f : Act → Act) : (s.modAct r f).launches = s.launches := rfl
@[simp] theorem State.modAct_cores (s : State) (r : PathRef) (f : Act → Act) : (s.modAct r f).cores = s.cores := rfl
@[simp] theorem State.modAct_dies (s : State) (r : PathRef) (f : Act → Act) : (s.modAct r f).dies = s.dies := rfl
@[simp] theorem State.modAct_pend (s : State) (r : PathRef) (f : Act → Act) : (s.modAct r f).pend = s.pend := rfl
@[simp] theorem State.modAct_probes (s : State) (r : PathRef) (f : Act → Act) : (s.modAct r f).probes = s.probes := rfl
@[simp] theorem State.modAct_poison (s : State) (r : PathRef) (f : Act → Act) : (s.modAct r f).poison = s.poison := rfl
@[simp] theorem State.modAct_hub (s : State) (r : PathRef) (f : Act → Act) : (s.modAct r f).hub = s.hub := rfl
@[simp] theorem State.modAct_now (s : State) (r : PathRef) (f : Act → Act) : (s.modAct r f).now = s.now := rfl
@[simp] theorem State.modAct_tick (s : State) (r : PathRef) (f : Act → Act) : (s.modAct r f).tick = s.tick := rfl
@[simp] theorem State.modAct_cur (s : State) (r : PathRef) (f : Act → Act) : (s.modAct r f).cur = s.cur := rfl
@[simp] theorem State.modAct_agenda (s : State) (r : PathRef) (f : Act → Act) : (s.modAct r f).agenda = s.agenda := rfl
@[simp] theorem State.modAct_nextId (s : State) (r : PathRef) (f : Act → Act) : (s.modAct r f).nextId = s.nextId := rfl
@[simp] theorem State.modAct_fresh (s : State) (r : PathRef) (f : Act → Act) : (s.modAct r f).fresh = s.fresh := rfl

/-! ### State.modOp -/

@[simp] theorem State.modOp_mem (s : State) (id : Nat) (f : Op → Op) : (s.modOp id f).mem = s.mem := rfl
@[simp] theorem State.modOp_threads (s : State) (id : Nat) (f : Op → Op) : (s.modOp id f).threads = s.threads := rfl
@[simp] theorem State.modOp_ctxs (s : State) (id : Nat) (f : Op → Op) : (s.modOp id f).ctxs = s.ctxs := rfl
@[simp] theorem State.modOp_teams (s : State) (id : Nat) (f : Op → Op) : (s.modOp id f).teams = s.teams := rfl
@[simp] theorem State.modOp_launches (s : State) (id : Nat) (f : Op → Op) : (s.modOp id f).launches = s.launches := rfl
@[simp] theorem State.modOp_cores (s : State) (id : Nat) (f : Op → Op) : (s.modOp id f).cores = s.cores := rfl
@[simp] theorem State.modOp_dies (s : State) (id : Nat) (f : Op → Op) : (s.modOp id f).dies = s.dies := rfl
@[simp] theorem State.modOp_pend (s : State) (id : Nat) (f : Op → Op) : (s.modOp id f).pend = s.pend.modify id f := rfl
@[simp] theorem State.modOp_probes (s : State) (id : Nat) (f : Op → Op) : (s.modOp id f).probes = s.probes := rfl
@[simp] theorem State.modOp_poison (s : State) (id : Nat) (f : Op → Op) : (s.modOp id f).poison = s.poison := rfl
@[simp] theorem State.modOp_hub (s : State) (id : Nat) (f : Op → Op) : (s.modOp id f).hub = s.hub := rfl
@[simp] theorem State.modOp_now (s : State) (id : Nat) (f : Op → Op) : (s.modOp id f).now = s.now := rfl
@[simp] theorem State.modOp_tick (s : State) (id : Nat) (f : Op → Op) : (s.modOp id f).tick = s.tick := rfl
@[simp] theorem State.modOp_cur (s : State) (id : Nat) (f : Op → Op) : (s.modOp id f).cur = s.cur := rfl
@[simp] theorem State.modOp_agenda (s : State) (id : Nat) (f : Op → Op) : (s.modOp id f).agenda = s.agenda := rfl
@[simp] theorem State.modOp_nextId (s : State) (id : Nat) (f : Op → Op) : (s.modOp id f).nextId = s.nextId := rfl
@[simp] theorem State.modOp_fresh (s : State) (id : Nat) (f : Op → Op) : (s.modOp id f).fresh = s.fresh := rfl

/-! ### State.advance -/

@[simp] theorem State.advance_mem (s : State) (n : Nat) : (s.advance n).mem = s.mem := rfl
@[simp] theorem State.advance_threads (s : State) (n : Nat) : (s.advance n).threads = s.threads := rfl
@[simp] theorem State.advance_ctxs (s : State) (n : Nat) : (s.advance n).ctxs = s.ctxs := rfl
@[simp] theorem State.advance_teams (s : State) (n : Nat) : (s.advance n).teams = s.teams := rfl
@[simp] theorem State.advance_launches (s : State) (n : Nat) : (s.advance n).launches = s.launches := rfl
@[simp] theorem State.advance_cores (s : State) (n : Nat) : (s.advance n).cores = s.cores := rfl
@[simp] theorem State.advance_dies (s : State) (n : Nat) : (s.advance n).dies = s.dies := rfl
@[simp] theorem State.advance_pend (s : State) (n : Nat) : (s.advance n).pend = s.pend := rfl
@[simp] theorem State.advance_probes (s : State) (n : Nat) : (s.advance n).probes = s.probes := rfl
@[simp] theorem State.advance_poison (s : State) (n : Nat) : (s.advance n).poison = s.poison := rfl
@[simp] theorem State.advance_hub (s : State) (n : Nat) : (s.advance n).hub = s.hub := rfl
@[simp] theorem State.advance_cur (s : State) (n : Nat) : (s.advance n).cur = s.cur := rfl
@[simp] theorem State.advance_agenda (s : State) (n : Nat) : (s.advance n).agenda = s.agenda := rfl
@[simp] theorem State.advance_nextId (s : State) (n : Nat) : (s.advance n).nextId = s.nextId := rfl
@[simp] theorem State.advance_fresh (s : State) (n : Nat) : (s.advance n).fresh = s.fresh := rfl
@[simp] theorem State.advance_now (s : State) (n : Nat) : (s.advance n).now = s.now + n := rfl
@[simp] theorem State.advance_tick (s : State) (n : Nat) : (s.advance n).tick = s.tick + n * cycleLong (s.die 0).mhz := rfl

/-! ### State.popAgenda -/

@[simp] theorem State.popAgenda_mem (s : State) (r : List Turn) : (s.popAgenda r).mem = s.mem := rfl
@[simp] theorem State.popAgenda_threads (s : State) (r : List Turn) : (s.popAgenda r).threads = s.threads := rfl
@[simp] theorem State.popAgenda_ctxs (s : State) (r : List Turn) : (s.popAgenda r).ctxs = s.ctxs := rfl
@[simp] theorem State.popAgenda_teams (s : State) (r : List Turn) : (s.popAgenda r).teams = s.teams := rfl
@[simp] theorem State.popAgenda_launches (s : State) (r : List Turn) : (s.popAgenda r).launches = s.launches := rfl
@[simp] theorem State.popAgenda_cores (s : State) (r : List Turn) : (s.popAgenda r).cores = s.cores := rfl
@[simp] theorem State.popAgenda_dies (s : State) (r : List Turn) : (s.popAgenda r).dies = s.dies := rfl
@[simp] theorem State.popAgenda_pend (s : State) (r : List Turn) : (s.popAgenda r).pend = s.pend := rfl
@[simp] theorem State.popAgenda_probes (s : State) (r : List Turn) : (s.popAgenda r).probes = s.probes := rfl
@[simp] theorem State.popAgenda_poison (s : State) (r : List Turn) : (s.popAgenda r).poison = s.poison := rfl
@[simp] theorem State.popAgenda_hub (s : State) (r : List Turn) : (s.popAgenda r).hub = s.hub := rfl
@[simp] theorem State.popAgenda_now (s : State) (r : List Turn) : (s.popAgenda r).now = s.now := rfl
@[simp] theorem State.popAgenda_tick (s : State) (r : List Turn) : (s.popAgenda r).tick = s.tick := rfl
@[simp] theorem State.popAgenda_cur (s : State) (r : List Turn) : (s.popAgenda r).cur = s.cur := rfl
@[simp] theorem State.popAgenda_agenda (s : State) (r : List Turn) : (s.popAgenda r).agenda = r := rfl
@[simp] theorem State.popAgenda_nextId (s : State) (r : List Turn) : (s.popAgenda r).nextId = s.nextId := rfl
@[simp] theorem State.popAgenda_fresh (s : State) (r : List Turn) : (s.popAgenda r).fresh = s.fresh := rfl

/-! ### State.free -/

@[simp] theorem State.free_mem (s : State) : (s.free).2.mem = s.mem := rfl
@[simp] theorem State.free_threads (s : State) : (s.free).2.threads = s.threads := rfl
@[simp] theorem State.free_ctxs (s : State) : (s.free).2.ctxs = s.ctxs := rfl
@[simp] theorem State.free_teams (s : State) : (s.free).2.teams = s.teams := rfl
@[simp] theorem State.free_launches (s : State) : (s.free).2.launches = s.launches := rfl
@[simp] theorem State.free_cores (s : State) : (s.free).2.cores = s.cores := rfl
@[simp] theorem State.free_dies (s : State) : (s.free).2.dies = s.dies := rfl
@[simp] theorem State.free_pend (s : State) : (s.free).2.pend = s.pend := rfl
@[simp] theorem State.free_probes (s : State) : (s.free).2.probes = s.probes := rfl
@[simp] theorem State.free_poison (s : State) : (s.free).2.poison = s.poison := rfl
@[simp] theorem State.free_hub (s : State) : (s.free).2.hub = s.hub := rfl
@[simp] theorem State.free_now (s : State) : (s.free).2.now = s.now := rfl
@[simp] theorem State.free_tick (s : State) : (s.free).2.tick = s.tick := rfl
@[simp] theorem State.free_cur (s : State) : (s.free).2.cur = s.cur := rfl
@[simp] theorem State.free_agenda (s : State) : (s.free).2.agenda = s.agenda := rfl
@[simp] theorem State.free_nextId (s : State) : (s.free).2.nextId = s.nextId := rfl
@[simp] theorem State.free_fresh (s : State) : (s.free).2.fresh = s.fresh + 1 := rfl

/-! ### State.name -/

@[simp] theorem State.name_mem (s : State) : (s.name).2.mem = s.mem := rfl
@[simp] theorem State.name_threads (s : State) : (s.name).2.threads = s.threads := rfl
@[simp] theorem State.name_ctxs (s : State) : (s.name).2.ctxs = s.ctxs := rfl
@[simp] theorem State.name_teams (s : State) : (s.name).2.teams = s.teams := rfl
@[simp] theorem State.name_launches (s : State) : (s.name).2.launches = s.launches := rfl
@[simp] theorem State.name_cores (s : State) : (s.name).2.cores = s.cores := rfl
@[simp] theorem State.name_dies (s : State) : (s.name).2.dies = s.dies := rfl
@[simp] theorem State.name_pend (s : State) : (s.name).2.pend = s.pend := rfl
@[simp] theorem State.name_probes (s : State) : (s.name).2.probes = s.probes := rfl
@[simp] theorem State.name_poison (s : State) : (s.name).2.poison = s.poison := rfl
@[simp] theorem State.name_hub (s : State) : (s.name).2.hub = s.hub := rfl
@[simp] theorem State.name_now (s : State) : (s.name).2.now = s.now := rfl
@[simp] theorem State.name_tick (s : State) : (s.name).2.tick = s.tick := rfl
@[simp] theorem State.name_cur (s : State) : (s.name).2.cur = s.cur := rfl
@[simp] theorem State.name_agenda (s : State) : (s.name).2.agenda = s.agenda := rfl
@[simp] theorem State.name_nextId (s : State) : (s.name).2.nextId = s.nextId + 1 := rfl
@[simp] theorem State.name_fresh (s : State) : (s.name).2.fresh = s.fresh := rfl

@[simp] theorem State.free_fst (s : State) : s.free.1 = Config.freeWord s.fresh := rfl
@[simp] theorem State.name_fst (s : State) : s.name.1 = s.nextId := rfl

/-! ### Thread.setL -/

@[simp] theorem Thread.setL_core (t : Thread) (i : Nat) (x : Lane) : (t.setL i x).core = t.core := rfl
@[simp] theorem Thread.setL_done (t : Thread) (i : Nat) (x : Lane) : (t.setL i x).done = t.done := rfl
@[simp] theorem Thread.setL_base (t : Thread) (i : Nat) (x : Lane) : (t.setL i x).base = t.base := rfl
@[simp] theorem Thread.setL_calls (t : Thread) (i : Nat) (x : Lane) : (t.setL i x).calls = t.calls := rfl
@[simp] theorem Thread.setL_floor (t : Thread) (i : Nat) (x : Lane) : (t.setL i x).floor = t.floor := rfl
@[simp] theorem Thread.setL_v (t : Thread) (i : Nat) (x : Lane) : (t.setL i x).v = t.v.set i ⟨x, true⟩ := rfl
@[simp] theorem Thread.setL_h (t : Thread) (i : Nat) (x : Lane) : (t.setL i x).h = t.h := rfl
@[simp] theorem Thread.setL_tsw (t : Thread) (i : Nat) (x : Lane) : (t.setL i x).tsw = t.tsw := rfl
@[simp] theorem Thread.setL_resv (t : Thread) (i : Nat) (x : Lane) : (t.setL i x).resv = t.resv := rfl
@[simp] theorem Thread.setL_bins (t : Thread) (i : Nat) (x : Lane) : (t.setL i x).bins = t.bins := rfl

/-! ### Thread.set -/

@[simp] theorem Thread.set_core (t : Thread) (i : Nat) (x : Lane) : (t.set i x).core = t.core := rfl
@[simp] theorem Thread.set_done (t : Thread) (i : Nat) (x : Lane) : (t.set i x).done = t.done := rfl
@[simp] theorem Thread.set_base (t : Thread) (i : Nat) (x : Lane) : (t.set i x).base = t.base := rfl
@[simp] theorem Thread.set_calls (t : Thread) (i : Nat) (x : Lane) : (t.set i x).calls = t.calls := rfl
@[simp] theorem Thread.set_floor (t : Thread) (i : Nat) (x : Lane) : (t.set i x).floor = t.floor := rfl
@[simp] theorem Thread.set_v (t : Thread) (i : Nat) (x : Lane) : (t.set i x).v = t.v.set (t.base + i) ⟨x, true⟩ := rfl
@[simp] theorem Thread.set_h (t : Thread) (i : Nat) (x : Lane) : (t.set i x).h = t.h := rfl
@[simp] theorem Thread.set_tsw (t : Thread) (i : Nat) (x : Lane) : (t.set i x).tsw = t.tsw := rfl
@[simp] theorem Thread.set_resv (t : Thread) (i : Nat) (x : Lane) : (t.set i x).resv = t.resv := rfl
@[simp] theorem Thread.set_bins (t : Thread) (i : Nat) (x : Lane) : (t.set i x).bins = t.bins := rfl

/-! ### Thread.empty -/

@[simp] theorem Thread.empty_core (t : Thread) (i : Nat) : (t.empty i).core = t.core := rfl
@[simp] theorem Thread.empty_done (t : Thread) (i : Nat) : (t.empty i).done = t.done := rfl
@[simp] theorem Thread.empty_base (t : Thread) (i : Nat) : (t.empty i).base = t.base := rfl
@[simp] theorem Thread.empty_calls (t : Thread) (i : Nat) : (t.empty i).calls = t.calls := rfl
@[simp] theorem Thread.empty_floor (t : Thread) (i : Nat) : (t.empty i).floor = t.floor := rfl
@[simp] theorem Thread.empty_v (t : Thread) (i : Nat) : (t.empty i).v = t.v.set i ⟨(t.lreg i).val, false⟩ := rfl
@[simp] theorem Thread.empty_h (t : Thread) (i : Nat) : (t.empty i).h = t.h := rfl
@[simp] theorem Thread.empty_tsw (t : Thread) (i : Nat) : (t.empty i).tsw = t.tsw := rfl
@[simp] theorem Thread.empty_resv (t : Thread) (i : Nat) : (t.empty i).resv = t.resv := rfl
@[simp] theorem Thread.empty_bins (t : Thread) (i : Nat) : (t.empty i).bins = t.bins := rfl

/-! ### Thread.flag -/

@[simp] theorem Thread.flag_core (t : Thread) (f : BitVec 32) : (t.flag f).core = t.core := rfl
@[simp] theorem Thread.flag_done (t : Thread) (f : BitVec 32) : (t.flag f).done = t.done := rfl
@[simp] theorem Thread.flag_base (t : Thread) (f : BitVec 32) : (t.flag f).base = t.base := rfl
@[simp] theorem Thread.flag_calls (t : Thread) (f : BitVec 32) : (t.flag f).calls = t.calls := rfl
@[simp] theorem Thread.flag_floor (t : Thread) (f : BitVec 32) : (t.flag f).floor = t.floor := rfl
@[simp] theorem Thread.flag_v (t : Thread) (f : BitVec 32) : (t.flag f).v = t.v := rfl
@[simp] theorem Thread.flag_h (t : Thread) (f : BitVec 32) : (t.flag f).h = t.h := rfl
@[simp] theorem Thread.flag_tsw (t : Thread) (f : BitVec 32) : (t.flag f).tsw = t.tsw ||| f := rfl
@[simp] theorem Thread.flag_resv (t : Thread) (f : BitVec 32) : (t.flag f).resv = t.resv := rfl
@[simp] theorem Thread.flag_bins (t : Thread) (f : BitVec 32) : (t.flag f).bins = t.bins := rfl

/-! ### Act.setU -/

@[simp] theorem Act.setU_uid (a : Act) (n : Nat) (x : Word) : (a.setU n x).uid = a.uid := rfl
@[simp] theorem Act.setU_pc (a : Act) (n : Nat) (x : Word) : (a.setU n x).pc = a.pc := rfl
@[simp] theorem Act.setU_lanes (a : Act) (n : Nat) (x : Word) : (a.setU n x).lanes = a.lanes := rfl
@[simp] theorem Act.setU_s (a : Act) (n : Nat) (x : Word) : (a.setU n x).s = a.s.set n ⟨x, true⟩ := rfl
@[simp] theorem Act.setU_k (a : Act) (n : Nat) (x : Word) : (a.setU n x).k = a.k := rfl
@[simp] theorem Act.setU_kind (a : Act) (n : Nat) (x : Word) : (a.setU n x).kind = a.kind := rfl
@[simp] theorem Act.setU_status (a : Act) (n : Nat) (x : Word) : (a.setU n x).status = a.status := rfl
@[simp] theorem Act.setU_inTrap (a : Act) (n : Nat) (x : Word) : (a.setU n x).inTrap = a.inTrap := rfl
@[simp] theorem Act.setU_only (a : Act) (n : Nat) (x : Word) : (a.setU n x).only = a.only := rfl
@[simp] theorem Act.setU_since (a : Act) (n : Nat) (x : Word) : (a.setU n x).since = a.since := rfl
@[simp] theorem Act.setU_ibuf (a : Act) (n : Nat) (x : Word) : (a.setU n x).ibuf = a.ibuf := rfl
@[simp] theorem Act.setU_last (a : Act) (n : Nat) (x : Word) : (a.setU n x).last = a.last := rfl
@[simp] theorem Act.setU_foot (a : Act) (n : Nat) (x : Word) : (a.setU n x).foot = a.foot := rfl
@[simp] theorem Act.setU_footAt (a : Act) (n : Nat) (x : Word) : (a.setU n x).footAt = a.footAt := rfl

/-! ### Act.emptyU -/

@[simp] theorem Act.emptyU_uid (a : Act) (n : Nat) : (a.emptyU n).uid = a.uid := rfl
@[simp] theorem Act.emptyU_pc (a : Act) (n : Nat) : (a.emptyU n).pc = a.pc := rfl
@[simp] theorem Act.emptyU_lanes (a : Act) (n : Nat) : (a.emptyU n).lanes = a.lanes := rfl
@[simp] theorem Act.emptyU_s (a : Act) (n : Nat) : (a.emptyU n).s = a.s.set n ⟨(a.u n).val, false⟩ := rfl
@[simp] theorem Act.emptyU_k (a : Act) (n : Nat) : (a.emptyU n).k = a.k := rfl
@[simp] theorem Act.emptyU_kind (a : Act) (n : Nat) : (a.emptyU n).kind = a.kind := rfl
@[simp] theorem Act.emptyU_status (a : Act) (n : Nat) : (a.emptyU n).status = a.status := rfl
@[simp] theorem Act.emptyU_inTrap (a : Act) (n : Nat) : (a.emptyU n).inTrap = a.inTrap := rfl
@[simp] theorem Act.emptyU_only (a : Act) (n : Nat) : (a.emptyU n).only = a.only := rfl
@[simp] theorem Act.emptyU_since (a : Act) (n : Nat) : (a.emptyU n).since = a.since := rfl
@[simp] theorem Act.emptyU_ibuf (a : Act) (n : Nat) : (a.emptyU n).ibuf = a.ibuf := rfl
@[simp] theorem Act.emptyU_last (a : Act) (n : Nat) : (a.emptyU n).last = a.last := rfl
@[simp] theorem Act.emptyU_foot (a : Act) (n : Nat) : (a.emptyU n).foot = a.foot := rfl
@[simp] theorem Act.emptyU_footAt (a : Act) (n : Nat) : (a.emptyU n).footAt = a.footAt := rfl

/-! ### Act.setK -/

@[simp] theorem Act.setK_uid (a : Act) (n : Nat) (f : SetForm) : (a.setK n f).uid = a.uid := rfl
@[simp] theorem Act.setK_pc (a : Act) (n : Nat) (f : SetForm) : (a.setK n f).pc = a.pc := rfl
@[simp] theorem Act.setK_lanes (a : Act) (n : Nat) (f : SetForm) : (a.setK n f).lanes = a.lanes := rfl
@[simp] theorem Act.setK_s (a : Act) (n : Nat) (f : SetForm) : (a.setK n f).s = a.s := rfl
@[simp] theorem Act.setK_k (a : Act) (n : Nat) (f : SetForm) : (a.setK n f).k = a.k.set n ⟨f, true⟩ := rfl
@[simp] theorem Act.setK_kind (a : Act) (n : Nat) (f : SetForm) : (a.setK n f).kind = a.kind := rfl
@[simp] theorem Act.setK_status (a : Act) (n : Nat) (f : SetForm) : (a.setK n f).status = a.status := rfl
@[simp] theorem Act.setK_inTrap (a : Act) (n : Nat) (f : SetForm) : (a.setK n f).inTrap = a.inTrap := rfl
@[simp] theorem Act.setK_only (a : Act) (n : Nat) (f : SetForm) : (a.setK n f).only = a.only := rfl
@[simp] theorem Act.setK_since (a : Act) (n : Nat) (f : SetForm) : (a.setK n f).since = a.since := rfl
@[simp] theorem Act.setK_ibuf (a : Act) (n : Nat) (f : SetForm) : (a.setK n f).ibuf = a.ibuf := rfl
@[simp] theorem Act.setK_last (a : Act) (n : Nat) (f : SetForm) : (a.setK n f).last = a.last := rfl
@[simp] theorem Act.setK_foot (a : Act) (n : Nat) (f : SetForm) : (a.setK n f).foot = a.foot := rfl
@[simp] theorem Act.setK_footAt (a : Act) (n : Nat) (f : SetForm) : (a.setK n f).footAt = a.footAt := rfl

/-! ### Act.emptyK -/

@[simp] theorem Act.emptyK_uid (a : Act) (n : Nat) : (a.emptyK n).uid = a.uid := rfl
@[simp] theorem Act.emptyK_pc (a : Act) (n : Nat) : (a.emptyK n).pc = a.pc := rfl
@[simp] theorem Act.emptyK_lanes (a : Act) (n : Nat) : (a.emptyK n).lanes = a.lanes := rfl
@[simp] theorem Act.emptyK_s (a : Act) (n : Nat) : (a.emptyK n).s = a.s := rfl
@[simp] theorem Act.emptyK_k (a : Act) (n : Nat) : (a.emptyK n).k = a.k.set n ⟨(a.kr n).form, false⟩ := rfl
@[simp] theorem Act.emptyK_kind (a : Act) (n : Nat) : (a.emptyK n).kind = a.kind := rfl
@[simp] theorem Act.emptyK_status (a : Act) (n : Nat) : (a.emptyK n).status = a.status := rfl
@[simp] theorem Act.emptyK_inTrap (a : Act) (n : Nat) : (a.emptyK n).inTrap = a.inTrap := rfl
@[simp] theorem Act.emptyK_only (a : Act) (n : Nat) : (a.emptyK n).only = a.only := rfl
@[simp] theorem Act.emptyK_since (a : Act) (n : Nat) : (a.emptyK n).since = a.since := rfl
@[simp] theorem Act.emptyK_ibuf (a : Act) (n : Nat) : (a.emptyK n).ibuf = a.ibuf := rfl
@[simp] theorem Act.emptyK_last (a : Act) (n : Nat) : (a.emptyK n).last = a.last := rfl
@[simp] theorem Act.emptyK_foot (a : Act) (n : Nat) : (a.emptyK n).foot = a.foot := rfl
@[simp] theorem Act.emptyK_footAt (a : Act) (n : Nat) : (a.emptyK n).footAt = a.footAt := rfl

end Sys2Proof.Machine
end

