-- ==== Sys2Proof/Laws/Effects.lean ====
section
/-!
SUPPORT. What the shared operations beyond issue can do, each said once: repetition, writing memory, records, taking a trap, the
image of a saved context.
-/

namespace Sys2Proof.Machine

open Sys2Proof.Claims

/-! ### Repetition -/

/-- What each round keeps, the repetition keeps. -/
theorem forEach_keeps {α : Type} {P : State → Prop} {f : State → α → State} (h : ∀ s x, P s → P (f s x)) (ts : List α)
    (s : State) (hs : P s) : P (forEach ts f s) := by
  induction ts generalizing s with
  | nil => exact hs
  | cons t ts ih => exact ih _ (h s t hs)

/-- A part of the state that no round changes, the repetition does not change. -/
theorem forEach_same {α β : Type} (g : State → β) {f : State → α → State} (h : ∀ s x, g (f s x) = g s) (ts : List α)
    (s : State) : g (forEach ts f s) = g s :=
  forEach_keeps (P := fun t => g t = g s) (fun t x ht => (h t x).trans ht) ts s rfl

/-! ### Writing memory (R192, R196) -/

/-- Ending reservations changes threads alone, and of a thread its reservation alone. -/
theorem State.endResv_eq (s : State) (k n : Nat) : s.endResv k n = { s with threads := (s.endResv k n).threads } := by
  unfold State.endResv; split <;> rfl

/-- Tainting changes pending operations alone. -/
theorem State.taint_eq (s : State) (k n : Nat) : s.taint k n = { s with pend := (s.taint k n).pend } := by
  unfold State.taint; split <;> rfl

/-- Writing bytes changes memory, reservations and taints, and nothing else. -/
theorem State.put_eq (s : State) (k : Nat) (bs : List Byte) :
    s.put k bs = { s with mem := memWrites s.mem k bs, threads := (s.put k bs).threads, pend := (s.put k bs).pend } := by
  simp only [State.put]
  rw [State.taint_eq, State.endResv_eq]

@[simp] theorem State.put_mem (s : State) (k : Nat) (bs : List Byte) : (s.put k bs).mem = memWrites s.mem k bs := by
  rw [State.put_eq]
@[simp] theorem State.put_ctxs (s : State) (k : Nat) (bs : List Byte) : (s.put k bs).ctxs = s.ctxs := by rw [State.put_eq]
@[simp] theorem State.put_teams (s : State) (k : Nat) (bs : List Byte) : (s.put k bs).teams = s.teams := by rw [State.put_eq]
@[simp] theorem State.put_launches (s : State) (k : Nat) (bs : List Byte) : (s.put k bs).launches = s.launches := by
  rw [State.put_eq]
@[simp] theorem State.put_cores (s : State) (k : Nat) (bs : List Byte) : (s.put k bs).cores = s.cores := by rw [State.put_eq]
@[simp] theorem State.put_dies (s : State) (k : Nat) (bs : List Byte) : (s.put k bs).dies = s.dies := by rw [State.put_eq]
@[simp] theorem State.put_hub (s : State) (k : Nat) (bs : List Byte) : (s.put k bs).hub = s.hub := by rw [State.put_eq]
@[simp] theorem State.put_cur (s : State) (k : Nat) (bs : List Byte) : (s.put k bs).cur = s.cur := by rw [State.put_eq]

/-- Writing pieces writes them over memory, one after another. -/
theorem State.putSegs_mem (segs : List (Nat × Nat)) (bs : List Byte) (s : State) :
    (State.putSegs segs bs s).mem = writeOver s.mem segs bs := by
  induction segs generalizing s bs with
  | nil => rfl
  | cons p segs ih => obtain ⟨k, n⟩ := p; simp [State.putSegs, writeOver, ih]

theorem State.wf_put {s : State} (h : Memory.wf s.mem = true) (k : Nat) (bs : List Byte) :
    Memory.wf (s.put k bs).mem = true := by
  rw [State.put_mem]; exact Memory.wf_memWrites _ _ _ h

theorem State.wf_putSegs {s : State} (h : Memory.wf s.mem = true) (segs : List (Nat × Nat)) (bs : List Byte) :
    Memory.wf (State.putSegs segs bs s).mem = true := by
  induction segs generalizing s bs with
  | nil => exact h
  | cons p segs ih => obtain ⟨k, n⟩ := p; exact ih (State.wf_put h k _) _

/-! ### Records (R290, R293) -/

/-- A record changes a ring of one core, and nothing else. -/
theorem State.record_eq (s : State) (core launch kind slot path : Nat) (tail : List Byte) :
    s.record core launch kind slot path tail = { s with cores := (s.record core launch kind slot path tail).cores } := by
  unfold State.record; split <;> rfl

/-! ### Taking a trap (R273 to R276) -/

/-- A kill touches launches, contexts and the hub alone. -/
theorem State.kill_eq (s : State) (launch status code : Nat) (tstat : Word) :
    s.kill launch status code tstat =
      { s with launches := (s.kill launch status code tstat).launches, ctxs := (s.kill launch status code tstat).ctxs,
               hub := (s.kill launch status code tstat).hub } := by
  unfold State.kill; repeat' split
  all_goals rfl

@[simp] theorem State.kill_threads (s : State) (l st c : Nat) (w : Word) : (s.kill l st c w).threads = s.threads := by rw [State.kill_eq]
@[simp] theorem State.kill_cores (s : State) (l st c : Nat) (w : Word) : (s.kill l st c w).cores = s.cores := by rw [State.kill_eq]
@[simp] theorem State.kill_fresh (s : State) (l st c : Nat) (w : Word) : (s.kill l st c w).fresh = s.fresh := by rw [State.kill_eq]
@[simp] theorem State.kill_nextId (s : State) (l st c : Nat) (w : Word) : (s.kill l st c w).nextId = s.nextId := by rw [State.kill_eq]

/-- Starting a handler touches contexts, threads, a trace ring and the next name. -/
theorem State.startHandler_eq (s : State) (r : PathRef) (c : Ctx) (a : Act) (launch entry : Nat) (t : TrapInfo) :
    let u := s.startHandler r c a launch entry t
    u = { s with threads := u.threads, ctxs := u.ctxs, cores := u.cores, nextId := u.nextId } := by
  simp only [State.startHandler]
  rw [State.record_eq]
  have h (ts : List Nat) (v : State) : ∀ f : Nat → Thread → Thread,
      forEach ts (fun s tid => s.modThread c.team tid (f tid)) v =
        { v with threads := (forEach ts (fun s tid => s.modThread c.team tid (f tid)) v).threads } := by
    intro f
    induction ts generalizing v with
    | nil => rfl
    | cons x ts ih => exact ih (v.modThread c.team x (f x))
  rw [h _ _ fun _ th => { th with base := th.slid 32, floor := th.calls.length, resv := none }]
  rfl

@[simp] theorem State.startHandler_launches (s : State) (r : PathRef) (c : Ctx) (a : Act) (l e : Nat) (t : TrapInfo) :
    (s.startHandler r c a l e t).launches = s.launches := by rw [State.startHandler_eq]
@[simp] theorem State.startHandler_fresh (s : State) (r : PathRef) (c : Ctx) (a : Act) (l e : Nat) (t : TrapInfo) :
    (s.startHandler r c a l e t).fresh = s.fresh := by rw [State.startHandler_eq]
@[simp] theorem State.startHandler_hub (s : State) (r : PathRef) (c : Ctx) (a : Act) (l e : Nat) (t : TrapInfo) :
    (s.startHandler r c a l e t).hub = s.hub := by rw [State.startHandler_eq]

/-- Asking a pool for room takes at most a free choice. -/
theorem State.poolFree_eq {s v : State} {team core n rec : Nat} {t : Team} {ts : List Nat} {b : Bool}
    (h : s.poolFree team core t ts n rec = (b, v)) : ∃ f, v = { s with fresh := f } := by
  simp only [State.poolFree] at h
  split at h <;> cases h
  · exact ⟨s.fresh, rfl⟩
  · exact ⟨_, rfl⟩

/-- All that a trap can touch; memory and pending operations are as they were. -/
theorem State.trap_eq (s : State) (r : PathRef) (t : TrapInfo) :
    let u := s.trap r t
    u = { s with threads := u.threads, ctxs := u.ctxs, launches := u.launches, cores := u.cores, hub := u.hub,
                 nextId := u.nextId, fresh := u.fresh } := by
  simp only [State.trap]
  split
  · rfl
  · split
    · split
      · rfl
      · split
        · conv_lhs => rw [State.kill_eq]
          simp
        · split
          · conv_lhs => rw [State.kill_eq]
            simp
          · split
            · rfl
            · split
              · conv_lhs => rw [State.kill_eq]
                simp
              · split <;> next v hv =>
                  obtain ⟨f, rfl⟩ := State.poolFree_eq hv
                  conv_lhs => first | rw [State.kill_eq] | rw [State.startHandler_eq]
                  simp
    · rfl

@[simp] theorem State.trap_mem (s : State) (r : PathRef) (t : TrapInfo) : (s.trap r t).mem = s.mem := by rw [State.trap_eq]
@[simp] theorem State.trap_pend (s : State) (r : PathRef) (t : TrapInfo) : (s.trap r t).pend = s.pend := by rw [State.trap_eq]
@[simp] theorem State.trap_teams (s : State) (r : PathRef) (t : TrapInfo) : (s.trap r t).teams = s.teams := by rw [State.trap_eq]
@[simp] theorem State.trap_dies (s : State) (r : PathRef) (t : TrapInfo) : (s.trap r t).dies = s.dies := by rw [State.trap_eq]
@[simp] theorem Env.trap_mem (e : Env) (s : State) (code : Nat) (tids : List Nat) (uni : Bool) :
    (e.trap s code tids uni).mem = s.mem := State.trap_mem _ _ _
@[simp] theorem Env.trapAll_mem (e : Env) (s : State) (code : Nat) : (e.trapAll s code).mem = s.mem := State.trap_mem _ _ _

end Sys2Proof.Machine
end

