-- ==== Sys2Proof/Laws/Issue.lean ====
section
/-!
SUPPORT. Issue, retirement and the writes of threads: what each leaves, said once.
-/

namespace Sys2Proof.Machine

open Sys2Proof.Claims

/-! ### Issue -/

theorem issueOver_ready {s : State} {e : Env} {n : Needs} {ts : Env → List Nat} {eff : Env → State → State}
    (h : AtIssue s e n (ts e)) : issueOver s n ts eff = .next (eff e s) := by
  obtain ⟨he, hb, hs, hk⟩ := h
  simp [issueOver, he, hb, hs, hk]

theorem issuePath_ready {s : State} {e : Env} {n : Needs} {eff : Env → State → State}
    (h : AtIssue s e n e.act.lanes) : issuePath s n eff = .next (eff e s) :=
  issueOver_ready (ts := fun e => e.held) h

theorem issueThreads_executes {s : State} {e : Env} {g : Guard} {n : Needs} {ts : List Nat}
    {eff : Env → List Nat → State → State} (h : Executes s e g n ts) :
    issueThreads s g n eff = .next (eff e ts s) := by
  obtain ⟨hr, rfl, hg⟩ := h
  have he := hr.1
  cases g with
  | none =>
    simp only [issueThreads, he]
    exact issueOver_ready (ts := fun e => e.exec s none) hr
  | some k =>
    obtain ⟨h1, h2, h3⟩ := hg
    simp only [issueThreads, he, h1, h2, h3, if_false, Bool.false_eq_true]
    exact issueOver_ready (ts := fun e => e.exec s (some k)) hr

/-- Every issue under the scoreboard answers a next state when a path is at issue. -/
theorem issueOver_next {s : State} {e : Env} (he : s.env? = some e) (n : Needs) (ts : Env → List Nat)
    (eff : Env → State → State) : ∃ t, issueOver s n ts eff = .next t := by
  simp only [issueOver, he]
  repeat' split
  all_goals exact ⟨_, rfl⟩

/-! ### Retirement -/

theorem Ctx.modTop_count (c : Ctx) (slot : Nat) (f : Act → Act) : (c.modTop slot f).count = c.count := by
  simp only [Ctx.modTop, Ctx.setStack]; split <;> rfl

theorem Ctx.modTop_modTop (c : Ctx) (slot : Nat) (f g : Act → Act) :
    (c.modTop slot f).modTop slot g = c.modTop slot (fun a => g (f a)) := by
  simp only [Ctx.modTop, Ctx.setStack, Ctx.stack]
  split
  · cases c.p0 <;> rfl
  · cases c.p1 <;> rfl

theorem retired_retireTo (e : Env) (s : State) (pc : Nat) : Retired s (e.retireTo s pc) e pc id := by
  simp only [Retired, Env.retireTo, Env.goto, Env.modAct, State.modAct, State.modCtx, Map.modify_modify, Ctx.modTop_count,
    id]

theorem retired_modAct (e : Env) (s : State) (pc : Nat) (f : Act → Act) :
    Retired s (e.retireTo (e.modAct s f) pc) e pc f := by
  simp only [Retired, Env.retireTo, Env.goto, Env.modAct, State.modAct, State.modCtx, Map.modify_modify, Ctx.modTop_count,
    Ctx.modTop_modTop]
  rfl

@[simp] theorem Env.retireTo_threads (e : Env) (s : State) (pc : Nat) : (e.retireTo s pc).threads = s.threads := rfl

theorem sameElse_retireTo (e : Env) (s s' : State) (pc : Nat) (h : SameElse s s') : SameElse s (e.retireTo s' pc) := h

theorem sameElse_modAct (e : Env) (s : State) (f : Act → Act) : SameElse s (e.modAct s f) := by
  simp [SameElse, SameDevice, Env.modAct]

theorem sameElse_refl (s : State) : SameElse s s := by simp [SameElse, SameDevice]

/-! ### Threads -/

theorem tkey_inj {team i j : Nat} (h : tkey team i = tkey team j) : i = j := by simp only [tkey] at h; omega

theorem wrote_refl (th : Thread) : Wrote th th [] 0 := by simp [Wrote]

theorem wrote_comp {a b c : Thread} {ws : List (Nat × Lane)} {f : BitVec 32} (h1 : Wrote a b ws f) (h2 : Wrote b c ws f) :
    Wrote a c ws f := by
  obtain ⟨_, l1, e1⟩ := h1
  obtain ⟨w2, l2, e2⟩ := h2
  have hb : b.base = a.base := by rw [e1]
  refine ⟨w2, fun j hj => ?_, ?_⟩
  · rw [l2 j (by rw [hb]; exact hj), l1 j hj]
  · rw [e2, e1]; simp [BitVec.or_assoc]

/-- Changes of threads, one after another, are one change of the map of threads. -/
theorem forEach_modThread (e : Env) (ts : List Nat) (g : Nat → Thread → Thread) (s : State) :
    forEach ts (fun s' t => e.modThread s' t (g t)) s =
      { s with threads := ts.foldl (fun m t => Map.modify m (tkey e.ctx.team t) (g t)) s.threads } := by
  induction ts generalizing s with
  | nil => rfl
  | cons t ts ih => simp only [forEach, List.foldl_cons] at ih ⊢; rw [ih]; rfl

theorem foldl_modify_other (key : Nat → Nat) (ts : List Nat) (g : Nat → Thread → Thread) (m : Map Thread) (k : Nat)
    (h : ∀ t ∈ ts, k ≠ key t) : (ts.foldl (fun m t => Map.modify m (key t) (g t)) m).get? k = m.get? k := by
  induction ts generalizing m with
  | nil => rfl
  | cons t ts ih =>
    rw [List.foldl_cons, ih _ fun t ht => h t (by simp [ht]), Map.get?_modify_of_ne _ _ (h t (by simp))]

theorem foldl_modify_wrote (key : Nat → Nat) (hk : ∀ i j, key i = key j → i = j) (ts : List Nat)
    (g : Nat → Thread → Thread) (ws : Nat → List (Nat × Lane)) (f : Nat → BitVec 32)
    (hg : ∀ t ∈ ts, ∀ th, Wrote th (g t th) (ws t) (f t)) (m : Map Thread) (t : Nat) (ht : t ∈ ts) (th : Thread)
    (hm : m.get? (key t) = some th) :
    ∃ th', (ts.foldl (fun m t => Map.modify m (key t) (g t)) m).get? (key t) = some th' ∧ Wrote th th' (ws t) (f t) := by
  induction ts generalizing m th with
  | nil => simp at ht
  | cons u ts ih =>
    rw [List.foldl_cons]
    have hgts : ∀ t ∈ ts, ∀ th, Wrote th (g t th) (ws t) (f t) := fun t h => hg t (by simp [h])
    by_cases htu : t ∈ ts
    · by_cases h : t = u
      · subst h
        have h1 : (Map.modify m (key t) (g t)).get? (key t) = some (g t th) := by simp [hm]
        obtain ⟨th', e1, e2⟩ := ih hgts _ htu _ h1
        exact ⟨th', e1, wrote_comp (hg t (by simp) th) e2⟩
      · have hne : key t ≠ key u := fun hc => h (hk _ _ hc)
        exact ih hgts _ htu _ (by rw [Map.get?_modify_of_ne _ _ hne, hm])
    · have h : t = u := by simpa [htu] using ht
      subst h
      refine ⟨g t th, ?_, hg t (by simp) th⟩
      rw [foldl_modify_other key ts g _ _ fun u hu hc => htu (by rw [hk t u hc]; exact hu)]
      simp [hm]

/-- Writing each executing thread, as `Threads` says it. -/
theorem threads_forEach (e : Env) (s : State) (ts : List Nat) (g : Nat → Thread → Thread)
    (ws : Nat → List (Nat × Lane)) (f : Nat → BitVec 32) (hg : ∀ t ∈ ts, ∀ th, Wrote th (g t th) (ws t) (f t)) :
    Threads s (forEach ts (fun s' t => e.modThread s' t (g t)) s) e ts ws f := by
  rw [forEach_modThread]
  refine ⟨fun tid ht th hth => ?_, fun k hk => ?_⟩
  · exact foldl_modify_wrote (tkey e.ctx.team) (fun i j h => tkey_inj h) ts g ws f hg s.threads tid ht th hth
  · exact foldl_modify_other (tkey e.ctx.team) ts g s.threads k hk

theorem sameElse_forEach (e : Env) (s : State) (ts : List Nat) (g : Nat → Thread → Thread) :
    SameElse s (forEach ts (fun s' t => e.modThread s' t (g t)) s) := by
  rw [forEach_modThread]; simp [SameElse, SameDevice]

theorem ctxs_forEach (e : Env) (s : State) (ts : List Nat) (g : Nat → Thread → Thread) :
    (forEach ts (fun s' t => e.modThread s' t (g t)) s).ctxs = s.ctxs := by
  rw [forEach_modThread]

/-! ### Registers of a thread -/

theorem Thread.lreg_setL (th : Thread) (i j : Nat) (x : Lane) :
    (th.setL i x).lreg j = if j = i then ⟨x, true⟩ else th.lreg j := by
  simp only [Thread.lreg, Thread.setL, Map.getD, Map.get?_set]
  split <;> rfl

theorem Thread.lreg_set (th : Thread) (i j : Nat) (x : Lane) :
    (th.set i x).lreg j = if j = th.base + i then ⟨x, true⟩ else th.lreg j := Thread.lreg_setL th _ j x

theorem Thread.reg_set (th : Thread) (i j : Nat) (x : Lane) :
    (th.set i x).reg j = if j = i then ⟨x, true⟩ else th.reg j := by
  simp only [Thread.reg, Thread.set_base, Thread.lreg_set]
  by_cases h : j = i <;> simp [h]

theorem wrote_set (th : Thread) (d : Nat) (x : Lane) : Wrote th (th.set d x) [(d, x)] 0 := by
  refine ⟨by simp [Thread.reg_set], fun j hj => ?_, by simp [Thread.set, Thread.setL]⟩
  rw [Thread.lreg_set, if_neg (by simpa using hj)]

theorem wrote_set_pair (th : Thread) (d : Nat) (x y : Lane) :
    Wrote th ((th.set d x).set (d + 1) y) [(d, x), (d + 1, y)] 0 := by
  refine ⟨by simp [Thread.reg_set], fun j hj => ?_, by simp [Thread.set, Thread.setL]⟩
  simp only [List.mem_cons, List.not_mem_nil, or_false, forall_eq_or_imp, forall_eq] at hj
  rw [Thread.lreg_set, Thread.lreg_set, if_neg (by simpa using hj.2), if_neg (by simpa using hj.1)]

theorem modThread_modThread (e : Env) (s : State) (t : Nat) (f g : Thread → Thread) :
    e.modThread (e.modThread s t f) t g = e.modThread s t (fun th => g (f th)) := by
  simp only [Env.modThread, State.modThread, Map.modify_modify]

theorem Thread.flag_zero (th : Thread) : th.flag 0 = th := by simp [Thread.flag]

theorem Env.flag_eq (e : Env) (s : State) (t : Nat) (f : BitVec 32) : e.flag s t f = e.modThread s t (·.flag f) := by
  simp only [Env.flag]
  split
  · subst_vars
    simp only [Thread.flag_zero, Env.modThread, State.modThread, Map.modify_id]
  · rfl

theorem wrote_flag {th th' : Thread} {ws : List (Nat × Lane)} {f : BitVec 32} (h : Wrote th th' ws 0) :
    Wrote th (th'.flag f) ws f := by
  obtain ⟨h1, h2, h3⟩ := h
  refine ⟨h1, h2, ?_⟩
  rw [h3]; simp [Thread.flag]

/-- Several window registers of a thread written in turn. -/
def Thread.setAll (th : Thread) (ws : List (Nat × Lane)) : Thread := ws.foldl (fun th w => th.set w.1 w.2) th

theorem Thread.setAll_base (th : Thread) (ws : List (Nat × Lane)) : (th.setAll ws).base = th.base := by
  induction ws generalizing th with
  | nil => rfl
  | cons w ws ih => simp only [Thread.setAll, List.foldl_cons] at ih ⊢; rw [ih]; rfl

theorem Thread.setAll_other (th : Thread) (ws : List (Nat × Lane)) (j : Nat) (h : ∀ w ∈ ws, j ≠ th.base + w.1) :
    (th.setAll ws).lreg j = th.lreg j := by
  induction ws generalizing th with
  | nil => rfl
  | cons w ws ih =>
    simp only [Thread.setAll, List.foldl_cons] at ih ⊢
    rw [ih (th.set w.1 w.2) (fun w' hw' => h w' (by simp [hw'])), Thread.lreg_set, if_neg (h w (by simp))]

theorem wrote_setAll (th : Thread) (ws : List (Nat × Lane)) (hn : (ws.map Prod.fst).Nodup) :
    Wrote th (th.setAll ws) ws 0 := by
  refine ⟨?_, fun j hj => th.setAll_other ws j hj, ?_⟩
  · induction ws generalizing th with
    | nil => simp
    | cons w ws ih =>
      simp only [List.map_cons, List.nodup_cons, List.mem_map, not_exists, not_and] at hn
      intro w' hw'
      simp only [Thread.setAll, List.foldl_cons] at ih ⊢
      rcases List.mem_cons.1 hw' with rfl | hw'
      · have := (th.set w'.1 w'.2).setAll_other ws (th.base + w'.1) fun x hx hc =>
          hn.1 x hx (by simp at hc; omega)
        simp only [Thread.setAll] at this
        rw [Thread.reg, show (ws.foldl (fun th w => th.set w.1 w.2) (th.set w'.1 w'.2)).base = th.base from
          (th.set w'.1 w'.2).setAll_base ws, this, Thread.lreg_set, if_pos rfl]
      · exact ih _ hn.2 w' hw'
  · clear hn
    induction ws generalizing th with
    | nil => simp [Thread.setAll]
    | cons w ws ih =>
      simp only [Thread.setAll, List.foldl_cons] at ih ⊢
      have := ih (th.set w.1 w.2)
      rw [this]
      simp [Thread.set, Thread.setL]

theorem forEach_setV (e : Env) (s : State) (t : Nat) (ws : List (Nat × Lane)) :
    forEach ws (fun s' p => e.setV s' t p.1 p.2) s = e.modThread s t (·.setAll ws) := by
  induction ws generalizing s with
  | nil => simp [forEach, Thread.setAll, Env.modThread, State.modThread]
  | cons w ws ih =>
    have := ih (e.setV s t w.1 w.2)
    simp only [forEach, List.foldl_cons] at this ⊢
    rw [this, Env.setV, modThread_modThread]
    rfl

/-- A per-thread instruction that changes each executing thread by one function completes as `LanesComplete` says. -/
theorem lanes_complete {i : Instr} {g : Guard} {n : Needs} {ok : Env → State → List Nat → Prop}
    {val : Env → State → List Nat → Nat → List (Nat × Lane) × BitVec 32}
    (G : Env → State → List Nat → Nat → Thread → Thread)
    (hx : ∀ s e ts, Executes s e g n ts → ok e s ts →
      exec i s = .next (e.retire (forEach ts (fun s' t => e.modThread s' t (G e s ts t)) s)))
    (hw : ∀ s e ts, Executes s e g n ts → ok e s ts → ∀ t ∈ ts, ∀ th,
      Wrote th (G e s ts t th) (val e s ts t).1 (val e s ts t).2) : LanesComplete i g n ok val := by
  intro s e ts h hok
  refine ⟨_, hx s e ts h hok, ?_, ?_, ?_⟩
  · exact threads_forEach e s ts (G e s ts) (fun t => (val e s ts t).1) (fun t => (val e s ts t).2) (hw s e ts h hok)
  · have := retired_retireTo e (forEach ts (fun s' t => e.modThread s' t (G e s ts t)) s) e.next
    rw [forEach_modThread] at this ⊢
    exact this
  · exact sameElse_retireTo e s _ _ (sameElse_forEach e s ts _)

end Sys2Proof.Machine
end

