-- ==== Sys2Proof/Laws/Walk.lean ====
section
/-!
SUPPORT. A write outside the entries that a page walk reads leaves the walk as it is.
-/

namespace Sys2Proof.Machine

/-- A range that a write does not meet reads as before. -/
theorem memReads_memWrites_of_out (m : List Host.Cell) (k a n : Nat) (bs : List Byte) (h : Memory.wf m = true)
    (ho : a + n ≤ k ∨ k + bs.length ≤ a) : memReads (memWrites m k bs) a n = memReads m a n := by
  apply List.ext_getElem
  · simp
  · intro i h1 _
    have hi : i < n := by simpa using h1
    rw [getElem_memReads _ _ _ _ hi, getElem_memReads _ _ _ _ hi, memRead_memWrites_of_out m k _ bs h (by omega)]

/-- R172: a walk is decided by the entries that it reads. -/
theorem walkFrom_memWrites (m : List Host.Cell) (va k : Nat) (bs : List Byte) (h : Memory.wf m = true) (n table : Nat)
    (ho : ∀ a ∈ walkReads m va n table, a + 8 ≤ k ∨ k + bs.length ≤ a) :
    walkFrom (memWrites m k bs) va n table = walkFrom m va n table := by
  induction n generalizing table with
  | zero => rfl
  | succ n ih =>
    have hh : memNat (memWrites m k bs) (dieKey (table + 8 * (va / 2 ^ (16 + 10 * n) % 1024))) 8 =
        memNat m (dieKey (table + 8 * (va / 2 ^ (16 + 10 * n) % 1024))) 8 := by
      refine congrArg leNat (memReads_memWrites_of_out m k _ 8 bs h (ho _ ?_))
      simp only [walkReads]
      split <;> simp
    simp only [walkFrom, hh]
    split
    · rfl
    · split
      · rfl
      · split
        · rfl
        · rename_i h1 h2 h3
          refine ih _ fun a ha => ho a ?_
          simp only [walkReads]
          simp only [Bool.or_eq_true, Bool.not_eq_true', not_or, Bool.not_eq_false] at h1 h2 h3
          rw [if_pos (by simp_all)]
          exact List.mem_cons_of_mem _ ha

@[simp] theorem State.put_poison (s : State) (k : Nat) (bs : List Byte) : (s.put k bs).poison = s.poison := by rw [State.put_eq]
@[simp] theorem State.put_columnBad (s : State) (k x : Nat) (bs : List Byte) : (s.put k bs).columnBad x = s.columnBad x := by
  simp [State.columnBad, State.core]

end Sys2Proof.Machine
end

