-- ==== Sys2Proof/Safety.lean ====
section
/-!
DEFINITION. What counts as a safe run: no fault and no refusal, memory in its canonical form.
-/

namespace Sys2Proof

/-- A state in which memory has its one canonical form. -/
def Safe (s : Machine.State) : Prop := Machine.Memory.wf s.mem = true

/-- A step that ends in a next state. -/
def Runs (s : Machine.State) : Prop := ∃ s', Machine.step s = .next s'

end Sys2Proof
end

