-- ==== Sys2Proof/Tests/Slice0.lean ====
section
/-!
SUPPORT. Tests of the model: terms that are no instructions, words of the manual's encodings, words that are rejected, one step on
the manual's examples, and for each statement of `Certificates/Slice0/Obligations.lean` that has hypotheses a state and operands
that meet them (`witness_<Name>`), clause by clause.
-/

open Sys2Proof.Machine Sys2Proof.Claims

namespace Sys2Proof.Tests

set_option Elab.async false

/-! ### Words of the manual -/

/-- An arithmetic word over registers, and one with a single source. -/
def A (ty : Ty) (d a b : BitVec 8) : Arith :=
  ⟨none, false, ty, .rne, 0, d, .vec (.reg a), .vec (.reg b), .none, false, false, false⟩
def S1 (ty : Ty) (d b : BitVec 8) : Arith := { A ty d 0 b with a := .none }

/-- R384, R347 to R350, R391, R360, R340, R406, R277. -/
theorem test_decode_control_1 :
    decodeTableWord 64 0x0000000000000000 = some (.nop) ∧
    decodeTableWord 64 0x00800003FFF40000 = some (.bra (.near 0xFFFD)) ∧
    decodeTableWord 64 0x0100001800000000 = some (.brs ⟨.reg 6, false⟩) ∧
    decodeTableWord 64 0x01800020000C0401 = some (.brc ⟨.ne, .reg 8, false, .imm 0, .near 3⟩) ∧
    decodeTableWord 64 0x02000000000C0010 = some (.call ⟨.near 3, 16⟩) := by decide

/-- R384, R347 to R350, R391, R360, R340, R406, R277. -/
theorem test_decode_control_2 :
    decodeTableWord 64 0x0280005000200000 = some (.callv ⟨20, false, 8⟩) ∧
    decodeTableWord 64 0x0300000000000000 = some (.ret) ∧
    decodeTableWord 64 0x03CC000000000000 = some (.exit (some 3)) ∧
    decodeTableWord 64 0x0480000000000203 = some (.bar ⟨2, 3⟩) ∧
    decodeTableWord 64 0x0500000000000000 = some (.trap) := by decide

/-- R384, R347 to R350, R391, R360, R340, R406, R277. -/
theorem test_decode_control_3 :
    decodeTableWord 64 0x0580000000000000 = some (.rft) ∧
    decodeTableWord 64 0x0600000000000000 = some (.brk) := by decide

/-- R153, R263, R401. -/
theorem test_decode_control_waits :
    decodeTableWord 64 0x0400484000000100 = some (.wait ⟨18, 16, .none, true, 0, 0, false, false⟩) ∧
    decodeTableWord 64 0x0400502801900401 = some (.wait ⟨20, 10, .imm 100, false, 1, 0, false, false⟩) ∧
    decodeTableWord 64 0x0680501000000000 = some (.launch ⟨20, .reg 4, false, .imm 0, false, 0⟩) ∧
    decodeTableWord 64 0x0700305010000000 = some (.spawn ⟨none, 12, 20, 4, false, false⟩) := by decide

/-- R393, R71. -/
theorem test_decode_set_algebra_1 :
    decodeTableWord 64 0x0900040408000000 = some (.sand ⟨1, 1, 2⟩) ∧
    decodeTableWord 64 0x0900040408000001 = some (.sor ⟨1, 1, 2⟩) ∧
    decodeTableWord 64 0x09000C0408000002 = some (.sxor ⟨3, 1, 2⟩) ∧
    decodeTableWord 64 0x090010100C000003 = some (.sandn ⟨4, 4, 3⟩) ∧
    decodeTableWord 64 0x0900080400000004 = some (.snot ⟨2, 1, 0⟩) := by decide

/-- R393, R71. -/
theorem test_decode_set_algebra_2 :
    decodeTableWord 64 0x0900140800000005 = some (.smov ⟨5, 2, 0⟩) ∧
    decodeTableWord 64 0x09000C0000000006 = some (.sclr ⟨3, 0, 0⟩) ∧
    decodeTableWord 64 0x0900040000000007 = some (.sall ⟨1, 0, 0⟩) ∧
    decodeTableWord 64 0x0900040000000008 = some (.sheld ⟨1, 0, 0⟩) ∧
    decodeTableWord 64 0x0900080400000009 = some (.sfirst ⟨2, 1, 0⟩) := by decide

/-- R393, R71. -/
theorem test_decode_set_algebra_3 :
    decodeTableWord 64 0x0980241000000000 = some (.scnt ⟨9, 4⟩) ∧
    decodeTableWord 64 0x0A00080400000000 = some (.suniF ⟨2, 1, 0⟩) := by decide

/-- R71, R72. -/
theorem test_decode_sets_in_memory :
    decodeTableWord 64 0x0A80081000000000 = some (.sld ⟨2, 0, .reg 4, false, .imm 0, false, false, 0⟩) ∧
    decodeTableWord 64 0x0B00001008080000 = some (.sst ⟨2, 0, .reg 4, false, .imm 2, false, false, 0⟩) ∧
    decodeTableWord 64 0x0B80281C04000000 = some (.sqpush ⟨1, 10, .reg 7, false, .imm 0, false, false, 0⟩) ∧
    decodeTableWord 64 0x0C00081C20000000 = some (.sqpop ⟨2, 8, .reg 7, false, .imm 0, false, false, 0⟩) := by decide

/-- R71, R72, R86, R87. -/
theorem test_decode_tests_and_blocks_1 :
    decodeTableWord 64 0x08000C000C000042 = some (.test ⟨none, 3, .reg 0, .vec (.reg 3), .int32, .lt, false, false⟩) ∧
    decodeTableWord 64 0x08000413C0000042 = some (.test ⟨none, 1, .reg 4, .vec (.const 0), .int32, .lt, false, false⟩) ∧
    decodeTableWord 64 0x08800413C4000041 = some (.testb ⟨none, 1, .reg 4, .vec (.const 1), .int32, .ne, false, false⟩) ∧
    decodeTableWord 64 0x0C80000800140000 = some (.applyG ⟨2, 0, .near 5, false, 0⟩) ∧
    decodeTableWord 64 0x0C80080800140188 = some (.applyF ⟨2, 2, .near 5, true, 2⟩) := by decide

/-- R71, R72, R86, R87. -/
theorem test_decode_tests_and_blocks_2 :
    decodeTableWord 128 0xC0000000000000070D001050140C1100 = some (.applykF ⟨4, 20, 5, 3, 7, false, 0, false, false⟩) ∧
    decodeTableWord 128 0xC0000002000000060D80000408001000 = some (.fork ⟨1, 2, 4, 6⟩) ∧
    decodeTableWord 64 0x0E00000000000000 = some (.aend) := by decide

/-- R371 to R376, R382, R399, R359. -/
theorem test_decode_integer_1 :
    decodeTableWord 64 0x1000141018000040 = some (.iadd (A .int32 5 4 6)) ∧
    decodeTableWord 64 0x104C10080C010040 = some (.iadd { A .int32 4 2 3 with guard := some 3, rb := true }) ∧
    decodeTableWord 64 0x10801C1D90000440 = some (.isub { A .int32 7 7 0 with b := .imm 100 }) ∧
    decodeTableWord 128 0xC00000000000008010001C0800001E60 = some (.iadd { A .int64 7 0 0 with uform := true, a := .uni (.reg 2), b := .lit 0x80 }) ∧
    decodeTableWord 64 0x1100281014000040 = some (.imul (A .int32 10 4 5)) := by decide

/-- R371 to R376, R382, R399, R359. -/
theorem test_decode_integer_2 :
    decodeTableWord 64 0x11802810140000C0 = some (.imulh (A .uint32 10 4 5)) ∧
    decodeTableWord 64 0x1200281014180040 = some (.imad { A .int32 10 4 5 with c := .vec (.reg 6) }) ∧
    decodeTableWord 64 0x1280181014000040 = some (.div (A .int32 6 4 5)) ∧
    decodeTableWord 64 0x1300181014000040 = some (.rem (A .int32 6 4 5)) ∧
    decodeTableWord 64 0x1380281014000040 = some (.imin (A .int32 10 4 5)) := by decide

/-- R371 to R376, R382, R399, R359. -/
theorem test_decode_integer_3 :
    decodeTableWord 64 0x14002810140000C0 = some (.imax (A .uint32 10 4 5)) ∧
    decodeTableWord 64 0x1480280014000040 = some (.iabs (S1 .int32 10 5)) ∧
    decodeTableWord 64 0x1500100010000040 = some (.ineg (S1 .int32 4 4)) := by decide

/-- R376, R399, R382, R383. -/
theorem test_decode_moves_1 :
    decodeTableWord 64 0x1580141018000042 = some (.lea { A .int32 5 4 6 with sh := 2 }) ∧
    decodeTableWord 64 0x15801C080C000A63 = some (.lea { A .int64 7 0 0 with uform := true, a := .uni (.reg 2), b := .uni (.reg 3), sh := 3 }) ∧
    decodeTableWord 64 0x1600281014180040 = some (.sel { A .int32 10 4 5 with c := .vec (.reg 6) }) ∧
    decodeTableWord 64 0x1680840024000240 = some (.mov { S1 .int32 33 0 with b := .uni (.reg 9) }) ∧
    decodeTableWord 64 0x168044003C000A60 = some (.mov { S1 .int64 17 0 with uform := true, b := .uni (.reg 15) }) := by decide

/-- R376, R399, R382, R383. -/
theorem test_decode_moves_2 :
    decodeTableWord 128 0xC0000000000000FF174C100000001640 = some (.movi { S1 .int32 4 0 with guard := some 3, b := .lit 0xFF }) := by decide

/-- R335, R385 to R387, R394, R392, R345, R346, R353, R408. -/
theorem test_decode_bits_1 :
    decodeTableWord 64 0x18001823C4000040 = some (.and { A .int32 6 8 0 with b := .vec (.const 1) }) ∧
    decodeTableWord 64 0x1880281014000040 = some (.or (A .int32 10 4 5)) ∧
    decodeTableWord 64 0x1900281014000040 = some (.xor (A .int32 10 4 5)) ∧
    decodeTableWord 64 0x198010001C000040 = some (.not (S1 .int32 4 7)) ∧
    decodeTableWord 64 0x1A000F83C8000040 = some (.shl { A .int32 3 0 0 with a := .vec .tid, b := .vec (.const 2) }) := by decide

/-- R335, R385 to R387, R394, R392, R345, R346, R353, R408. -/
theorem test_decode_bits_2 :
    decodeTableWord 64 0x1A80808078000440 = some (.shr { A .int32 32 32 0 with b := .imm 30 }) ∧
    decodeTableWord 64 0x1B002813E0000040 = some (.sar { A .int32 10 4 0 with b := .vec (.const 8) }) ∧
    decodeTableWord 64 0x1B802813D8000040 = some (.rol { A .int32 10 4 0 with b := .vec (.const 6) }) ∧
    decodeTableWord 64 0x1C002813D8000040 = some (.ror { A .int32 10 4 0 with b := .vec (.const 6) }) ∧
    decodeTableWord 64 0x1C801C0010000040 = some (.popc (S1 .int32 7 4)) := by decide

/-- R335, R385 to R387, R394, R392, R345, R346, R353, R408. -/
theorem test_decode_bits_3 :
    decodeTableWord 64 0x1D001C0010000040 = some (.clz (S1 .int32 7 4)) ∧
    decodeTableWord 64 0x1D8024100C000240 = some (.bfe { A .int32 9 4 0 with b := .uni (.reg 3) }) ∧
    decodeTableWord 64 0x1E0024100C280240 = some (.bfi { A .int32 9 4 0 with b := .uni (.reg 3), c := .vec (.reg 10) }) := by decide

/-- R364 to R369. -/
theorem test_decode_floating_1 :
    decodeTableWord 64 0x2000281014000140 = some (.fadd (A .bf16 10 4 5)) ∧
    decodeTableWord 64 0x2000201C18000101 = some (.fadd { A .fp32 8 7 6 with rnd := .rz }) ∧
    decodeTableWord 64 0x2080281014000100 = some (.fsub (A .fp32 10 4 5)) ∧
    decodeTableWord 64 0x21001C1BC8000100 = some (.fmul { A .fp32 7 6 0 with b := .vec (.const 2) }) ∧
    decodeTableWord 64 0x2180281014180100 = some (.fma { A .fp32 10 4 5 with c := .vec (.reg 6) }) := by decide

/-- R364 to R369. -/
theorem test_decode_floating_2 :
    decodeTableWord 64 0x2200281014000100 = some (.fmin (A .fp32 10 4 5)) ∧
    decodeTableWord 64 0x2280281014000100 = some (.fmax (A .fp32 10 4 5)) ∧
    decodeTableWord 64 0x2300281014000100 = some (.fldx (A .fp32 10 4 5)) ∧
    decodeTableWord 64 0x2380280014000100 = some (.fsplit (S1 .fp32 10 5)) ∧
    decodeTableWord 64 0x2400280014000101 = some (.frnd { S1 .fp32 10 5 with rnd := .rz }) := by decide

/-- R362, R363. -/
theorem test_decode_transcendental_1 :
    decodeTableWord 64 0x2800280014000100 = some (.frcp (S1 .fp32 10 5)) ∧
    decodeTableWord 64 0x2880280014000100 = some (.frsq (S1 .fp32 10 5)) ∧
    decodeTableWord 64 0x2900280014000103 = some (.fsqrt { S1 .fp32 10 5 with rnd := .ru }) ∧
    decodeTableWord 64 0x2980280014000100 = some (.exp2 (S1 .fp32 10 5)) ∧
    decodeTableWord 64 0x2A00280014000100 = some (.exp2s (S1 .fp32 10 5)) := by decide

/-- R362, R363. -/
theorem test_decode_transcendental_2 :
    decodeTableWord 64 0x2A80280014000100 = some (.log2 (S1 .fp32 10 5)) ∧
    decodeTableWord 64 0x2B00280014000100 = some (.fsin (S1 .fp32 10 5)) ∧
    decodeTableWord 64 0x2B80280014000100 = some (.fcos (S1 .fp32 10 5)) ∧
    decodeTableWord 64 0x2C00280014000100 = some (.ftanh (S1 .fp32 10 5)) := by decide

/-- R357, R389, R390, R231. -/
theorem test_decode_conversion :
    decodeTableWord 64 0x2C80240022000162 = some (.cvt ⟨none, .e4m3, .fp32, .rne, 2, 9, .vec (.reg 8), false⟩) ∧
    decodeTableWord 64 0x2D00A00020000101 = some (.qpack ⟨none, .fp32, 1, 40, 8, false⟩) ∧
    decodeTableWord 64 0x2D802000A0000101 = some (.qunp ⟨none, .fp32, 1, 8, 40, false⟩) ∧
    decodeTableWord 64 0x2E00780000080100 = some (.gnorm ⟨none, 30, 2⟩) := by decide

/-- R397, R342, R378. -/
theorem test_decode_cross_lane :
    decodeTableWord 64 0x30002813C4000058 = some (.shfl ⟨none, .int32, .xor, 10, .reg 4, .vec (.const 1), false, false⟩) ∧
    decodeTableWord 64 0x3080281018000040 = some (.scat ⟨none, .int32, .idx, 10, .reg 4, .vec (.reg 6), false, false⟩) ∧
    decodeTableWord 64 0x3100280014000100 = some (.lred ⟨none, .fp32, .add, false, 10, .reg 5, false⟩) ∧
    decodeTableWord 64 0x3180280014000042 = some (.lscan ⟨none, .int32, .add, true, 10, .reg 5, false⟩) ∧
    decodeTableWord 64 0x3200142000000440 = some (.bcast ⟨none, .int32, .idx, 5, .reg 8, .imm 0, false, false⟩) := by decide

/-- R373, R377, R395, R404, R189, R336. -/
theorem test_decode_memory_1 :
    decodeTableWord 64 0x380020080C100240 = some (.ld ⟨none, false, false, .int32, .lg, false, 0, 8, .reg 2, some (.reg 3), .imm 4, false, false⟩) ∧
    decodeTableWord 64 0x3800501400000462 = some (.ld ⟨none, false, true, .int64, .die, false, 0, 20, .reg 5, none, .imm 0, false, false⟩) ∧
    decodeTableWord 128 0xC0000000000088003800A01800001040 = some (.ld ⟨none, false, false, .int32, .lg, false, 0, 40, .reg 6, none, .wide 0x8800, false, false⟩) ∧
    decodeTableWord 64 0x388028180C000A40 = some (.st ⟨none, true, false, .int32, .lg, false, 0, 10, .reg 6, some (.reg 3), .imm 0, false, false⟩) ∧
    decodeTableWord 64 0x3944281400000040 = some (.lr ⟨some 1, false, false, .int32, .lg, false, 0, 10, .reg 5, none, .imm 0, false, false⟩) := by decide

/-- R373, R377, R395, R404, R189, R336. -/
theorem test_decode_memory_2 :
    decodeTableWord 64 0x39C82C1400300040 = some (.sc ⟨some 2, false, .int32, false, 0, 11, .reg 5, none, 12, none, false, false, false⟩) ∧
    decodeTableWord 64 0x3A00000000000012 = some (.fence ⟨.rel, .die⟩) ∧
    decodeTableWord 64 0x3A0000000000001C = some (.fence ⟨.ar, .sys⟩) ∧
    decodeTableWord 64 0x400020140C000202 = some (.atom ⟨none, false, false, .add, .int32, .die, 0, 8, .reg 5, some (.reg 3), .imm 0, false, false⟩) ∧
    decodeTableWord 64 0x400020140C000602 = some (.atom ⟨none, false, true, .add, .int32, .die, 0, 8, .reg 5, some (.reg 3), .imm 0, false, false⟩) := by decide

/-- R153, R229, R235. -/
theorem test_decode_scratchpad_1 :
    decodeTableWord 64 0x3A8014080C000200 = some (.tagl ⟨⟨none, .reg 2, some (.reg 3), .imm 0, false, false⟩, 5⟩) ∧
    decodeTableWord 64 0x3B0018080C000200 = some (.tags ⟨⟨none, .reg 2, some (.reg 3), .imm 0, false, false⟩, .reg 6⟩) ∧
    decodeTableWord 64 0x3B8000080C000200 = some (.tagi ⟨none, .reg 2, some (.reg 3), .imm 0, false, false⟩) ∧
    decodeTableWord 64 0x3C00001800000103 = some (.presSet ⟨.reg 6, false, .imm 0, 3⟩) ∧
    decodeTableWord 64 0x3C00001800000003 = some (.presClr ⟨.reg 6, false, .imm 0, 3⟩) := by decide

/-- R153, R229, R235. -/
theorem test_decode_scratchpad_2 :
    decodeTableWord 64 0x3C80001000082002 = some (.strm ⟨2, .reg 4, false, .imm 2, false, 1⟩) ∧
    decodeTableWord 64 0x3D00000000000001 = some (.strmx 1) ∧
    decodeTableWord 64 0x408018201C140200 = some (.gmax ⟨⟨none, .reg 8, some (.reg 7), 0, 0, false, false⟩, .reg 6, .reg 5, false⟩) ∧
    decodeTableWord 64 0x410050201C2C0200 = some (.gnext ⟨⟨none, .reg 8, some (.reg 7), 0, 0, false, false⟩, 20, 11⟩) ∧
    decodeTableWord 64 0x4180883450280000 = some (.route ⟨none, 34, .reg 13, .reg 20, .reg 10, false, false, 0, false, false, false⟩) := by decide

/-- R153, R215, R223, R239, R343. -/
theorem test_decode_engines_1 :
    decodeTableWord 64 0x48001C0C100C0220 = some (.cpa ⟨none, 2, .reg 7, .reg 3, .reg 4, .reg 3, .imm 32, 0, false, false, false⟩) ∧
    decodeTableWord 64 0x4880000000000001 = some (.cpwait ⟨none, none, 1⟩) ∧
    decodeTableWord 64 0x4900781008180000 = some (.bcopy ⟨30, .reg 4, .reg 2, .reg 6, false, false, false, false, false, 0, none⟩) ∧
    decodeTableWord 64 0x49803C3800000000 = some (.gather ⟨15, .reg 14, false, .imm 0, false, 0⟩) ∧
    decodeTableWord 64 0x4A00500000000003 = some (.tlrd ⟨20, 3⟩) := by decide

/-- R153, R215, R223, R239, R343. -/
theorem test_decode_engines_2 :
    decodeTableWord 64 0x4A80501000000000 = some (.coll ⟨20, .reg 4, false, .imm 0, false, 0⟩) ∧
    decodeTableWord 64 0x4B00002024000003 = some (.chsnd ⟨0, .reg 8, .reg 9, .imm 0, false, 3, 0, false, false⟩) ∧
    decodeTableWord 64 0x4B80302800000003 = some (.chrcv ⟨12, .reg 10, .reg 0, .imm 0, false, 3, 0, false, false⟩) := by decide

/-- R132. -/
theorem test_decode_matrix_1 :
    decodeTableWord 64 0x5000001010000000 = some (.mldw ⟨.reg 4, 4, .imm 0, false, 0, false, 0, false⟩) ∧
    decodeTableWord 64 0x5080000000000000 = some (.mswp false) ∧
    decodeTableWord 64 0x51007C1854000200 = some (.mstr ⟨31, .reg 6, .reg 21, .imm 0, false, true, false, 0, false, 0, false, false⟩) ∧
    decodeTableWord 64 0x5180400054000080 = some (.mdrnRegisters ⟨16, .reg 21, 0, false, 0, false⟩) ∧
    decodeTableWord 64 0x51807C1854080000 = some (.mdrnScratchpad ⟨31, .reg 6, .reg 21, .imm 2, false, 0, false, false⟩) := by decide

/-- R132. -/
theorem test_decode_matrix_2 :
    decodeTableWord 64 0x52005400007C0000 = some (.macq ⟨21, 31⟩) ∧
    decodeTableWord 64 0x52800054007C0000 = some (.mrel ⟨.reg 21, false, 31⟩) := by decide

/-- R246, R251, R254. -/
theorem test_decode_trees :
    decodeTableWord 128 0xC341800000000000580028180C301020 = some (.desc ⟨10, 6, 3, 12, 0, false, 0, false, false, false, some (13, 6)⟩) ∧
    decodeTableWord 128 0xC143C20000000000588038180C301020 = some (.ascd ⟨14, 6, 3, 12, 0, false, 0, false, false, false, 5, some (15, 8)⟩) ∧
    decodeTableWord 64 0x5900300000000000 = some (.pmovToVector ⟨none, 12, 0, false⟩) ∧
    decodeTableWord 64 0x5900003000000012 = some (.pmovToPath ⟨none, 12, 2, false⟩) := by decide

/-- R354, R208, R296, R297. -/
theorem test_decode_special_registers_1 :
    decodeTableWord 64 0x6000240000000000 = some (.csrrTsw ⟨none, 9⟩) ∧
    decodeTableWord 64 0x6000100000000007 = some (.csrr ⟨4, .sform⟩) ∧
    decodeTableWord 64 0x6080002400000000 = some (.csrwTsw ⟨none, .reg 9, false⟩) ∧
    decodeTableWord 64 0x6080002400000001 = some (.csrwSlk ⟨.reg 9, false⟩) ∧
    decodeTableWord 64 0x6080002400000002 = some (.csrwOvd ⟨.reg 9, false⟩) := by decide

/-- R354, R208, R296, R297. -/
theorem test_decode_special_registers_2 :
    decodeTableWord 64 0x6080002400000003 = some (.csrwTstat ⟨.reg 9, false⟩) ∧
    decodeTableWord 64 0x6100500000000000 = some (.rdclk 20) ∧
    decodeTableWord 64 0x6180001400000000 = some (.tmark ⟨.reg 5, false⟩) ∧
    decodeTableWord 64 0x6200001000000000 = some (.slkset ⟨.reg 4, false⟩) ∧
    decodeTableWord 64 0x6200001000000006 = some (.slksetOne ⟨.reg 4, false, 2⟩) := by decide

/-- R324, R326. -/
theorem test_decode_pairs :
    decodeTableWord 64 0x820405001C121400 = some (.pIadd ⟨4, .vec (.reg 5), false⟩ ⟨.fmul, ⟨9, .vec (.reg 10), false⟩⟩) ∧
    decodeTableWord 64 0x8105040002080A00 = some (.pMov ⟨5, .vec (.reg 4), false⟩ ⟨.mov, ⟨4, .vec (.reg 5), false⟩⟩) ∧
    decodeTableWord 64 0x8208EFF40E1BE400 = some (.pIadd ⟨8, .imm 0x3D, false⟩ ⟨.shl, ⟨13, .vec (.const 2), false⟩⟩) ∧
    decodeTableWord 64 0x8000000000000000 = some (.pNop PSlot.nopSlot) := by decide

/-- R324, R325. -/
theorem test_decode_pairs_integer_1 :
    decodeTableWord 64 0x8306090022160800 = some (.pIsub ⟨6, .vec (.reg 9), false⟩ ⟨.not, ⟨11, .vec (.reg 4), false⟩⟩) ∧
    decodeTableWord 64 0x8406090022160800 = some (.pAnd ⟨6, .vec (.reg 9), false⟩ ⟨.not, ⟨11, .vec (.reg 4), false⟩⟩) ∧
    decodeTableWord 64 0x8506090022160800 = some (.pOr ⟨6, .vec (.reg 9), false⟩ ⟨.not, ⟨11, .vec (.reg 4), false⟩⟩) ∧
    decodeTableWord 64 0x8606090022160800 = some (.pXor ⟨6, .vec (.reg 9), false⟩ ⟨.not, ⟨11, .vec (.reg 4), false⟩⟩) ∧
    decodeTableWord 64 0x8706090022160800 = some (.pShl ⟨6, .vec (.reg 9), false⟩ ⟨.not, ⟨11, .vec (.reg 4), false⟩⟩) := by decide

/-- R324, R325. -/
theorem test_decode_pairs_integer_2 :
    decodeTableWord 64 0x8806090022160800 = some (.pShr ⟨6, .vec (.reg 9), false⟩ ⟨.not, ⟨11, .vec (.reg 4), false⟩⟩) ∧
    decodeTableWord 64 0x8906090022160800 = some (.pSar ⟨6, .vec (.reg 9), false⟩ ⟨.not, ⟨11, .vec (.reg 4), false⟩⟩) ∧
    decodeTableWord 64 0x8A06090022160800 = some (.pImin ⟨6, .vec (.reg 9), false⟩ ⟨.not, ⟨11, .vec (.reg 4), false⟩⟩) ∧
    decodeTableWord 64 0x8B06090022160800 = some (.pImax ⟨6, .vec (.reg 9), false⟩ ⟨.not, ⟨11, .vec (.reg 4), false⟩⟩) := by decide

/-- R324, R325. -/
theorem test_decode_pairs_other_1 :
    decodeTableWord 64 0x8C06090022160800 = some (.pFadd ⟨6, .vec (.reg 9), false⟩ ⟨.not, ⟨11, .vec (.reg 4), false⟩⟩) ∧
    decodeTableWord 64 0x8D06090022160800 = some (.pFsub ⟨6, .vec (.reg 9), false⟩ ⟨.not, ⟨11, .vec (.reg 4), false⟩⟩) ∧
    decodeTableWord 64 0x8E06090022160800 = some (.pFmul ⟨6, .vec (.reg 9), false⟩ ⟨.not, ⟨11, .vec (.reg 4), false⟩⟩) ∧
    decodeTableWord 64 0x8F06090022160800 = some (.pFmin ⟨6, .vec (.reg 9), false⟩ ⟨.not, ⟨11, .vec (.reg 4), false⟩⟩) ∧
    decodeTableWord 64 0x9006090022160800 = some (.pFmax ⟨6, .vec (.reg 9), false⟩ ⟨.not, ⟨11, .vec (.reg 4), false⟩⟩) := by decide

/-- R324, R325. -/
theorem test_decode_pairs_other_2 :
    decodeTableWord 64 0x9106090022160800 = some (.pNot ⟨6, .vec (.reg 9), false⟩ ⟨.not, ⟨11, .vec (.reg 4), false⟩⟩) ∧
    decodeTableWord 64 0x9206090022160800 = some (.pIneg ⟨6, .vec (.reg 9), false⟩ ⟨.not, ⟨11, .vec (.reg 4), false⟩⟩) ∧
    decodeTableWord 64 0x9306090022160800 = some (.pIabs ⟨6, .vec (.reg 9), false⟩ ⟨.not, ⟨11, .vec (.reg 4), false⟩⟩) := by decide

/-! ### Rejections, by name -/

/-- Why words are rejected, if they are. -/
def rejects (ws : List Word) : Option Reject :=
  match decode (bytesOf ws) with
  | .error e => some e
  | .ok _ => none

/-- R313 to R317, R320, R324, R327, R331: too few bytes; a reserved opcode and function code; a bit in a reserved field; an
operand beyond v223 that is no special; a guard on RET; a trap-mode bit on BRA and of an immediate; a slack class on IADD; no X
word after MOVI; an X word first; two slots in one bank. -/
theorem test_decode_rejects :
    rejects [] = some .short ∧ rejects [0x7F80000000000000] = some .reservedOpcode ∧ rejects [0x090004040800000A] = some .reservedCode ∧
    rejects [0x24002800] = some .nonzeroReserved ∧ rejects [0x1000179418000040] = some .operandSpace ∧
    rejects [0x034C000000000000] = some .guard ∧ rejects [0x0080000000008000] = some .readMode ∧
    rejects [0x10801C1D90010440] = some .illFormed ∧ rejects [0x1000141018004040] = some .slack ∧
    rejects [0x174C100000001640, 0] = some .xWord ∧ rejects [0xC000000000000000] = some .xWordFirst ∧
    rejects [0x8204050004100C00] = some .pWord := by decide +kernel

/-! ### Ill-formed terms: one for each check of `Instr.wf` -/

/-- Arithmetic words (R315, R317, R319, R322, R323): type, rounding, shift, class, sources, uniform form, registers, pairs, read
modes, literals. -/
theorem test_wf_refuses_arithmetic :
    ∀ i ∈ ([.iadd (A .fp32 1 2 3), .iadd { A .int32 1 2 3 with rnd := .rz }, .iadd { A .int32 1 2 3 with sh := 1 },
      .mov { S1 .int32 4 0 with b := .imm 3 }, .movi (S1 .int32 4 5), .iadd (S1 .int32 4 5), .iabs (A .int32 4 5 6),
      .imad (A .int32 1 2 3), .iadd { A .int32 1 2 3 with c := .vec (.reg 4) },
      .fadd { A .fp32 1 2 3 with uform := true, a := .uni (.reg 2), b := .uni (.reg 3) },
      .iadd { A .int32 1 2 3 with uform := true, guard := some 1, a := .uni (.reg 2), b := .uni (.reg 3) },
      .iadd { A .int32 160 2 3 with uform := true, a := .uni (.reg 2), b := .uni (.reg 3) },
      .iadd { A .int32 1 2 3 with uform := true, a := .uni (.reg 160), b := .uni (.reg 3) },
      .iadd { A .int32 1 2 3 with uform := true, a := .vec (.reg 2), b := .uni (.reg 3) },
      .iadd { A .int32 1 2 3 with uform := true, a := .uni (.reg 2) }] : List Instr), i.wf = false := by decide

theorem test_wf_refuses_registers :
    ∀ i ∈ ([.iadd (A .int32 224 2 3), .iadd (A .int32 1 224 3), .iadd (A .int32 1 2 224), .iadd (A .int64 1 2 4), .iadd (A .int64 2 1 4),
      .iadd (A .int64 2 4 1), .iadd { A .int32 1 2 3 with a := .uni (.reg 2) }, .iadd { A .int32 1 2 3 with b := .uni (.reg 160) },
      .iadd { A .int32 1 2 3 with b := .imm 5, rb := true }, .iadd { A .int32 1 2 3 with b := .lit 5, rb := true },
      .fadd { A .fp16 1 2 3 with b := .lit 0x10000 }, .fadd { A .fp32 1 2 3 with b := .lit 0x100000000 },
      .iabs { S1 .int32 4 5 with ra := true }, .iadd { A .int32 1 2 3 with rc := true }, .fmin { A .fp32 1 2 3 with rnd := .rz },
      .fsplit (S1 .fp16 2 5), .exp2s (S1 .fp32 3 5)] : List Instr), i.wf = false := by decide

/-- R357, R389, R390, R231, R72, R74: conversions, packs, norms, tests. -/
theorem test_wf_refuses_conversions :
    ∀ i ∈ ([.cvt ⟨none, .nb4, .fp32, .rne, 1, 9, .vec (.reg 8), false⟩, .cvt ⟨none, .int64, .fp32, .rne, 0, 9, .vec (.reg 8), false⟩,
      .cvt ⟨none, .fp32, .int64, .rne, 0, 9, .vec (.reg 7), false⟩, .cvt ⟨none, .fp32, .int32, .rne, 0, 9, .imm 3, false⟩,
      .cvt ⟨none, .fp32, .e4m3, .rne, 2, 9, .vec (.const 0xA), false⟩, .cvt ⟨none, .e4m3, .fp32, .rz, 2, 9, .vec (.reg 8), false⟩,
      .cvt ⟨none, .fp16, .fp32, .rne, 2, 9, .vec (.reg 8), false⟩, .qpack ⟨none, .int32, 1, 40, 8, false⟩, .qpack ⟨none, .fp32, 1, 220, 8, false⟩,
      .qpack ⟨none, .fp32, 1, 40, 193, false⟩, .qunp ⟨none, .fp32, 1, 193, 40, false⟩, .qunp ⟨none, .fp32, 1, 8, 220, false⟩,
      .gnorm ⟨none, 30, 0⟩, .gnorm ⟨none, 30, 9⟩, .gnorm ⟨none, 223, 2⟩, .test ⟨none, 3, .reg 0, .vec (.reg 3), .e4m3, .lt, false, false⟩,
      .test ⟨none, 3, .reg 1, .vec (.reg 2), .int64, .lt, false, false⟩, .test ⟨none, 3, .reg 1, .imm 2, .int32, .lt, false, true⟩,
      .testb ⟨none, 1, .reg 4, .vec (.const 1), .int32, .lt, false, false⟩, .testb ⟨none, 1, .reg 4, .vec (.const 1), .fp32, .ne, false, false⟩] :
        List Instr), i.wf = false := by decide

/-- R71, R86 to R88, R315, R347 to R350, R391: sets, blocks, control. -/
theorem test_wf_refuses_sets_and_control :
    ∀ i ∈ ([.snot ⟨2, 1, 1⟩, .sclr ⟨3, 1, 0⟩, .sall ⟨3, 0, 1⟩, .scnt ⟨160, 4⟩, .sld ⟨2, 0, .reg 160, false, .imm 0, false, false, 0⟩,
      .sld ⟨2, 1, .reg 4, false, .imm 0, false, false, 0⟩, .sqpush ⟨1, 160, .reg 7, false, .imm 0, false, false, 0⟩, .applyG ⟨2, 1, .near 5, false, 0⟩,
      .applyF ⟨2, 161, .near 5, false, 0⟩, .applyF ⟨2, 2, .near 5, true, 29⟩, .applyF ⟨2, 2, .near 5, false, 2⟩,
      .applykF ⟨160, 20, 5, 3, 7, false, 0, false, false⟩, .applykF ⟨4, 224, 5, 3, 7, false, 0, false, false⟩,
      .applykF ⟨4, 20, 160, 3, 7, false, 0, false, false⟩, .applykF ⟨4, 20, 5, 161, 7, false, 0, false, false⟩,
      .applykF ⟨4, 20, 5, 3, 7, false, 1, false, false⟩, .brs ⟨.reg 160, false⟩, .brc ⟨.ne, .reg 160, false, .imm 0, .near 3⟩,
      .brc ⟨.ne, .reg 8, false, .uni (.reg 160), .near 3⟩, .call ⟨.near 3, 15⟩, .call ⟨.near 3, 224⟩, .callv ⟨21, false, 8⟩, .callv ⟨20, false, 7⟩,
      .wait ⟨160, 16, .none, true, 0, 0, false, false⟩, .wait ⟨18, 159, .none, true, 0, 0, false, false⟩, .wait ⟨18, 16, .none, true, 0, 0, false, true⟩,
      .wait ⟨18, 16, .uni (.reg 160), true, 0, 0, false, false⟩, .wait ⟨18, 16, .imm 1, true, 0, 0, false, true⟩,
      .launch ⟨160, .reg 4, false, .imm 0, false, 0⟩, .launch ⟨20, .reg 160, false, .imm 0, false, 0⟩, .launch ⟨20, .reg 4, false, .imm 0, true, 0⟩,
      .spawn ⟨none, 224, 20, 4, false, false⟩, .spawn ⟨none, 12, 21, 4, false, false⟩, .spawn ⟨none, 12, 20, 0xDE, false, false⟩] : List Instr),
      i.wf = false := by decide

/-- R153, R373, R377, R395, R336, R229, R235, R397, R342, R378: lanes, memory, tags, gates. -/
theorem test_wf_refuses_memory :
    ∀ i ∈ ([.shfl ⟨none, .e4m3, .xor, 10, .reg 4, .vec (.const 1), false, false⟩, .scat ⟨none, .int32, .xor, 10, .reg 4, .vec (.reg 6), false, false⟩,
      .shfl ⟨none, .int64, .xor, 11, .reg 4, .vec (.const 1), false, false⟩, .shfl ⟨none, .int32, .xor, 10, .reg 224, .vec (.const 1), false, false⟩,
      .shfl ⟨none, .int32, .xor, 10, .reg 4, .vec (.reg 224), false, false⟩, .bcast ⟨none, .int32, .idx, 5, .reg 8, .vec (.reg 3), false, false⟩,
      .lred ⟨none, .fp32, .and, false, 10, .reg 5, false⟩, .lred ⟨none, .int32, .add, true, 10, .reg 5, false⟩, .lred ⟨none, .int32, .add, false, 224, .reg 5, false⟩,
      .lscan ⟨none, .int64, .add, false, 10, .reg 5, false⟩, .ld ⟨none, false, false, .fp32, .lg, false, 0, 8, .reg 2, none, .imm 4, false, false⟩,
      .ld ⟨none, false, false, .int32, .die, false, 0, 8, .reg 2, none, .imm 4, false, false⟩,
      .ld ⟨none, false, false, .int64, .lg, false, 0, 9, .reg 2, none, .imm 4, false, false⟩,
      .ld ⟨none, false, false, .int32, .lg, false, 0, 8, .reg 160, none, .imm 4, false, false⟩,
      .st ⟨none, false, false, .int32, .lg, false, 0, 8, .reg 2, some (.reg 224), .imm 4, false, false⟩,
      .st ⟨none, false, false, .int32, .lg, false, 0, 8, .reg 2, none, .imm 4, false, true⟩,
      .lr ⟨none, false, false, .int8, .lg, false, 0, 10, .reg 5, none, .imm 0, false, false⟩,
      .lr ⟨none, false, true, .int32, .die, false, 0, 10, .reg 5, none, .imm 0, false, false⟩,
      .sc ⟨none, false, .int16, false, 0, 11, .reg 5, none, 12, none, false, false, false⟩,
      .sc ⟨none, false, .int32, false, 0, 224, .reg 5, none, 12, none, false, false, false⟩,
      .sc ⟨none, false, .int64, false, 0, 11, .reg 5, none, 13, none, false, false, false⟩] : List Instr), i.wf = false := by decide

theorem test_wf_refuses_atomics_and_gates :
    ∀ i ∈ ([.atom ⟨none, false, false, .cas, .int64, .die, 0, 222, .reg 5, none, .imm 0, false, false⟩,
      .atom ⟨none, false, false, .cas, .int32, .die, 0, 7, .reg 5, none, .imm 0, false, false⟩,
      .atom ⟨none, false, false, .add, .int64, .die, 0, 7, .reg 5, none, .imm 0, false, false⟩,
      .atom ⟨none, false, false, .add, .int32, .die, 0, 224, .reg 5, none, .imm 0, false, false⟩,
      .atom ⟨none, false, false, .and, .fp32, .die, 0, 8, .reg 5, none, .imm 0, false, false⟩,
      .tagl ⟨⟨none, .reg 2, none, .imm 0, false, false⟩, 224⟩,
      .tags ⟨⟨none, .reg 160, none, .imm 0, false, false⟩, .reg 6⟩, .tags ⟨⟨none, .reg 2, none, .imm 0, false, true⟩, .reg 6⟩, .presSet ⟨.reg 160, false, .imm 0, 3⟩,
      .strm ⟨2, .reg 160, false, .imm 2, false, 1⟩, .gmax ⟨⟨none, .reg 8, none, 0, 0, false, false⟩, .reg 224, .reg 5, false⟩,
      .gmax ⟨⟨none, .reg 8, none, 0, 0, false, false⟩, .reg 6, .reg 224, false⟩, .gnext ⟨⟨none, .reg 8, none, 0, 0, false, false⟩, 20, 20⟩,
      .route ⟨none, 224, .reg 13, .reg 20, .reg 10, false, false, 0, false, false, false⟩,
      .route ⟨none, 34, .reg 160, .reg 20, .reg 10, false, false, 0, false, false, false⟩,
      .route ⟨none, 34, .reg 13, .reg 224, .reg 10, false, false, 0, false, false, false⟩,
      .route ⟨none, 34, .reg 13, .reg 20, .reg 224, false, false, 0, false, false, false⟩] : List Instr), i.wf = false := by decide

/-- R132, R153, R161, R162, R215, R223, R239, R246, R251, R254, R343, R354: engines, matrices, trees, special registers. -/
theorem test_wf_refuses_engines :
    ∀ i ∈ ([.cpa ⟨none, 2, .reg 160, .reg 3, .reg 4, .reg 3, .imm 32, 0, false, false, false⟩, .cpa ⟨none, 2, .reg 7, .reg 224, .reg 4, .reg 3, .imm 32, 0, false, false, false⟩,
      .cpa ⟨none, 2, .reg 7, .reg 3, .reg 160, .reg 3, .imm 32, 0, false, false, false⟩, .cpa ⟨none, 2, .reg 7, .reg 3, .reg 4, .reg 224, .imm 32, 0, false, false, false⟩,
      .cpa ⟨none, 2, .reg 7, .reg 3, .reg 4, .reg 3, .imm 33, 0, false, false, false⟩, .cpa ⟨none, 2, .reg 7, .reg 3, .reg 4, .reg 3, .reg 224, 0, false, false, false⟩,
      .cpwait ⟨none, some 160, 1⟩, .bcopy ⟨160, .reg 4, .reg 2, .reg 6, false, false, false, false, false, 0, none⟩,
      .bcopy ⟨30, .reg 160, .reg 2, .reg 6, false, false, false, false, false, 0, none⟩, .gather ⟨160, .reg 14, false, .imm 0, false, 0⟩,
      .tlrd ⟨20, 5⟩, .tlrd ⟨160, 3⟩, .coll ⟨160, .reg 4, false, .imm 0, false, 0⟩, .chsnd ⟨1, .reg 8, .reg 9, .imm 0, false, 3, 0, false, false⟩,
      .chsnd ⟨0, .reg 160, .reg 9, .imm 0, false, 3, 0, false, false⟩, .chsnd ⟨0, .reg 8, .reg 160, .imm 0, false, 3, 0, false, false⟩,
      .chrcv ⟨160, .reg 10, .reg 0, .imm 0, false, 3, 0, false, false⟩, .chrcv ⟨12, .reg 10, .reg 1, .imm 0, false, 3, 0, false, false⟩,
      .chrcv ⟨12, .reg 10, .reg 0, .imm 0, false, 3, 0, false, true⟩, .mldw ⟨.reg 4, 0, .imm 0, false, 0, false, 0, false⟩,
      .mldw ⟨.reg 4, 17, .imm 0, false, 0, false, 0, false⟩, .mldw ⟨.reg 160, 4, .imm 0, false, 0, false, 0, false⟩] : List Instr), i.wf = false := by decide

theorem test_wf_refuses_matrices_trees_specials :
    ∀ i ∈ ([.mstr ⟨31, .reg 160, .reg 21, .imm 0, false, true, false, 0, false, 0, false, false⟩,
      .mstr ⟨31, .reg 6, .reg 160, .imm 0, false, true, false, 0, false, 0, false, false⟩, .mdrnRegisters ⟨224, .reg 21, 0, false, 0, false⟩,
      .mdrnRegisters ⟨16, .reg 160, 0, false, 0, false⟩, .mdrnScratchpad ⟨31, .reg 160, .reg 21, .imm 2, false, 0, false, false⟩, .macq ⟨160, 31⟩,
      .mrel ⟨.reg 160, false, 31⟩, .desc ⟨224, 6, 3, 12, 0, false, 0, false, false, false, none⟩, .desc ⟨10, 160, 3, 12, 0, false, 0, false, false, false, none⟩,
      .desc ⟨10, 6, 224, 12, 0, false, 0, false, false, false, none⟩, .desc ⟨10, 6, 3, 160, 0, false, 0, false, false, false, none⟩,
      .desc ⟨10, 6, 3, 12, 0, false, 0, false, false, false, some (160, 6)⟩, .ascd ⟨160, 6, 3, 12, 0, false, 0, false, false, false, 5, none⟩,
      .ascd ⟨14, 6, 3, 12, 0, false, 0, false, false, false, 224, none⟩, .ascd ⟨14, 6, 3, 12, 0, false, 0, false, false, false, 5, some (15, 224)⟩,
      .pmovToVector ⟨none, 13, 0, false⟩, .csrrTsw ⟨none, 224⟩, .csrwTsw ⟨none, .reg 224, false⟩, .csrr ⟨160, .sform⟩, .csrwSlk ⟨.reg 160, false⟩,
      .rdclk 159, .tmark ⟨.reg 160, false⟩, .slkset ⟨.reg 160, false⟩, .slksetOne ⟨.reg 160, false, 2⟩] : List Instr), i.wf = false := by decide

/-- R324, R326, R327: P words. -/
theorem test_wf_refuses_p_words :
    ∀ i ∈ ([.pNop ⟨.nop, ⟨1, .vec (.reg 0), false⟩⟩, .pIadd ⟨224, .vec (.reg 9), false⟩ PSlot.nopSlot, .pIadd ⟨6, .vec (.reg 224), false⟩ PSlot.nopSlot,
      .pFadd ⟨6, .imm 1, false⟩ PSlot.nopSlot, .pIadd ⟨6, .vec (.reg 9), false⟩ ⟨.fmul, ⟨11, .imm 1, false⟩⟩,
      .pIadd ⟨6, .vec (.reg 9), false⟩ ⟨.not, ⟨10, .vec (.reg 4), false⟩⟩, .pIadd ⟨6, .vec (.reg 9), false⟩ ⟨.not, ⟨11, .vec (.reg 5), false⟩⟩] : List Instr),
      i.wf = false := by decide

/-! ### Small machines -/

/-- The placed machine (log 11) with its one path at issue of a word at address 0. -/
def M0 : State := { State.reset.placed 0 with cur := some ⟨⟨1, 0⟩, 0, 1⟩ }

def noEnv : Env := ⟨⟨0, 0⟩, 0, 0, placedCtx, newAct 0 0 [] .home 0, placedTeam, placedLaunch, placedRecord⟩
def envOf (s : State) : Env := (s.env?).getD noEnv
def all16 : List Nat := List.range 16

def top (f : Act → Act) (s : State) : State := s.modAct ⟨1, 0⟩ f
def ctx1 (f : Ctx → Ctx) (s : State) : State := s.modCtx 1 f
/-- A uniform register, a set register, a register of one thread. -/
def withU (n : Nat) (x : Word) : State → State := top (·.setU n x)
def withK (n : Nat) (f : SetForm) : State → State := top (·.setK n f)
def withV (tid n : Nat) (x : Lane) (s : State) : State := s.modThread 1 tid (·.set n x)
/-- The page of the placed program in the TLBs of core 0 and of its die. -/
def page0 : TlbEntry := ⟨0x100000, 0, false, 0x20009D⟩
def cached (s : State) : State := (s.modCore 0 fun c => { c with tlb := [page0] }).modDie 0 fun d => { d with tlb := [page0] }
/-- Bytes at an address of the placed program's page, and of the team's scratchpad. -/
def poke (a : Nat) (bs : List Byte) (s : State) : State := { s with mem := memWrites s.mem (dieKey (0x200000 + a)) bs }
def pokeSpad (a : Nat) (bs : List Byte) (s : State) : State := { s with mem := memWrites s.mem (spadKey 0 a) bs }

/-! ### Hypotheses, by evaluation -/

def atB (s : State) (e : Env) (n : Needs) (ts : List Nat) : Bool :=
  decide (s.env? = some e) && decide (n.blocked e s ts = []) && decide (n.starved e s ts = []) && !n.k.any (e.lost s)

theorem at_ok {s : State} {e : Env} {n : Needs} {ts : List Nat} (h : atB s e n ts = true) : AtIssue s e n ts := by
  simpa [atB, AtIssue, and_assoc] using h

def exB (s : State) (e : Env) (g : Guard) (n : Needs) (ts : List Nat) : Bool :=
  atB s e n ts && decide (ts = e.exec s g) && match g with
    | none => true
    | some k => (e.act.kr k.toNat).full && !e.lost s k.toNat && decide (ts ≠ [])

theorem ex_ok {s : State} {e : Env} {g : Guard} {n : Needs} {ts : List Nat} (h : exB s e g n ts = true) :
    Executes s e g n ts := by
  simp only [exB, Bool.and_eq_true, decide_eq_true_eq] at h
  refine ⟨at_ok h.1.1, h.1.2, ?_⟩
  cases g with
  | none => trivial
  | some k => simpa [and_assoc] using h.2

/-- An equivalence about the members of a set among the sixteen threads, by evaluation. -/
theorem tids_ok {b : Tids} {P : Nat → Prop} (hb : b.toNat < 2 ^ 16) (h : ∀ tid < 16, (b.getLsbD tid = true ↔ P tid)) :
    ∀ tid, b.getLsbD tid = true ↔ tid < 2048 ∧ tid ∈ all16 ∧ P tid := by
  intro tid
  rcases lt_or_ge tid 16 with h' | h'
  · have : tid < 2048 := by omega
    simpa [h', this, all16] using h tid h'
  · have : b.getLsbD tid = false := by
      simp [BitVec.getLsbD, Nat.testBit_lt_two_pow (lt_of_lt_of_le hb (Nat.pow_le_pow_right (by decide) h'))]
    simp [this, all16, Nat.not_lt.2 h']

/-- The state after an instruction that goes on. -/
def after (i : Instr) (s : State) : State :=
  match exec i s with
  | .next t => t
  | _ => s

/-- Every thread of the team changed. -/
def threads (f : Thread → Thread) (s : State) : State := { s with threads := s.threads.map fun p => (p.1, f p.2) }

/-- An operation of the path of a machine. -/
def anOp (w : Work) (rs : List Res) : Op :=
  { ctx := 1, team := 1, core := 0, uid := 2, pc := 0, work := w, res := rs, tl := 5, num := 0, ov := false, cls := 0,
    late := false, leg := .arrived, since := 0, peer := false, fills := [], srcs := [], tainted := false, faults := [],
    failed := none, acc := none, slack := 0, reqs := 0, sent := 0, away := 0, exited := false, finished := false,
    seen := [], gone := [] }
def withOp (id : Nat) (o : Op) (s : State) : State := { s with pend := s.pend.set id o, nextId := max s.nextId (id + 1) }

/-! ### One step on the examples of the manual

The word stands at the entry of the placed program; the values are those that the entries of the reference give. -/

/-- The state after one step that runs a word with registers set before. -/
def ran (word : Nat) (f : State → State := id) : State :=
  match step (f (State.reset.placed word)) with
  | .next t => t
  | _ => State.reset
/-- The register of thread 0, of the path. -/
def v0 (n : Nat) (s : State) : Nat := ((s.thread 1 0).map fun t => (t.reg n).val.toNat).getD 0
def s0 (n : Nat) (s : State) : Nat := ((s.act? ⟨1, 0⟩).map fun a => (a.u n).val.toNat).getD 0
/-- v4 and v5 of thread 0. -/
def vs (a b : Lane) (s : State) : State := withV 0 4 a (withV 0 5 b s)

/-- R371, R372, R376. -/
theorem test_iadd_wraps : v0 5 (ran 0x1000141018000040 fun s => withV 0 4 0x7FFFFFFF (withV 0 6 1 s)) = 0x80000000 := by decide +kernel
theorem test_isub_uniform : s0 7 (ran 0x10801C1C04000C60) = 2 ^ 64 - 1 := by decide +kernel
theorem test_imul_low : v0 10 (ran 0x1100281014000040 (vs 0x10000 0x10001)) = 0x10000 := by decide +kernel
theorem test_imulh_unsigned : v0 10 (ran 0x11802810140000C0 (vs 0x80000000 6)) = 3 := by decide +kernel
theorem test_imad : v0 10 (ran 0x1200281014180040 fun s => withV 0 6 5 (vs 0x10000 0x10001 s)) = 0x10005 := by decide +kernel
theorem test_imax_unsigned : v0 10 (ran 0x14002810140000C0 (vs 0xFFFFFFFF 1)) = 0xFFFFFFFF := by decide +kernel
theorem test_imin_signed : v0 10 (ran 0x1380281014000040 (vs 0xFFFFFFFF 1)) = 0xFFFFFFFF := by decide +kernel
theorem test_iabs_of_least : v0 10 (ran 0x1480280014000040 (vs 0 0x80000000)) = 0x80000000 := by decide +kernel
theorem test_ineg_of_least : v0 4 (ran 0x1500100010000040 (vs 0x80000000 0)) = 0x80000000 := by decide +kernel
theorem test_lea_uniform : s0 7 (ran 0x15801C080C000A63 fun s => withU 2 0x7F0000000000 (withU 3 5 s)) = 0x7F0000000028 := by decide +kernel
theorem test_sel_takes_a : v0 10 (ran 0x1600281014180040 fun s => withV 0 6 0x100 (vs 7 9 s)) = 7 := by decide +kernel

/-- R335, R345, R346, R353, R385, R387, R394, R408. -/
theorem test_and : v0 6 (ran 0x18001823C4000040 (withV 0 8 0x35)) = 1 := by decide +kernel
theorem test_xor : v0 10 (ran 0x1900281014000040 (vs 0xABC 0xF0F)) = 0x5B3 := by decide +kernel
theorem test_not : v0 4 (ran 0x198010001C000040 (withV 0 7 0x35)) = 0xFFFFFFCA := by decide +kernel
theorem test_shr_by_40 : v0 10 (ran 0x1A80281014000040 (vs 0x800000F0 40)) = 0 := by decide +kernel
theorem test_sar_sign : v0 10 (ran 0x1B002813E0000040 (vs 0x800000F0 0)) = 0xFFFFFFFF := by decide +kernel
theorem test_rol : v0 10 (ran 0x1B802813D8000040 (vs 0x12345678 0)) = 0x34567812 := by decide +kernel
theorem test_popc : v0 7 (ran 0x1C801C0010000040 (vs 0xABC 0)) = 7 := by decide +kernel
theorem test_clz : v0 7 (ran 0x1D001C0010000040 (vs 0xABC 0)) = 20 := by decide +kernel
theorem test_bfe_signed : v0 9 (ran 0x1D8024100C000240 fun s => withU 3 0x804 (vs 0xABC 0 s)) = 0xFFFFFFAB := by decide +kernel
theorem test_bfi : v0 9 (ran 0x1E0024100C280240 fun s => withU 3 0x804 (withV 0 10 0x12345678 (vs 0xCD 0 s))) = 0x12345CD8 := by decide +kernel

/-- R364, R365, R369. -/
theorem test_fmin_orders_zeros : v0 10 (ran 0x2200281014000100 (vs 0 0x80000000)) = 0x80000000 := by decide +kernel
theorem test_fmax_drops_nan : v0 10 (ran 0x2280281014000100 (vs 0x7FC00000 0xC0000000)) = 0xC0000000 := by decide +kernel
theorem test_fmul_fp16_overflows : v0 10 (ran 0x2100281014000120 (vs 0x4000 0x7BFF)) = 0x7C00 := by decide +kernel
theorem test_fsub_of_itself : v0 10 (ran 0x2080281014000100 (vs 0x40490FDB 0x40490FDB)) = 0 := by decide +kernel
theorem test_fsplit_subnormal : let t := ran 0x2380280014000100 (withV 0 5 0x200)
    v0 10 t = 0x3F800000 ∧ v0 11 t = 2 ^ 32 - 140 := by decide +kernel

/-- R76, R71, R397: the cardinality of all 16 threads, counted; a set difference; a move across lanes. -/
theorem test_scnt : s0 9 (ran 0x0980241000000000 (withK 4 (.inline 0 0xFFFF))) = 16 := by decide +kernel
theorem test_sandn : ((ran 0x090010100C000003 fun s => withK 4 (.inline 0 0xFF) (withK 3 (.inline 0 0x0F) s)).act? ⟨1, 0⟩).map
    (fun a => (a.kr 4).form) = some (.inline 0 0xF0) := by decide +kernel
theorem test_shfl_xor : v0 10 (ran 0x30002813C4000058 (withV 1 4 77)) = 77 := by decide +kernel

/-- R320, R347, R186: a branch counts words from its own address, either way; a store waits in its context's queue. -/
theorem test_bra_forward : ((ran 0x0080000000140000).act? ⟨1, 0⟩).map (·.pc) = some 40 := by decide +kernel
theorem test_bra_back : ((ran 0x00800003FFF40000).act? ⟨1, 0⟩).map (·.pc) = some (2 ^ 64 - 24) := by decide +kernel
theorem test_st_enters_queue : ((ran 0x388028180C000A40 fun s => withU 6 0x100 (withV 0 10 0x01020304 s)).ctxs.get? 1).map
    (fun c => c.queue.map (·.bytes) |>.head?) = some (some [4, 3, 2, 1]) := by decide +kernel
/-- R331, R275: an illegal word traps ILLOP to TRAPENT. -/
theorem test_illegal_word_traps : ((ran 0x24002800).act? ⟨1, 0⟩).map (fun a => (a.pc, a.inTrap)) = some (0x800, true) := by decide +kernel

/-! ### Accesses, by evaluation -/

def memB (r : Reach) : Bool :=
  match r with
  | .go (.mem _ _ _) => true
  | _ => false

theorem mem_ok {r : Reach} (h : memB r = true) : ∃ segs sc host, r = .go (.mem segs sc host) := by
  match r, h with
  | .go (.mem a b c), _ => exact ⟨a, b, c, rfl⟩

def admB (s : State) (e : Env) (a : Access) : Bool :=
  decide (e.memHeld s = none) && (a.shared || decide (s.logUsed e.ref.ctx < 16)) &&
    a.items.all fun i => decide (i.addr % a.kind.align = 0) && !e.rangeBad a i

theorem adm_ok {s : State} {e : Env} {a : Access} (h : admB s e a = true) : Admitted s e a := by
  simpa [admB, Admitted, and_assoc] using h

def trB (s : State) (e : Env) (a : Access) : Bool :=
  a.shared || a.items.all fun i =>
    s.allCached e.ctx.core (dieOf e.ctx.core) e.launch.root i.addr (a.kind.size e.team.span)

theorem tr_ok {s : State} {e : Env} {a : Access} (h : trB s e a = true) : Translated s e a := by
  simpa [trB, Translated] using h

/-- What the items of an access come to. -/
def got (s : State) (e : Env) (a : Access) : List Got := (State.reachAll e.who a a.items s).1
def gone (s : State) (e : Env) (a : Access) : State := (State.reachAll e.who a a.items s).2

def reachB (s : State) (e : Env) (a : Access) : Bool :=
  let l := got s e a
  let s1 := gone s e a
  l.all (fun g => memB g.2 && !leafForbids a.kind g.2 && !s1.gotPoison a l g) &&
    decide (s1.absentLines e.who a l = []) && decide (s1.mustDrain e.who a s1.nextId l = none) &&
    decide (s1.requests e.ctx.core + sectorsFar (l.flatMap (·.2.segs)) ≤ 1024)

theorem reach_ok {s : State} {e : Env} {a : Access} (h : reachB s e a = true) : Reaches s e a (got s e a) (gone s e a) := by
  simp only [reachB, Bool.and_eq_true, decide_eq_true_eq, List.all_eq_true, Bool.not_eq_true'] at h
  exact ⟨rfl, fun g hg => ⟨mem_ok (h.1.1.1 g hg).1.1, (h.1.1.1 g hg).1.2, (h.1.1.1 g hg).2⟩, h.1.1.2, h.1.2, h.2⟩

def passB (s : State) (e : Env) (a : Access) : Bool := admB s e a && trB s e a && reachB s e a

theorem pass_ok {s : State} {e : Env} {a : Access} (h : passB s e a = true) : Passes s e a (got s e a) (gone s e a) := by
  simp only [passB, Bool.and_eq_true] at h
  exact ⟨adm_ok h.1.1, tr_ok h.1.2, reach_ok h.2⟩

def first (l : List Got) : Got := l.headD (⟨0, 0, 0, 0, 0⟩, .prot)

/-- The state with the page in the TLBs. -/
def Mc : State := cached M0
/-- Each thread's register 2 holds 64 times its tid. -/
def spread (s : State) : State := { s with threads := s.threads.map fun p => (p.1, p.2.set 2 (BitVec.ofNat 32 (p.1 % 2048 * 64))) }
def Ms : State := spread Mc

def afterAt (s : State) (e : Env) (a : Access) (addr : Nat) : State := (s.itemReach e.who a ⟨noTid, addr, 0, 0, noDst⟩).2

theorem use_ok {s : State} {e : Env} {a : Access} {addr n : Nat} {wr : Bool} {k : Nat} {sc host : Bool}
    (h : (s.itemReach e.who a ⟨noTid, addr, 0, 0, noDst⟩).1 = .go (.mem [(k, n)] sc host))
    (h' : (afterAt s e a addr).sqCheck e.who wr (.go (.mem [(k, n)] sc host)) = none) :
    Usable s e a addr n wr k (afterAt s e a addr) := ⟨sc, host, Prod.ext h rfl, h'⟩

theorem engine_ok {s : State} {e : Env} {va n : Nat} {need : Need} {k : Nat} {host : Bool}
    (h : (s.engineReach e.who va n need).1 = .go (.mem [(k, n)] false host) ∧
      (s.engineReach e.who va n need).2.segsPoisoned [(k, n)] = false) :
    EngineAt s e va n need k (s.engineReach e.who va n need).2 := ⟨host, Prod.ext h.1 rfl, h.2⟩

theorem stand_ok {s : State} {ctx : Nat}
    (h : ((s.act? ⟨ctx, 0⟩).all (fun a => decide (a.lanes ≠ []) && match a.status with
        | .join true true _ _ | .thenApply _ _ => false
        | _ => true) && match s.ctxs.get? ctx with
      | some c => decide (c.p1 = [])
      | none => true) = true) : PathsStand s ctx := by
  intro slot a ha
  simp only [Bool.and_eq_true] at h
  rcases Nat.eq_zero_or_pos slot with rfl | hs
  · rw [ha] at h
    simp only [Option.all_some, Bool.and_eq_true, decide_eq_true_eq] at h
    refine ⟨h.1.1, fun lb ov => ⟨fun hj => ?_, fun hj => ?_⟩⟩ <;> simp [hj] at h
  · simp only [State.act?, Ctx.stack, Nat.ne_of_gt hs, if_false] at ha
    cases hc : s.ctxs.get? ctx with
    | none => simp [hc] at ha
    | some c =>
      simp only [hc, decide_eq_true_eq] at h
      simp [hc, h.2] at ha

theorem rel_ok {s : State} {e : Env} (h : e.ctx.queue = [] ∧ (∀ l ∈ e.ctx.log, l.acc.kind.writes = false) ∧
    ∀ p ∈ s.pend, p.2.ctx = e.ref.ctx → p.2.peer = true → p.2.work ≠ .atomic ∧ p.2.work ≠ .queue ∧ p.2.work ≠ .route) :
    Released s e := h

theorem ready_ok {s : State} {e : Env} (h : e.memHeld s = none ∧ s.logUsed e.ref.ctx < 16 ∧ s.requests e.ctx.core < 1024 ∧
    e.ctx.queue = [] ∧ (∀ l ∈ e.ctx.log, l.acc.kind.writes = false) ∧
    ∀ p ∈ s.pend, p.2.ctx = e.ref.ctx → p.2.peer = true → p.2.work ≠ .atomic ∧ p.2.work ≠ .queue ∧ p.2.work ≠ .route) :
    EngineReady s e := h

theorem slide_ok {s : State} {e : Env} {ts : List Nat}
    (h : (∀ tid ∈ e.act.lanes, tid ∈ ts → (e.thread s tid).base + 32 + 224 ≤ 1024) ∧
      (s.poolFree e.ctx.team e.ctx.core e.team (e.act.lanes.filter (ts.contains ·)) 32 0).1 = true) : SlideFits s e ts := h

theorem fits_ok {s : State} {e : Env} {ts : List Nat}
    (h : (e.rcd.trapent ≠ 0 ∧ e.act.inTrap = false ∧ e.ctx.tstat.getLsbD 7 = false) ∧
      (∀ tid ∈ e.act.lanes, tid ∈ ts → (e.thread s tid).base + 32 + 224 ≤ 1024) ∧
      (s.poolFree e.ctx.team e.ctx.core e.team (e.act.lanes.filter (ts.contains ·)) 32 0).1 = true) : HandlerFits s e ts :=
  ⟨h.1.1, h.1.2.1, h.1.2.2, slide_ok h.2⟩

/-! ### Arithmetic -/

def ar (u : Bool) (ty : Ty) (a : ASrc) (b : BSrc) (c : ASrc) : Arith := ⟨none, u, ty, .rne, 0, 4, a, b, c, false, false, false⟩
def vv (n : BitVec 8) : ASrc := .vec (.reg n)
def bv (n : BitVec 8) : BSrc := .vec (.reg n)
/-- A machine whose k3 holds the threads 0 and 15. -/
def M3 : State := withK 3 (.inline 0 0x8001) M0

theorem witness_IntegerInstructionsWriteRuleValue :
    (∃ i o f s e ts, arithRule i = some (o, f) ∧ i.wf = true ∧ o.uform = false ∧ Executes s e o.guard o.needs ts) ∧
    (∃ i o f s e, arithRule i = some (o, f) ∧ i.wf = true ∧ o.uform = true ∧ AtIssue s e o.needs e.act.lanes) ∧
    (∃ i o f s e ts, shiftRule i = some (o, f) ∧ i.wf = true ∧ o.uform = false ∧ o.guard ≠ none ∧ Executes s e o.guard o.needs ts) ∧
    (∃ i o f s e ts, bitRule i = some (o, f) ∧ i.wf = true ∧ o.uform = false ∧ Executes s e o.guard o.needs ts) :=
  ⟨⟨.imad (ar false .int64 (vv 2) (bv 6) (vv 8)), _, _, M0, envOf M0, all16, rfl, by decide, rfl, ex_ok (by decide +kernel)⟩,
   ⟨.iadd (ar true .int32 (.uni .tsize) (.uni (.reg 3)) .none), _, _, M0, envOf M0, rfl, by decide, rfl, at_ok (by decide +kernel)⟩,
   ⟨.shl { ar false .int32 (vv 2) (bv 6) .none with guard := some 3 }, _, _, M3, envOf M3, [0, 15], rfl, by decide, rfl,
     by decide, ex_ok (by decide +kernel)⟩,
   ⟨.xor (ar false .int32 (vv 2) (.lit 7) .none), _, _, M0, envOf M0, all16, rfl, by decide, rfl, ex_ok (by decide +kernel)⟩⟩

theorem witness_DivisionPostsRuleResult :
    (∃ o s e ts, Instr.wf (.div o) = true ∧ o.uform = false ∧ Executes s e o.guard o.needs ts) ∧
    ∃ o s e, Instr.wf (.rem o) = true ∧ o.uform = true ∧ AtIssue s e o.needs e.act.lanes :=
  ⟨⟨ar false .int64 (vv 2) (bv 6) .none, M0, envOf M0, all16, by decide, rfl, ex_ok (by decide +kernel)⟩,
   ⟨ar true .int32 (.uni .tsize) (.uni (.reg 3)) .none, M0, envOf M0, by decide, rfl, at_ok (by decide +kernel)⟩⟩

theorem witness_FloatsCompleteAtRetirement :
    (∃ i o f s e ts, floatRule i = some (o, f) ∧ i.wf = true ∧ Executes s e o.guard o.needs ts) ∧
    (∃ o s e ts, Instr.wf (.fsplit o) = true ∧ Executes s e o.guard (o.needs true) ts) ∧
    ∃ x a m e, Fmt.fp32.value x = .fin a m e ∧ m ≠ 0 :=
  ⟨⟨.fma (ar false .fp32 (vv 2) (bv 6) (vv 8)), _, _, M0, envOf M0, all16, rfl, by decide, ex_ok (by decide +kernel)⟩,
   ⟨ar false .fp32 .none (bv 6) .none, M0, envOf M0, all16, by decide, ex_ok (by decide +kernel)⟩,
   ⟨1, false, 1, -149, by decide +kernel, by decide⟩⟩

theorem witness_NaNsAreCanonical :
    (Fmt.fp32.value (Fmt.fp32.add .rne 0x7F800000 0xFF800000).bits).isNan = true ∧
    (Fmt.fp16.value 0x7C01).isNan = true ∧ (Fmt.fp16.value 0x7C00).isNan = false := by decide +kernel

theorem witness_NearestRoundingIsNearest :
    ∃ x y a m e b n g, Fmt.fp32.value x = .fin a m e ∧ Fmt.fp32.value y = .fin b n g ∧
      (Fmt.fp32.add .rne x y).flags &&& fOF = 0 ∧ (Fmt.fp32.mul .rne x y).flags &&& fOF = 0 :=
  ⟨0x3F800001, 0x33800000, false, 8388609, -23, false, 8388608, -47, by decide +kernel⟩

theorem witness_TranscendentalsPostResult :
    (∃ i o f s e ts, slowRule i = some (o, f) ∧ i.wf = true ∧ Executes s e o.guard o.needs ts) ∧
    ∃ o s e ts, Instr.wf (.exp2s o) = true ∧ Executes s e o.guard (o.needs true) ts :=
  ⟨⟨.fsqrt (ar false .bf16 .none (bv 6) .none), _, _, M0, envOf M0, all16, rfl, by decide, ex_ok (by decide +kernel)⟩,
   ⟨ar false .fp32 .none (bv 6) .none, M0, envOf M0, all16, by decide, ex_ok (by decide +kernel)⟩⟩

/-! ### Conversions and lanes -/

theorem witness_ConversionsComplete :
    (∃ o : CvtOp, ∃ s e ts, o.ok = true ∧
      Executes s e o.guard { u := o.b.needU o.rb, v := o.b.needV o.sty.is64 o.rb, dv := destV o.d.toNat o.dty.is64 } ts ∧
      (o.dty.slotted || o.sty.slotted) = true ∧
      slotElem (e.rcd.slot o.slot.toNat) = elemOf (if o.dty = .e4m3 ∨ o.dty = .e5m2 then o.dty else o.sty)) ∧
    (∃ o : PackOp, ∃ s e ts, o.okPack = true ∧ Executes s e o.guard
      { v := ((List.range o.span).map (o.s.toNat + ·)).map (·, o.rb), dv := (List.range 5).map (o.d.toNat + ·) } ts ∧
      slotElem (e.rcd.slot o.slot.toNat) = 5) ∧
    (∃ o : PackOp, ∃ s e ts, o.okUnpack = true ∧ Executes s e o.guard
      { v := ((List.range 5).map (o.s.toNat + ·)).map (·, o.rb), dv := (List.range o.span).map (o.d.toNat + ·) } ts ∧
      slotElem (e.rcd.slot o.slot.toNat) = 5) ∧
    ∃ o : GnormOp, ∃ s e ts, o.ok = true ∧ Executes s e o.guard
      { v := ((List.range o.k.toNat).map (o.d.toNat + ·)).map (·, false), dv := (List.range o.k.toNat).map (o.d.toNat + ·) } ts ∧
      o.k.toNat ≠ 0 :=
  ⟨⟨⟨none, .e4m3, .fp32, .rne, 3, 8, .vec (.reg 2), false⟩, M0, envOf M0, all16, by decide, ex_ok (by decide +kernel), rfl,
      by decide +kernel⟩,
   ⟨⟨none, .fp16, 1, 40, 8, false⟩, M0, envOf M0, all16, by decide, ex_ok (by decide +kernel), by decide +kernel⟩,
   ⟨⟨none, .fp32, 1, 192, 8, false⟩, M0, envOf M0, all16, by decide, ex_ok (by decide +kernel), by decide +kernel⟩,
   ⟨⟨none, 216, 8⟩, M0, envOf M0, all16, by decide, ex_ok (by decide +kernel), by decide⟩⟩

theorem witness_CrossLaneMovesComplete :
    (∃ o : LaneOp, ∃ s e ts, o.okMove true = true ∧ Executes s e o.guard (indexNeeds o) ts ∧
      ∀ tid ∈ ts, SourceFull e s o.ty o.a (shflSource o.mode e.act.lanes tid (o.b.readIndex e s tid).toNat)) ∧
    (∃ o : LaneOp, ∃ s e ts, o.okMove false = true ∧
      Executes s e o.guard { indexNeeds o with v := o.b.needV false o.rb ++ o.a.need o.ty.is64 o.ra } ts) ∧
    ∃ o : LaneOp, ∃ s e ts u, o.okBcast = true ∧
      Executes s e o.guard { u := o.b.needU o.rb, dv := destV o.d.toNat o.ty.is64 } ts ∧
      e.act.lanes[(o.b.readIndex e s 0).toNat]? = some u ∧ SourceFull e s o.ty o.a u :=
  ⟨⟨⟨none, .int32, .xor, 10, .reg 4, .imm 1, false, false⟩, M0, envOf M0, all16, by decide, ex_ok (by decide +kernel),
      by unfold SourceFull; decide +kernel⟩,
   ⟨⟨none, .int64, .idx, 10, .reg 4, .vec (.reg 6), false, false⟩, M0, envOf M0, all16, by decide, ex_ok (by decide +kernel)⟩,
   ⟨⟨none, .fp32, .idx, 10, .reg 4, .imm 15, false, false⟩, M0, envOf M0, all16, 15, by decide, ex_ok (by decide +kernel),
      by decide +kernel, by unfold SourceFull; decide +kernel⟩⟩

theorem witness_ReductionsFoldInLaneOrder :
    ∃ o : RedLaneOp, ∃ s e ts, o.ok true = true ∧
      Executes s e o.guard { v := o.b.need o.ty.is64 o.rb, dv := destV o.d.toNat o.ty.is64 } ts ∧ ts ≠ [] :=
  ⟨⟨some 3, .fp32, .add, true, 10, .reg 4, false⟩, M3, envOf M3, [0, 15], by decide, ex_ok (by decide +kernel), by decide⟩

theorem witness_PWordsRunBothSlots :
    ∃ i a b s e ts, slotsOf i = some (a, b) ∧ i.wf = true ∧ (a.op ≠ .nop → b.op ≠ .nop → a.args.d ≠ b.args.d) ∧
      Executes s e none { v := (slotUse a).v ++ (slotUse b).v, dv := (slotUse a).dv ++ (slotUse b).dv } ts :=
  ⟨.pIadd ⟨4, .vec (.reg 5), false⟩ ⟨.fmul, ⟨9, .vec (.reg 10), false⟩⟩, _, _, M0, envOf M0, all16, rfl, by decide, by decide,
    ex_ok (by decide +kernel)⟩

/-! ### Sets -/

/-- A set of one thread in each of two blocks: a handle. -/
def twoBlocks : Tids := 1#2048 ||| (1#2048 <<< 64)

theorem witness_SetAlgebraWritesItsSet :
    (∃ i o srcs f s e, setRule i = some (o, srcs, f) ∧ i.wf = true ∧ AtIssue s e { k := srcs, dk := [o.kd.toNat] } e.act.lanes ∧
      i ≠ .smov o ∧ (s.canon e.ctx.team (e.team.side e.ctx.core) (f e s)).isSome = true) ∧
    ∃ o srcs f s e, setRule (.smov o) = some (o, srcs, f) ∧ Instr.wf (.smov o) = true ∧
      AtIssue s e { k := srcs, dk := [o.kd.toNat] } e.act.lanes :=
  ⟨⟨.sandn ⟨4, 3, 2⟩, _, _, _, M3, envOf M3, rfl, by decide, at_ok (by decide +kernel), by decide, by decide +kernel⟩,
   ⟨⟨4, 3, 0⟩, _, _, M3, envOf M3, rfl, by decide, at_ok (by decide +kernel)⟩⟩

theorem witness_TestsAndCountsWriteTheirResult :
    (∃ o : TestOp, ∃ s e ts, ∃ b : Tids, o.ok false = true ∧ Executes s e o.guard
      { u := o.b.needU o.rb, v := o.a.need o.ty.is64 o.ra ++ o.b.needV o.ty.is64 o.rb, dk := [o.kd.toNat] } ts ∧
      (∀ tid, b.getLsbD tid = true ↔ tid < 2048 ∧ tid ∈ ts ∧ TestHolds o e s tid) ∧
      (s.canon e.ctx.team (e.team.side e.ctx.core) b).isSome = true) ∧
    (∃ o : TestOp, ∃ s e ts, ∃ b : Tids, o.ok true = true ∧ Executes s e o.guard
      { u := o.b.needU o.rb, v := o.a.need o.ty.is64 o.ra ++ o.b.needV o.ty.is64 o.rb, dk := [o.kd.toNat] } ts ∧
      (∀ tid, b.getLsbD tid = true ↔ tid < 2048 ∧ tid ∈ ts ∧ TestbHolds o e s tid) ∧
      (s.canon e.ctx.team (e.team.side e.ctx.core) b).isSome = true) ∧
    ∃ o : ScntOp, ∃ s e, o.ok = true ∧ AtIssue s e { k := [o.ka.toNat], du := [o.sd.toNat] } e.act.lanes := by
  refine ⟨⟨⟨none, 3, .lane, .imm 14, .int32, .ge, false, false⟩, M0, envOf M0, all16, 0xC000, by decide,
      ex_ok (by decide +kernel), tids_ok (by decide +kernel) ?_, by decide +kernel⟩,
    ⟨⟨none, 3, .lane, .imm 12, .int32, .ne, false, false⟩, M0, envOf M0, all16, 0xFFF0,
      by decide, ex_ok (by decide +kernel), tids_ok (by decide +kernel) ?_, by decide +kernel⟩,
    ⟨⟨9, 3⟩, M3, envOf M3, by decide, at_ok (by decide +kernel)⟩⟩
  · simp only [TestHolds, Ty.isInt, if_true, Holds]
    decide +kernel
  · simp only [TestbHolds, reduceCtorEq, if_false]
    decide +kernel

/-! ### Control -/

/-- Every thread is in a call that a CALL 16 at 0x40 made. -/
def Mret : State := threads (fun th => called th 0x48 16) M0
/-- The path runs under `.pack` with a footprint of 16 registers. -/
def Mpack : State := top (fun a => { a with foot := some 16 }) M0

theorem witness_ControlMovesPathsAndWindows :
    (∃ s e, AtIssue s e {} e.act.lanes) ∧
    (∃ o : UniSrcOp, ∃ s e, o.ok = true ∧ AtIssue s e { u := o.a.need o.ra } e.act.lanes ∧ (o.a.read e).toNat % 8 = 0 ∧
      (o.a.read e).toNat < 2 ^ 56) ∧
    (∃ o : BrcOp, ∃ n s e, o.ok = true ∧ o.b = .imm n ∧ AtIssue s e { u := o.a.need o.ra ++ [] } e.act.lanes ∧
      Holds o.cond (o.a.read e).toInt (n.signExtend 64).toInt) ∧
    (∃ o : BrcOp, ∃ u s e, o.ok = true ∧ o.b = .uni u ∧ AtIssue s e { u := o.a.need o.ra ++ u.need false } e.act.lanes ∧
      ¬Holds o.cond (o.a.read e).toInt (u.read e).toInt) ∧
    (∃ o : CallOp, ∃ s e, o.ok = true ∧ AtIssue s e {} e.act.lanes ∧
      (∀ tid ∈ e.act.lanes, (e.thread s tid).base + o.n.toNat + 224 ≤ 1024 ∧ (e.thread s tid).calls.length < 64) ∧
      (s.poolFree e.ctx.team e.ctx.core e.team e.act.lanes o.n.toNat 1).1 = true ∧ (s.thread e.ctx.team 0).isSome = true ∧
      e.act.lanes.count 0 = 1) ∧
    (∃ o : CallOp, ∃ s e n th, o.ok = true ∧ AtIssue s e {} e.act.lanes ∧
      (∀ tid ∈ e.act.lanes, (e.thread s tid).base + o.n.toNat + 224 ≤ 1024 ∧ (e.thread s tid).calls.length < 64) ∧
      (s.poolFree e.ctx.team e.ctx.core e.team e.act.lanes o.n.toNat 1).1 = true ∧ e.act.foot = some n ∧
      e.act.lanes.count 0 = 1 ∧ s.thread e.ctx.team 0 = some th ∧ e.act.footAt.getD 0 0 + n ≤ th.base + o.n.toNat) ∧
    ∃ s e cont, AtIssue s e {} e.act.lanes ∧ e.act.kind ≠ .bin false ∧ e.act.lanes ≠ [] ∧
      ∀ tid ∈ e.act.lanes, (e.thread s tid).floor < (e.thread s tid).calls.length ∧
        ((e.thread s tid).calls.head?.map (·.cont)) = some cont := by
  refine ⟨⟨M0, envOf M0, at_ok (by decide +kernel)⟩,
    ⟨⟨.reg 6, false⟩, withU 6 0x8008 M0, envOf (withU 6 0x8008 M0), by decide, at_ok (by decide +kernel), by decide +kernel,
      by decide +kernel⟩,
    ⟨⟨.lt, .reg 8, false, .imm 0, .near 3⟩, 0, withU 8 (-1) M0, envOf (withU 8 (-1) M0), by decide, rfl,
      at_ok (by decide +kernel), ?_⟩,
    ⟨⟨.lt, .reg 8, false, .uni .tsize, .near 3⟩, .tsize, withU 8 16 M0, envOf (withU 8 16 M0), by decide, rfl,
      at_ok (by decide +kernel), ?_⟩,
    ⟨⟨.near 3, 222⟩, M0, envOf M0, by decide, at_ok (by decide +kernel), by decide +kernel⟩,
    ⟨⟨.near 3, 16⟩, Mpack, envOf Mpack, 16, (Mpack.thread 1 0).getD (Thread.start 0), by decide, at_ok (by decide +kernel), ?_⟩,
    ⟨Mret, envOf Mret, 0x48, at_ok (by decide +kernel), by decide +kernel⟩⟩
  · simp only [Holds]; decide +kernel
  · simp only [Holds]; decide +kernel
  · decide +kernel

theorem witness_ExitEndsItsThreads : ∃ g s e ts, Executes s e g {} ts ∧ (s.thread e.ctx.team 15).isSome = true ∧ 15 ∈ ts :=
  ⟨some 3, M3, envOf M3, [0, 15], ex_ok (by decide +kernel), by decide +kernel, by decide⟩

/-- The path awaits a peer's reply; a store stands in its context's queue. -/
def Maway : State := withOp 7 { anOp .load [] with peer := true } M0
/-- A load of the path stands in its context's operand log. -/
def anEntry : LogEntry := ⟨8, accessBy (envOf M0) (.ld .int32) false false .lg false 0 [⟨3, 0x2000, 0, 0, 40⟩] false, [], none⟩
def Mlogged : State := ctx1 (fun c => { c with log := [anEntry] }) M0
def aStore (k : Nat) (op : Nat) : Store := ⟨0, k, [1], false, 0, false, false, op⟩
def Mqueue : State := ctx1 (fun c => { c with queue := [aStore (dieKey 0x200100) 7] }) M0

theorem witness_BarriersAndFencesWait :
    (∃ o : BarOp, ∃ s e, AtIssue s e {} e.act.lanes ∧ Released s e ∧ (e.team.bars.getD o.id.toNat ⟨0, 0⟩).count = 0 ∧
      o.n1.toNat = 0) ∧
    (∃ o : BarOp, ∃ s e, AtIssue s e {} e.act.lanes ∧ Released s e ∧ (e.team.bars.getD o.id.toNat ⟨0, 0⟩).count = 0 ∧
      o.n1.toNat = 255) ∧
    (∃ s e, AtIssue s e {} e.act.lanes ∧ s.pend = [] ∧ e.ctx.log = [] ∧ Released s e) ∧
    (∃ s e, AtIssue s e {} e.act.lanes ∧
      ∃ p ∈ s.pend, p.2.ctx = e.ref.ctx ∧ p.2.uid = e.act.uid ∧ p.2.peer = true ∧ p.2.work = .load) ∧
    (∃ s e, AtIssue s e {} e.act.lanes ∧
      ∃ l ∈ e.ctx.log, l.acc.uid = e.act.uid ∧ l.acc.kind.ordered = true ∧ l.acc.kind.isStore = false) ∧
    ∃ s e, AtIssue s e {} e.act.lanes ∧ ¬Released s e := by
  refine ⟨⟨⟨2, 0⟩, M0, envOf M0, at_ok (by decide +kernel), rel_ok (by decide +kernel), by decide +kernel, rfl⟩,
   ⟨⟨2, 255⟩, M0, envOf M0, at_ok (by decide +kernel), rel_ok (by decide +kernel), by decide +kernel, rfl⟩,
   ⟨M0, envOf M0, at_ok (by decide +kernel), rfl, by decide +kernel, rel_ok (by decide +kernel)⟩,
   ⟨Maway, envOf Maway, at_ok (by decide +kernel), by decide +kernel⟩,
   ⟨Mlogged, envOf Mlogged, at_ok (by decide +kernel), by decide +kernel⟩,
   ⟨Mqueue, envOf Mqueue, at_ok (by decide +kernel), fun h => ?_⟩⟩
  have : (envOf Mqueue).ctx.queue ≠ [] := by decide +kernel
  exact this h.1

/-! ### Traps -/

def Marmed : State := M0.modDie 0 fun d => { d with armed := true }
/-- The launch of the program has no handler. -/
def Mbare : State := M0.modLaunch 1 fun l => { l with record := some { placedRecord with trapent := 0 } }
/-- The windows stand at the end of their files. -/
def Mdeep : State := threads (fun th => { th with base := 800 }) M0
/-- A handler runs after TRAP at address 0. -/
def trapWord : Fetched := ⟨0, 0x0500000000000000, none⟩
def Mtrap : State := after .trap (top (fun a => { a with last := some trapWord }) M0)
def Mhandler : State := { Mtrap with cur := some ⟨⟨1, 0⟩, 0x800, 1⟩ }

theorem witness_TrapsStartHandlersOrKill :
    (∃ s e, AtIssue s e {} e.act.lanes ∧ (s.die (dieOf e.ctx.core)).armed = false ∧ HandlerFits s e e.act.lanes ∧
      e.addr < 2 ^ 56) ∧
    (∃ s e, AtIssue s e {} e.act.lanes ∧ (s.die (dieOf e.ctx.core)).armed = true) ∧
    (∃ s e, State.env? s = some e ∧ e.launch.killed = none ∧ e.rcd.trapent = 0) ∧
    (∃ s e, State.env? s = some e ∧ e.launch.killed = none ∧ e.rcd.trapent ≠ 0 ∧ MustKill s e e.act.lanes ∧ e.act.inTrap = false) ∧
    ∃ s e, State.env? s = some e ∧ e.launch.killed = none ∧ e.act.inTrap = true :=
  ⟨⟨M0, envOf M0, at_ok (by decide +kernel), by decide +kernel, fits_ok (by decide +kernel), by decide +kernel⟩,
   ⟨Marmed, envOf Marmed, at_ok (by decide +kernel), by decide +kernel⟩,
   ⟨Mbare, envOf Mbare, by decide +kernel⟩,
   ⟨Mdeep, envOf Mdeep, by decide +kernel, by decide +kernel, by decide +kernel,
     .inr (.inr ⟨by decide +kernel, fun h => absurd h.1 (by decide +kernel)⟩), by decide +kernel⟩,
   ⟨Mhandler, envOf Mhandler, by decide +kernel⟩⟩

theorem witness_ReturnFromSoftTrapResumes :
    ∃ s e, ∃ ti : TrapInfo, ∃ par : Act, ∃ f : Fetched, ∃ rest, AtIssue s e {} e.act.lanes ∧ e.act.kind = .handler ti ∧
      ti.code = 0x0D ∧ ti.entry = none ∧ ti.op = none ∧ ti.len = 1 ∧ ti.uni = true ∧ par.last = some f ∧ f.instr.1 = .trap ∧
      e.ctx.tstat.extractLsb' 9 2 = 0 ∧ e.ctx.stack e.ref.slot = e.act :: par :: rest ∧ par.lanes = e.act.lanes ∧
      e.act.lanes ≠ [] :=
  ⟨Mhandler, envOf Mhandler, ⟨0x0D, 0, true, all16, none, none, 1⟩, ((envOf Mhandler).ctx.p0.getD 1 (newAct 0 0 [] .home 0)), trapWord, [],
    at_ok (by decide +kernel), by decide +kernel, rfl, rfl, rfl, rfl, rfl, by decide +kernel⟩

/-! ### Memory -/

def ldOp (sp : Bool) (ty : Ty) : MemOp := ⟨none, sp, false, ty, .lg, false, 0, 40, .reg 6, some (.reg 2), .imm 4, false, false⟩

theorem witness_GlobalAccessesAwaitTranslation :
    ∃ i f s e ts, accessRule i = some f ∧ i.wf = true ∧ Issues i s e ts ∧ Admitted s e (f e s ts) ∧ (f e s ts).shared = false ∧
      ¬Translated s e (f e s ts) := by
  refine ⟨.ld (ldOp false .int64), _, M0, envOf M0, all16, rfl, by decide, ex_ok (by decide +kernel), adm_ok (by decide +kernel),
    rfl, ?_⟩
  unfold Translated
  decide +kernel

/-- Thread 3 holds a reservation on its granule, of now. -/
def Mres : State := Ms.modThread 1 3 fun th => { th with resv := some ⟨(dieKey 0x2000C0) / 64, 0⟩ }

theorem witness_LoadsBringTheirBytes :
    (∃ o f s e ts l s1, accessRule (.ld o) = some f ∧ o.ok = true ∧ Issues (.ld o) s e ts ∧ Windows s e ts ∧
      Passes s e (f e s ts) l s1 ∧ l ≠ [] ∧ (f e s ts).kind = .ld .int64 ∧ (f e s ts).shared = false) ∧
    (∃ o f s e ts l s1, accessRule (.ld o) = some f ∧ o.ok = true ∧ Issues (.ld o) s e ts ∧ Windows s e ts ∧
      Passes s e (f e s ts) l s1 ∧ l ≠ [] ∧ (f e s ts).kind = .ld .int32 ∧ (f e s ts).shared = true ∧
      ∀ g ∈ l, ∀ p ∈ g.2.segs, p.1 < 2 ^ 50) ∧
    ∃ o f s e ts l s1, accessRule (.lr o) = some f ∧ o.okLr = true ∧ Issues (.lr o) s e ts ∧ Windows s e ts ∧
      Passes s e (f e s ts) l s1 ∧ l ≠ [] ∧ (f e s ts).kind = .lr .uint32 := by
  refine ⟨⟨ldOp false .int64, _, Ms, envOf Ms, all16, _, _, rfl, by decide, ex_ok (by decide +kernel), ?_,
      pass_ok (by decide +kernel), by decide +kernel, rfl, rfl⟩,
    ⟨ldOp true .int32, _, Ms, envOf Ms, all16, _, _, rfl, by decide, ex_ok (by decide +kernel), ?_,
      pass_ok (by decide +kernel), by decide +kernel, rfl, rfl, by decide +kernel⟩,
    ⟨ldOp false .uint32, _, Ms, envOf Ms, all16, _, _, rfl, by decide, ex_ok (by decide +kernel), ?_,
      pass_ok (by decide +kernel), by decide +kernel, rfl⟩⟩ <;>
    (unfold Windows; decide +kernel)

theorem witness_StoresEnterTheQueueInOrder :
    (∃ o f s e ts l s1, accessRule (.st o) = some f ∧ o.ok = true ∧ Issues (.st o) s e ts ∧ Passes s e (f e s ts) l s1 ∧
      s1.storesNow (f e s ts) l = false ∧ l ≠ []) ∧
    (∃ o f s e ts l s1, accessRule (.st o) = some f ∧ o.ok = true ∧ Issues (.st o) s e ts ∧ Passes s e (f e s ts) l s1 ∧
      s1.storesNow (f e s ts) l = true) ∧
    ∃ o f s e ts l s1, accessRule (.sst o) = some f ∧ o.ok false = true ∧ Issues (.sst o) s e ts ∧ Passes s e (f e s ts) l s1 ∧
      s1.storesNow (f e s ts) l = false := by
  refine ⟨⟨ldOp false .int8, _, Ms, envOf Ms, all16, _, _, rfl, by decide, ex_ok (by decide +kernel),
      pass_ok (by decide +kernel), by decide +kernel, by decide +kernel⟩,
    ⟨{ ldOp false .int8 with strong := true, scope := .sys }, _, Ms, envOf Ms, all16, _, _, rfl, by decide, ex_ok (by decide +kernel),
      pass_ok (by decide +kernel), by decide +kernel⟩,
    ⟨⟨3, 0, .reg 6, false, .imm 16, false, true, 0⟩, _, M3, envOf M3, all16, _, _, rfl, by decide, ⟨at_ok (by decide +kernel), ?_⟩,
      pass_ok (by decide +kernel), by decide +kernel⟩⟩
  decide +kernel

theorem witness_AtomicsApplyInTidOrder :
    ∃ o : AtomicOp, ∃ f s e ts l s1, accessRule (.atom o) = some f ∧ o.ok = true ∧ Issues (.atom o) s e ts ∧
      Passes s e (f e s ts) l s1 ∧ l ≠ [] ∧ o.ret = true :=
  ⟨⟨none, false, true, .cas, .int64, .pkg, 0, 40, .reg 6, some (.reg 2), .imm 8, false, false⟩, _, Ms, envOf Ms, all16, _, _, rfl,
    by decide, ex_ok (by decide +kernel), pass_ok (by decide +kernel), by decide +kernel, rfl⟩

/-- SC at the granule of thread 3, for thread 3 alone or for all. -/
def scOp (g : Guard) : ScOp := ⟨g, false, .int32, false, 0, 40, .reg 6, some (.reg 2), 41, none, false, false, false⟩
def Mres3 : State := withK 3 (.inline 0 8) Mres
/-- The same 4096 cycles later. -/
def Mres3old : State := Mres3.advance 4096

def scAcc (s : State) : Access := ((accessRule (.sc (scOp (some 3)))).map fun f => f (envOf s) s [3]).getD
  (accessBy (envOf s) .word false false .lg false 0 [] false)

theorem witness_StoreConditionalDecides :
    (∃ o f s e ts l s1, accessRule (.sc o) = some f ∧ o.ok = true ∧ Issues (.sc o) s e ts ∧ Windows s e ts ∧
      Passes s e (f e s ts) l s1 ∧ l ≠ []) ∧
    (∃ o f s e ts g s1 k n, ∃ v : Resv, ∃ l, accessRule (.sc o) = some f ∧ Issues (.sc o) s e ts ∧ Windows s e ts ∧
      Passes s e (f e s ts) l s1 ∧ l = [g] ∧ g.2.segs = [(k, n)] ∧ (s1.thread e.ctx.team g.1.tid).bind (·.resv) = some v ∧
      v.granule = k / 64 ∧ s1.cycOf e.ctx.core - v.since < 4096) ∧
    ∃ o f s e ts g s1 k n, ∃ v : Resv, ∃ l, accessRule (.sc o) = some f ∧ Issues (.sc o) s e ts ∧ Windows s e ts ∧
      Passes s e (f e s ts) l s1 ∧ l = [g] ∧ g.2.segs = [(k, n)] ∧ (s1.thread e.ctx.team g.1.tid).bind (·.resv) = some v ∧
      v.granule = k / 64 ∧ ¬s1.cycOf e.ctx.core - v.since < 4096 := by
  refine ⟨⟨scOp none, _, Mres, envOf Mres, all16, _, _, rfl, by decide, ex_ok (by decide +kernel), ?_, pass_ok (by decide +kernel),
      by decide +kernel⟩,
    ⟨scOp (some 3), _, Mres3, envOf Mres3, [3], first (got Mres3 (envOf Mres3) (scAcc Mres3)), _, dieKey 0x2000C0, 4,
      ⟨dieKey 0x2000C0 / 64, 0⟩, _, rfl, ex_ok (by decide +kernel), ?_, pass_ok (by decide +kernel), by decide +kernel⟩,
    ⟨scOp (some 3), _, Mres3old, envOf Mres3old, [3], first (got Mres3old (envOf Mres3old) (scAcc Mres3old)), _, dieKey 0x2000C0, 4,
      ⟨dieKey 0x2000C0 / 64, 0⟩, _, rfl, ex_ok (by decide +kernel), ?_, pass_ok (by decide +kernel), by decide +kernel⟩⟩ <;>
    (unfold Windows; decide +kernel)

/-! ### Queues of sets, tags, presence -/

def sqOp : SetMem := ⟨3, 20, .reg 6, false, .imm 0, false, true, 0⟩
/-- A queue of four sets at scratchpad 0x1000 whose HEAD and TAIL are given, its ring at 0x2000 with an image in its first entry. -/
def qDesc (head tail : Nat) : List Byte := natLE head 4 ++ natLE tail 4 ++ natLE 4 4 ++ natLE 0 4 ++ natLE 0x2000 8 ++ natLE 0 8
def img32 : List Byte := (imgBytes 32 5).take (imgLen 32)
def Mq (head tail : Nat) : State :=
  withK 3 (.inline 0 0x8001) (withU 6 0x1000 (pokeSpad 0x1000 (qDesc head tail) (pokeSpad 0x2000 img32 M0)))

def sldOp : SetMem := ⟨3, 0, .reg 6, false, .imm 0, false, true, 0⟩
def Msld : State := withU 6 0x2000 (Mq 0 1)
def sldGot : Got := (⟨noTid, 0x2000, 0, 0, noDst⟩, .go (.mem [(spadKey 0 0x2000, 32)] false false))

/-- What SQPUSH and SQPOP ask of their queue's descriptor. -/
def QueueAt (o : SetMem) (push : Bool) (s : State) (e : Env) (k : Nat) (s1 : State) : Prop :=
  let f (at' n : Nat) : Nat := leNat (memReads s.mem (k + at') n)
  AtIssue s e (queueNeeds o push) e.act.lanes ∧ Admitted s e (queueAccess o push e s) ∧ Translated s e (queueAccess o push e s) ∧
  s.requests e.ctx.core + 4 ≤ 1024 ∧ Usable s e (queueAccess o push e s) (addressOf e s o.base none (o.off.bytes 16) 0) 32 false k s1 ∧
  1 ≤ f 8 4 ∧ f 8 4 ≤ 4096 ∧ f 12 4 = 0 ∧ f 16 8 % 16 = 0 ∧ f 24 8 = 0 ∧ (f 4 4 + 2 ^ 32 - f 0 4) % 2 ^ 32 ≤ f 8 4

theorem queue_ok {o : SetMem} {push : Bool} {s : State} {k : Nat}
    (h : (atB s (envOf s) (queueNeeds o push) (envOf s).act.lanes && admB s (envOf s) (queueAccess o push (envOf s) s) &&
      trB s (envOf s) (queueAccess o push (envOf s) s)) = true ∧ s.requests (envOf s).ctx.core + 4 ≤ 1024 ∧
      (s.itemReach (envOf s).who (queueAccess o push (envOf s) s)
        ⟨noTid, addressOf (envOf s) s o.base none (o.off.bytes 16) 0, 0, 0, noDst⟩).1 = .go (.mem [(k, 32)] false false) ∧
      (afterAt s (envOf s) (queueAccess o push (envOf s) s) (addressOf (envOf s) s o.base none (o.off.bytes 16) 0)).sqCheck
        (envOf s).who false (.go (.mem [(k, 32)] false false)) = none ∧
      let f (at' n : Nat) : Nat := leNat (memReads s.mem (k + at') n)
      1 ≤ f 8 4 ∧ f 8 4 ≤ 4096 ∧ f 12 4 = 0 ∧ f 16 8 % 16 = 0 ∧ f 24 8 = 0 ∧ (f 4 4 + 2 ^ 32 - f 0 4) % 2 ^ 32 ≤ f 8 4) :
    QueueAt o push s (envOf s) k
      (afterAt s (envOf s) (queueAccess o push (envOf s) s) (addressOf (envOf s) s o.base none (o.off.bytes 16) 0)) := by
  obtain ⟨h, h3, h4, h5, h6⟩ := h
  simp only [Bool.and_eq_true] at h
  exact ⟨at_ok h.1.1, adm_ok h.1.2, tr_ok h.2, h3, use_ok h4 h5, h6⟩

/-- The entry that SQPUSH writes or SQPOP reads. -/
def EntryAt (o : SetMem) (push : Bool) (s : State) (e : Env) (k k2 : Nat) (s1 s2 : State) : Prop :=
  let f (at' n : Nat) : Nat := leNat (memReads s.mem (k + at') n)
  Usable s1 e { queueAccess o push e s with kind := if push then .sst 0 else .sld 0 }
    ((f 16 8 + (if push then f 4 4 else f 0 4) % f 8 4 * imgLen e.team.span) % 2 ^ 64) (imgLen e.team.span) push k2 s2

/-- The entries in use of a queue whose descriptor lies at a key. -/
def used (s : State) (k : Nat) : Nat := (fieldOf s.mem k 4 4 + 2 ^ 32 - fieldOf s.mem k 0 4) % 2 ^ 32

theorem witness_SetMemoryWordsActOnTheirImage :
    (∃ o s e k s1, o.ok true = true ∧ QueueAt o true s e k s1 ∧ used s k = fieldOf s.mem k 8 4) ∧
    (∃ o s e k s1, o.ok true = true ∧ QueueAt o false s e k s1 ∧ fieldOf s.mem k 0 4 = fieldOf s.mem k 4 4) ∧
    (∃ o s e k k2 s1 s2, o.ok true = true ∧ QueueAt o true s e k s1 ∧ EntryAt o true s e k k2 s1 s2 ∧
      used s k ≠ fieldOf s.mem k 8 4) ∧
    (∃ o s e k k2 s1 s2 b, o.ok true = true ∧ QueueAt o false s e k s1 ∧ EntryAt o false s e k k2 s1 s2 ∧
      fieldOf s.mem k 0 4 ≠ fieldOf s.mem k 4 4 ∧ imgSet e.team.span (memReads s.mem k2 (imgLen e.team.span)) = some b ∧
      (s2.canon e.ctx.team (e.team.side e.ctx.core) b).isSome = true) ∧
    ∃ o : SetMem, ∃ f s e ts g s1 b, ∃ l, accessRule (.sld o) = some f ∧ o.ok false = true ∧ Issues (.sld o) s e ts ∧
      Passes s e (f e s ts) l s1 ∧ l = [g] ∧
      imgSet e.team.span (s1.seenSegs ((s1.ownStores e.ref.ctx e.ctx.team noTid).filter (·.op < s1.nextId + 1)) g.2.segs) = some b ∧
      (s1.name.2.canon e.ctx.team (e.team.side e.ctx.core) b).isSome = true := by
  refine ⟨⟨sqOp, Mq 0xFFFFFFFE 2, _, spadKey 0 0x1000, _, by decide, queue_ok (by decide +kernel), by decide +kernel⟩,
    ⟨sqOp, Mq 9 9, _, spadKey 0 0x1000, _, by decide,
      queue_ok (by decide +kernel), by decide +kernel⟩,
    ⟨sqOp, Mq 0 3, _, spadKey 0 0x1000, spadKey 0 0x2060, _, _, by decide,
      queue_ok (by decide +kernel),
      use_ok (sc := false) (host := false) (by decide +kernel) (by decide +kernel), by decide +kernel⟩,
    ⟨sqOp, Mq 0 1, _, spadKey 0 0x1000, spadKey 0 0x2000, _, _, 5, by decide,
      queue_ok (by decide +kernel),
      use_ok (sc := false) (host := false) (by decide +kernel) (by decide +kernel), by decide +kernel⟩,
    ⟨sldOp, _, Msld, envOf Msld, all16, sldGot, _, 5, _, rfl,
      by decide, ⟨at_ok (by decide +kernel), by decide +kernel⟩, pass_ok (by decide +kernel), by decide +kernel⟩⟩

def tagOp : TagOp := ⟨none, .reg 6, some (.reg 2), .imm 0, false, false⟩
/-- s6 is 0x1000 and register 2 of each thread 64 times its tid: its lines. -/
def Mt : State := withU 6 0x1000 Ms
def presOp : PresOp := ⟨.reg 6, false, .imm 8, 255⟩

theorem witness_TagsAndPresenceActOnTheirLines :
    (∃ o : TaglOp, ∃ s e ts, Instr.wf (.tagl o) = true ∧ Executes s e o.guard
      { u := memNeedsU o.base o.ra, v := memNeedsV o.idx o.rb, dv := [o.d.toNat] } ts ∧ TagsOk o.toTagOp e s ts) ∧
    (∃ o : TagsOp, ∃ s e ts, Instr.wf (.tags o) = true ∧ Executes s e o.guard
      { u := memNeedsU o.base o.ra, v := memNeedsV o.idx o.rb ++ o.way.need false false } ts ∧ TagsOk o.toTagOp e s ts ∧
      ∀ tid ∈ ts, (o.way.read .uint32 e s tid).toNat % 2 ^ 32 ≤ 7) ∧
    (∃ o : TagOp, ∃ s e ts, Instr.wf (.tagi o) = true ∧ Executes s e o.guard
      { u := memNeedsU o.base o.ra, v := memNeedsV o.idx o.rb } ts ∧ TagsOk o e s ts) ∧
    ∃ o : PresOp, ∃ s e, o.ok = true ∧
      let off := addressOf e s o.base none (o.off.bytes 16) 0
      let lines := (List.range (o.n1.toNat + 1)).map fun i => lineKey e.ctx.core (e.team.spadBase + off + 128 * i)
      AtIssue s e { u := o.base.need o.ra } e.act.lanes ∧ off % 128 = 0 ∧ off + 128 * (o.n1.toNat + 1) ≤ e.team.spadBytes ∧
      s.reading e.ref.ctx e.act.uid lines = false ∧ e.ctx.storing lines = false := by
  refine ⟨⟨⟨tagOp, 40⟩, Mt, envOf Mt, all16, by decide, ex_ok (by decide +kernel), ?_⟩,
    ⟨⟨tagOp, .reg 40⟩, Mt, envOf Mt, all16, by decide, ex_ok (by decide +kernel), ?_, by decide +kernel⟩,
    ⟨tagOp, Mt, envOf Mt, all16, by decide, ex_ok (by decide +kernel), ?_⟩,
    ⟨presOp, Mt, envOf Mt, by decide, at_ok (by decide +kernel), by decide +kernel⟩⟩ <;>
    (unfold TagsOk; decide +kernel)

theorem witness_ThreadAndControlRegistersMove :
    (∃ o : TswReadOp, ∃ s e ts, o.ok = true ∧ Executes s e o.guard { dv := [o.d.toNat] } ts ∧ e.flagsDue s ts = false) ∧
    (∃ o : PmovOp, ∃ s e ts, o.ok = true ∧
      Executes s e o.guard { h := [(o.hn.toNat, o.m)], dv := [o.v.toNat, o.v.toNat + 1] } ts) ∧
    (∃ o : TswWriteOp, ∃ s e ts, o.ok = true ∧ Executes s e o.guard { v := o.a.need false o.ra } ts ∧ ts.count 15 = 1) ∧
    (∃ o : PmovOp, ∃ s e ts, o.ok = true ∧
      Executes s e o.guard { v := [(o.v.toNat, o.m), (o.v.toNat + 1, o.m)], dh := [o.hn.toNat] } ts) ∧
    (∃ o : CsrrOp, ∃ s e, o.ok = true ∧ AtIssue s e { du := [o.sd.toNat] } e.act.lanes) ∧
    (∃ o : UniSrcOp, ∃ s e, o.ok = true ∧ AtIssue s e { u := o.a.need o.ra } e.act.lanes ∧ e.ctx.tstat.getLsbD 7 = true ∧
      s.traced e.ctx.core e.team.launch = true) ∧
    (∃ o : SlkOneOp, ∃ s e, o.ok = true ∧ AtIssue s e { u := o.a.need o.ra } e.act.lanes) ∧
    ∃ sd : BitVec 8, ∃ s e, AtIssue s e { du := [sd.toNat, sd.toNat + 1] } e.act.lanes :=
  let h := Mhandler.modDie 0 fun d => { d with tracing := some none }
  ⟨⟨⟨none, 223⟩, M0, envOf M0, all16, by decide, ex_ok (by decide +kernel), by decide +kernel⟩,
   ⟨⟨none, 222, 3, false⟩, M0, envOf M0, all16, by decide, ex_ok (by decide +kernel)⟩,
   ⟨⟨none, .reg 223, false⟩, M0, envOf M0, all16, by decide, ex_ok (by decide +kernel), by decide⟩,
   ⟨⟨none, 222, 0, true⟩, M0, envOf M0, all16, by decide, ex_ok (by decide +kernel)⟩,
   ⟨⟨159, .sform⟩, M0, envOf M0, by decide, at_ok (by decide +kernel)⟩,
   ⟨⟨.reg 159, false⟩, h, envOf h, by decide, at_ok (by decide +kernel), by decide +kernel, by decide +kernel⟩,
   ⟨⟨.reg 0, false, 3⟩, M0, envOf M0, by decide, at_ok (by decide +kernel)⟩,
   ⟨158, M0, envOf M0, at_ok (by decide +kernel)⟩⟩

/-! ### Streams, copies, engines -/

/-- A stream descriptor at 0x1000 of the page: four elements of 128 bytes, from 0x2000, into a ring of two lines. -/
def streamBytes : List Byte :=
  natLE 0x2000 8 ++ natLE 128 4 ++ natLE 4 4 ++ natLE 0 4 ++ natLE 2 2 ++ natLE 128 1 ++ natLE 1 1 ++ natLE 0 8
def Mst : State := withU 6 0x1000 (poke 0x1000 streamBytes Mc)

theorem witness_StreamsStartAndEnd :
    (∃ o : StrmOp, ∃ s e k s1, o.ok = true ∧
      let addr := addressOf e s o.base none (o.off.bytes 16) 0
      let a := accessBy e (.strm o.id.toNat) false false .lg o.ov o.sl [⟨noTid, addr, 0, 0, noDst⟩] true
      AtIssue s e { u := o.base.need o.ra } e.act.lanes ∧ Admitted s e a ∧ Translated s e a ∧ e.ctx.queue = [] ∧
      EngineAt s e addr 32 .read k s1 ∧
      let f := fieldOf s.mem k
      let stride := asInt 32 true (f 8 4)
      f 0 8 < 2 ^ 56 ∧ 1 ≤ f 12 4 ∧ f 16 4 % 128 = 0 ∧ 1 ≤ f 20 2 ∧ f 20 2 ≤ 256 ∧
      f 22 1 ∈ [4, 8, 16, 32, 64, 128] ∧ f 0 8 % f 22 1 = 0 ∧ stride % (f 22 1 : Int) = 0 ∧ f 23 1 < f 20 2 ∧ f 24 8 = 0 ∧
      f 16 4 + 128 * f 20 2 ≤ e.team.spadBytes) ∧
    ∃ s e, AtIssue s e {} e.act.lanes ∧ e.ctx.streams = [] :=
  ⟨⟨⟨3, .reg 6, false, .imm 0, false, 0⟩, Mst, envOf Mst, dieKey 0x201000, _, by decide, at_ok (by decide +kernel),
      adm_ok (by decide +kernel), tr_ok (by decide +kernel), by decide +kernel, engine_ok (host := false) (by decide +kernel),
      by decide +kernel⟩,
   ⟨M0, envOf M0, at_ok (by decide +kernel), by decide +kernel⟩⟩

def cpaOp (v : Valid) : CpaOp := ⟨none, 7, .reg 7, .reg 2, .reg 6, .reg 2, v, 0, false, false, false⟩
/-- The path stands in a CPWAIT of tag 7 whose count is n. -/
def Mcp (n : Nat) : State :=
  ctx1 (fun c => { c with tags := [(7, n)], tagDone := [(7, 3)] }) (top (fun a => { a with status := .cpwait 7 (some 20) }) M0)

theorem sources_ok {s : State} {e : Env} {a : Access} {k : Nat → Nat}
    (h : (∀ i ∈ a.items, i.data = 0 ∨ s.allCached e.ctx.core (dieOf e.ctx.core) e.launch.root i.addr 32 = true) ∧
      ∀ g ∈ (State.copyReach e.who a a.items s).1,
        g.2 = .go (.mem (if g.1.data = 0 then [] else [(k g.1.tid, 32)]) false false)) :
    CopySources s e a k (State.copyReach e.who a a.items s).2 := ⟨h.1, _, rfl, fun g hg => ⟨false, h.2 g hg⟩⟩

theorem witness_CopiesStartAndAreAwaited :
    (∃ o : CpaOp, ∃ s e ts, ∃ k : Nat → Nat, ∃ s1, o.ok = true ∧
      let vv : List (Nat × Bool) := match o.valid with
        | .reg r => [(r.toNat, false)]
        | .imm _ => []
      let src (tid : Nat) : Nat := addressOf e s o.sb (some o.si) 0 tid
      let dst (tid : Nat) : Nat := addressOf e s o.db (some o.di) 0 tid
      Executes s e o.guard { u := o.db.need false ++ o.sb.need o.rb, v := o.di.need false o.ra ++ o.si.need false o.rc ++ vv } ts ∧
      EngineReady s e ∧ s.requests e.ctx.core + ts.length ≤ 1024 ∧
      (∀ tid ∈ ts, dst tid % 32 = 0 ∧ src tid % 32 = 0 ∧ dst tid + 32 ≤ e.team.spadBytes ∧ src tid < 2 ^ 56) ∧
      CopySources s e (copyAccess o e s ts) k s1 ∧ copyCount o e s 0 = 0 ∧ copyCount o e s 1 = 32) ∧
    (∃ o : CpwaitOp, ∃ s e ts, o.ok = true ∧ Executes s e o.guard { du := (o.sd.map fun d => d.toNat).toList } ts) ∧
    (∃ s r a e tag sd, State.act? s r = some a ∧ a.status = .cpwait tag sd ∧ s.envAt ⟨r, a.pc, 1⟩ = some e ∧ e.ctx.tags.getD tag 0 ≠ 0) ∧
    ∃ s r a e tag sd, State.act? s r = some a ∧ a.status = .cpwait tag sd ∧ s.envAt ⟨r, a.pc, 1⟩ = some e ∧ e.ctx.tags.getD tag 0 = 0 ∧
      s.running e.ctx = true :=
  ⟨⟨cpaOp (.reg 2), Ms, envOf Ms, all16, fun tid => dieKey (0x200000 + 64 * tid), _, by decide, ex_ok (by decide +kernel),
      ready_ok (by decide +kernel), by decide +kernel, by decide +kernel, sources_ok (by decide +kernel), by decide +kernel,
      by decide +kernel⟩,
   ⟨⟨none, some 20, 7⟩, M0, envOf M0, all16, by decide, ex_ok (by decide +kernel)⟩,
   ⟨Mcp 1, ⟨1, 0⟩, (envOf (Mcp 1)).act, envOf (Mcp 1), 7, some 20, by decide +kernel⟩,
   ⟨Mcp 0, ⟨1, 0⟩, (envOf (Mcp 0)).act, envOf (Mcp 0), 7, some 20, by decide +kernel⟩⟩

/-- BCOPY of s8 bytes from s7 to s6. -/
def bcOp (dsp : Bool) : BcopyOp := ⟨20, .reg 6, .reg 7, .reg 8, false, false, false, false, dsp, 0, none⟩
def Mbc (n : Word) : State := withU 6 0x4000 (withU 7 0x1000 (withU 8 n Mc))

theorem witness_BlockCopiesStartNumbered :
    (∃ o s e, BcopyOp.ok o = true ∧
      let src := ((o.b.read e).toNat + 0) % 2 ^ 64
      let dst := ((o.a.read e).toNat + 0) % 2 ^ 64
      let n := (o.c.read e).toNat
      o.offs = none ∧ AtIssue s e { u := o.a.need o.ra ++ o.b.need o.rb ++ o.c.need o.rc, du := [o.sd.toNat] } e.act.lanes ∧
      n < 2 ^ 32 ∧ (s.opsOf e.ref.ctx fun x => decide (x.tl = 0)).length < 64 ∧ EngineReady s e ∧ n ≠ 0 ∧
      ∃ from' into s1, s.copyRanges e.who src dst n o.dsp = (.go from', .go into, s1)) ∧
    ∃ o s e, BcopyOp.ok o = true ∧ AtIssue s e { u := o.a.need o.ra ++ o.b.need o.rb ++ o.c.need o.rc, du := [o.sd.toNat] } e.act.lanes ∧
      (s.opsOf e.ref.ctx fun x => decide (x.tl = 0)).length < 64 ∧ EngineReady s e ∧ (o.c.read e).toNat = 0 ∧
      PathsStand s e.ref.ctx := by
  refine ⟨⟨bcOp true, Mbc 0x8000, envOf (Mbc 0x8000), by decide, rfl, at_ok (by decide +kernel), by decide +kernel, by decide +kernel,
      ready_ok (by decide +kernel), by decide +kernel, .mem [(dieKey 0x201000, 0x8000)] false false,
      .mem [(spadKey 0 0x4000, 0x8000)] false false, (State.copyRanges (Mbc 0x8000) (envOf (Mbc 0x8000)).who 0x1000 0x4000 0x8000 true).2.2,
      Prod.ext (by decide +kernel) (Prod.ext (by decide +kernel) (by decide +kernel))⟩,
    ⟨bcOp true, Mbc 0, envOf (Mbc 0), by decide, at_ok (by decide +kernel), by decide +kernel, ready_ok (by decide +kernel),
      by decide +kernel, ?_⟩⟩
  exact stand_ok (by decide +kernel)

/-- A gather descriptor at 0x1000: four rows of eight FP32 elements, from 0x2000, indexes at 0x3000, to scratchpad 0x4000. -/
def gatherBytes : List Byte :=
  natLE 0x2000 8 ++ natLE 0x3000 8 ++ natLE 0x4000 8 ++ natLE 4 4 ++ natLE 8 4 ++ natLE 32 4 ++ natLE 32 4 ++ natLE 2 1 ++ natLE 0 1 ++
  natLE 1 1 ++ natLE 0 21
def descOp : DescOp := ⟨20, .reg 6, false, .imm 0, false, 0⟩
def Mg : State := withU 6 0x1000 (poke 0x1000 gatherBytes Mc)

theorem witness_UnitInstructionsPostTheirOperation :
    (∃ o : DescOp, ∃ s e k s1 d, let addr := addressOf e s o.base none (o.off.bytes 16) 0
      o.ok true = true ∧ AtIssue s e { u := o.base.need o.ra, du := [o.sd.toNat] } e.act.lanes ∧ addr % 64 = 0 ∧ EngineReady s e ∧
      EngineAt s e addr 64 .read k s1 ∧ gatherDesc (memReads s.mem k 64) e.team e.ctx.core = some d ∧ d.n ≠ 0 ∧
      addr % 256 = 0 ∧ e.launchHeld s = none ∧ s.launchesHeld (dieOf e.ctx.core) < 256) ∧
    ∃ q : TlrdOp, ∃ s e, q.ok = true ∧ AtIssue s e { du := [q.sd.toNat] } e.act.lanes :=
  ⟨⟨descOp, Mg, envOf Mg, dieKey 0x201000, _, ⟨0x2000, 32, 0x3000, 0x4000, 32, 4, 8, 2, 0, true⟩, by decide, at_ok (by decide +kernel),
      by decide +kernel, ready_ok (by decide +kernel), engine_ok (host := false) (by decide +kernel), by decide +kernel, by decide,
      by decide +kernel⟩,
   ⟨⟨159, 4⟩, M0, envOf M0, by decide, at_ok (by decide +kernel)⟩⟩

def gateOp : GateOp := ⟨none, .reg 6, some (.reg 2), 1, 0, false, false⟩

theorem witness_GateInstructionsRankCandidates :
    (∃ o : GmaxOp, ∃ s e ts k, Instr.wf (.gmax o) = true ∧ SlotsAt o.toGateOp s e ts k ∧ Executes s e o.guard
        { u := memNeedsU o.base o.ra, v := memNeedsV o.idx o.rb ++ o.vs.need false o.rc ++ o.ve.need false false } ts) ∧
    ∃ o : GnextOp, ∃ s e ts k, Instr.wf (.gnext o) = true ∧ SlotsAt o.toGateOp s e ts k ∧
      Executes s e o.guard { u := memNeedsU o.base o.ra, v := memNeedsV o.idx o.rb, dv := [o.d.toNat, o.s.toNat] } ts := by
  refine ⟨⟨⟨gateOp, .lane, .reg 11, false⟩, Mt, envOf Mt, all16, fun tid => spadKey 0 (0x1020 + 64 * tid), by decide, ?_,
      ex_ok (by decide +kernel)⟩,
    ⟨⟨gateOp, 10, 11⟩, Mt, envOf Mt, all16, fun tid => spadKey 0 (0x1020 + 64 * tid), by decide, ?_, ex_ok (by decide +kernel)⟩⟩ <;>
    (unfold SlotsAt; decide +kernel)

/-- A route descriptor at scratchpad 0x1000: two experts, offsets at 0x2000, cursors at 0x2100, map at 0x2200; expert 0 has
slots 0 and 1 and expert 1 has none. -/
def routeBytes : List Byte := natLE 0x2000 8 ++ natLE 0x2100 8 ++ natLE 0x2200 8 ++ natLE 2 4 ++ natLE 0 4
def routeOp (g : Guard) : RouteOp := ⟨g, 40, .reg 6, .reg 2, .lane, false, true, 0, false, false, false⟩
def Mr (g : Nat) : State :=
  withK 3 (.inline 0 (BitVec.ofNat 64 (2 ^ g))) (withU 6 0x1000 (pokeSpad 0x1000 routeBytes (pokeSpad 0x2004 (natLE 2 4) (pokeSpad 0x2008 (natLE 2 4) (withV 1 2 1 Ms)))))
/-- ROUTE as an access. -/
def routeAcc (o : RouteOp) (s : State) (e : Env) (ts : List Nat) : Access :=
  let addr := (o.base.read e).toNat
  accessBy e (.route addr false) o.sp true (if o.sp then .team else .pkg) o.ov o.sl (ts.map fun tid =>
    ⟨tid, addr, BitVec.ofNat 64 ((o.e.read .uint32 e s tid).toNat % 2 ^ 32),
      BitVec.ofNat 64 ((o.tag.read .uint32 e s tid).toNat % 2 ^ 32), (e.thread s tid).base + o.d.toNat⟩) false
/-- What ROUTE asks of its descriptor, for the threads `ts`. -/
def RouteAt (o : RouteOp) (s : State) (e : Env) (ts : List Nat) (k : Nat) (s1 : State) : Prop :=
  let a := routeAcc o s e ts
  Executes s e o.guard { u := o.base.need o.ra, v := o.e.need false o.rb ++ o.tag.need false o.rc, dv := [o.d.toNat] } ts ∧
  ts ≠ [] ∧ Windows s e ts ∧ Admitted s e a ∧ Translated s e a ∧ NoStores s e ∧ s.requests e.ctx.core + 3 * ts.length ≤ 1024 ∧
  DescriptorAt s e a (o.base.read e).toNat k s1 ∧
  let f := fieldOf s.mem k
  (∀ i ∈ [0, 8, 16], f i 8 % 4 = 0 ∧ (o.sp = true → f i 8 < 2 ^ 32)) ∧ 1 ≤ f 24 4 ∧ f 24 4 ≤ 1024 ∧ f 28 4 = 0

theorem descriptor_ok {s : State} {e : Env} {a : Access} {addr k : Nat}
    (h : (s.itemReach e.who a (onceItem addr)) = (.go (.mem [(k, 32)] false false), s) ∧
      s.mustDrain e.who { a with strong := false, once := true } s.nextId [(onceItem addr, .go (.mem [(k, 32)] false false))] = none ∧
      s.segsPoisoned [(k, 32)] = false) : DescriptorAt s e a addr k s :=
  ⟨_, s, false, false, h.1, h.2.1, h.1, h.2.2⟩

theorem route_ok {s : State} {ts : List Nat} {k : Nat}
    (h : exB s (envOf s) (some 3) { u := [(6, false)], v := [(2, false)], dv := [40] } ts = true)
    (h1 : admB s (envOf s) (routeAcc (routeOp (some 3)) s (envOf s) ts) = true)
    (h2 : ts ≠ [] ∧ (∀ tid ∈ ts, ((envOf s).thread s tid).base + 224 ≤ 1024) ∧
      (∀ p ∈ s.ctxs, p.1 = (envOf s).ref.ctx ∨ p.2.team = (envOf s).ctx.team → p.2.queue = []) ∧
      s.requests (envOf s).ctx.core + 3 * ts.length ≤ 1024)
    (h3 : (s.itemReach (envOf s).who (routeAcc (routeOp (some 3)) s (envOf s) ts) (onceItem ((USrc.reg 6).read (envOf s)).toNat)) =
        (.go (.mem [(k, 32)] false false), s) ∧
      s.mustDrain (envOf s).who { routeAcc (routeOp (some 3)) s (envOf s) ts with strong := false, once := true } s.nextId
        [(onceItem ((USrc.reg 6).read (envOf s)).toNat, .go (.mem [(k, 32)] false false))] = none ∧ s.segsPoisoned [(k, 32)] = false)
    (h4 : let f := fieldOf s.mem k
      (∀ i ∈ [0, 8, 16], f i 8 % 4 = 0 ∧ (true = true → f i 8 < 2 ^ 32)) ∧ 1 ≤ f 24 4 ∧ f 24 4 ≤ 1024 ∧ f 28 4 = 0) :
    RouteAt (routeOp (some 3)) s (envOf s) ts k s :=
  ⟨ex_ok h, h2.1, h2.2.1, adm_ok h1, .inl rfl, h2.2.2.1, h2.2.2.2, descriptor_ok h3, h4⟩

/-- One expert's words, and what ROUTE stores for its thread. -/
def ExpertAt (o : RouteOp) (s : State) (e : Env) (k tid x ka kb : Nat) : Prop :=
  let f := fieldOf s.mem k
  let a := routeAcc o s e [tid]
  let d : RouteDesc := ⟨f 0 8, f 8 8, f 16 8, f 24 4⟩
  let words : RouteItem := ((a.items.headD ⟨0, 0, 0, 0, 0⟩), some (.go (.mem [(ka, 8)] false false), .go (.mem [(kb, 4)] false false)))
  (o.e.read .uint32 e s tid).toNat % 2 ^ 32 = x ∧ x < f 24 4 ∧ tableKind (s.rtabOf e.team) x = 0 ∧
  State.routeReach e.who o.sp d a.items s = ([words], s) ∧ s.segsPoisoned [(ka, 8), (kb, 4)] = false ∧
  (∀ y ∈ linesOf ka 8 ++ linesOf kb 4, s.linePresent y = true) ∧ s.routeHeld e.who a d s.nextId [words] = none

theorem witness_RouteAnswersEachThread :
    (∃ o : RouteOp, ∃ s e ts k s1, o.ok = true ∧ RouteAt o s e ts k s1 ∧
      ∀ tid ∈ ts, fieldOf s.mem k 24 4 ≤ (o.e.read .uint32 e s tid).toNat % 2 ^ 32 ∨
        tableKind (s.rtabOf e.team) ((o.e.read .uint32 e s tid).toNat % 2 ^ 32) ≠ 0) ∧
    (∃ o : RouteOp, ∃ s e tid k x ka kb, o.ok = true ∧ RouteAt o s e [tid] k s ∧ ExpertAt o s e k tid x ka kb ∧
      let lo := fieldOf s.mem ka 0 4
      let hi := fieldOf s.mem ka 4 4
      let c := fieldOf s.mem kb 0 4
      let m := memWrites s.mem kb (natLE (c + 1) 4)
      (lo ≤ hi ∧ c < hi - lo ∧ lo + c < 0xFFFFFFF0) ∧
      ∃ km, (State.itemReach { s with mem := m } e.who { routeAcc o s e [tid] with kind := .route 0 true }
          ⟨tid, (fieldOf s.mem k 16 8 + 4 * (lo + c)) % 2 ^ 64, 0, BitVec.ofNat 64 (lo + c), 40⟩).1 = .go (.mem [(km, 4)] false false) ∧
        State.writePoisoned { s with mem := m } [(km, 4)] [(km, 4)] = false) ∧
    ∃ o : RouteOp, ∃ s e tid k x ka kb, o.ok = true ∧ RouteAt o s e [tid] k s ∧ ExpertAt o s e k tid x ka kb ∧
      let lo := fieldOf s.mem ka 0 4
      let hi := fieldOf s.mem ka 4 4
      let c := fieldOf s.mem kb 0 4
      ¬(lo ≤ hi ∧ c < hi - lo ∧ lo + c < 0xFFFFFFF0) := by
  have route (g : Nat) (h : g ∈ [0, 1, 3]) : RouteAt (routeOp (some 3)) (Mr g) (envOf (Mr g)) [g] (spadKey 0 0x1000) (Mr g) := by
    simp only [List.mem_cons, List.not_mem_nil, or_false] at h
    rcases h with rfl | rfl | rfl <;> refine route_ok ?_ ?_ ?_ ?_ ?_ <;> decide +kernel
  refine ⟨⟨routeOp (some 3), Mr 3, _, [3], spadKey 0 0x1000, Mr 3, by decide, route 3 (by decide), by decide +kernel⟩,
    ⟨routeOp (some 3), Mr 0, _, 0, spadKey 0 0x1000, 0, spadKey 0 0x2000, spadKey 0 0x2100, by decide, route 0 (by decide), ?_,
      by decide +kernel, spadKey 0 0x2200, by decide +kernel⟩,
    ⟨routeOp (some 3), Mr 1, _, 1, spadKey 0 0x1000, 1, spadKey 0 0x2004, spadKey 0 0x2104, by decide, route 1 (by decide), ?_,
      by decide +kernel⟩⟩ <;>
    (unfold ExpertAt; decide +kernel)

/-! ### Matrix arrays -/

/-- A pair team of cores 0 and 1; the program's path runs on core 0. -/
def pairOf (s : State) : State := s.modTeam 1 fun t => { t with cores := [0, 1] }
/-- Rows of core c held by team 1. -/
def held (c n : Nat) (s : State) : State := s.modCore c fun k => { k with rows := (List.range n).map fun r => (r, (1, false)) }
def aTile : Tile := ⟨32, 0, false, []⟩
def Mw : State := withU 6 0x1000 M0
/-- The context holds a live tile of 32 rows of BF16, its team the rows 0 to 15 of core 0. -/
def Mtile : State := held 0 16 (ctx1 (fun c => { c with live := some aTile }) Mw)

theorem held_ok {s : State} {n row team : Nat} {l : List Nat}
    (h : ∀ i < n, ∀ c ∈ l, row + i < 256 ∧ (s.core c).rows.get? (row + i) = some (team, false)) :
    ∀ i < n, ∀ c ∈ l, RowHeld s c team (row + i) := fun i hi c hc => ⟨(h i hi c hc).1, false, (h i hi c hc).2⟩

theorem witness_TileInstructionsPost :
    (∃ o : MldwOp, ∃ s e key, let k := 8 * o.kq.toNat
      let fmt := slotElem (e.rcd.slot o.slot.toNat)
      o.ok = true ∧ AtIssue s e { u := o.base.need o.ra } e.act.lanes ∧ Released s e ∧ fmt ∈ [0, 3, 4, 5] ∧ k ≤ 32 * rateOf fmt ∧
      (fmt = 5 → k % 32 = 0) ∧ (o.pair = true → e.pairOk = true) ∧ MatrixAt e o.base o.off (tileBytes fmt k (if o.pair then 128 else 64)) key) ∧
    (∃ o : MldwOp, ∃ s e key, let k := 8 * o.kq.toNat
      let fmt := slotElem (e.rcd.slot o.slot.toNat)
      o.ok = true ∧ o.pair = true ∧ fmt = 5 ∧ AtIssue s e { u := o.base.need o.ra } e.act.lanes ∧ Released s e ∧ fmt ∈ [0, 3, 4, 5] ∧
      k ≤ 32 * rateOf fmt ∧ (fmt = 5 → k % 32 = 0) ∧ (o.pair = true → e.pairOk = true) ∧
      MatrixAt e o.base o.off (tileBytes fmt k (if o.pair then 128 else 64)) key) ∧
    (∃ s e, ∃ live shadow : Option TileInfo, AtIssue s e {} e.act.lanes ∧ s.tilesAhead e.ref.ctx = (live, shadow) ∧
      (∀ x, live = some x ∨ shadow = some x → x.pair = true) ∧ live = none ∧ shadow = none) ∧
    ∃ s e, ∃ live shadow : Option TileInfo, AtIssue s e {} e.act.lanes ∧ s.tilesAhead e.ref.ctx = (live, shadow) ∧
      (∀ x, live = some x ∨ shadow = some x → x.pair = false) ∧ ¬(live = none ∧ shadow = none) := by
  refine ⟨⟨⟨.reg 6, 4, .imm 0, false, 0, false, 0, false⟩, Mw, envOf Mw, spadKey 0 0x1000, by decide, at_ok (by decide +kernel),
      rel_ok (by decide +kernel), by decide +kernel, by decide +kernel, by decide +kernel, by decide +kernel, ?_⟩,
    ⟨⟨.reg 6, 16, .imm 0, true, 1, false, 0, false⟩, pairOf Mw, envOf (pairOf Mw), spadKey 0 0x1000, by decide, rfl, by decide +kernel,
      at_ok (by decide +kernel), rel_ok (by decide +kernel), by decide +kernel, by decide +kernel, by decide +kernel,
      by decide +kernel, ?_⟩,
    ⟨M0, envOf M0, none, none, at_ok (by decide +kernel), by decide +kernel, by simp, rfl, rfl⟩,
    ⟨Mtile, envOf Mtile, some ⟨32, 0, false⟩, none, at_ok (by decide +kernel), by decide +kernel, ?_, by decide⟩⟩
  · unfold MatrixAt; decide +kernel
  · unfold MatrixAt; decide +kernel
  · rintro x (h | h)
    · cases h; rfl
    · cases h

theorem witness_PassesEnterTheTable :
    ∃ o : MstrOp, ∃ s e, ∃ live : TileInfo, ∃ shadow key, let m := o.m1.toNat + 1
      let fmt := slotElem (e.rcd.slot o.slot.toNat)
      let row := (o.row.read e).toNat
      o.ok = true ∧ AtIssue s e { u := o.base.need o.ra ++ o.row.need o.rb } e.act.lanes ∧ Released s e ∧
      s.tilesAhead e.ref.ctx = (some live, shadow) ∧ fmt ∈ [0, 3, 4, 5] ∧ live.elem ∈ [0, 3, 4, 5] ∧
      live.k ≤ 32 * min (rateOf live.elem) (rateOf fmt) ∧ (fmt = 5 → o.t = false ∧ live.k % 32 = 0) ∧ live.pair = o.pair ∧
      (o.pair = true → e.pairOk = true) ∧ (e.rcd.sched = 0 ∨ e.ctx.isHome = true) ∧
      (∀ i < m, ∀ c ∈ (if o.pair then rowCores e else [e.ctx.core]), RowHeld s c e.ctx.team (row + i)) ∧
      MatrixAt e o.base o.off (tileBytes fmt live.k m) key ∧ (s.requestsOf (e.ctx.core / 4)).length < 16 := by
  refine ⟨⟨15, .reg 6, .reg 21, .imm 0, false, true, true, 0, false, 0, false, false⟩, Mtile, envOf Mtile, ⟨32, 0, false⟩, none,
    spadKey 0 0x1000, by decide, at_ok (by decide +kernel), rel_ok (by decide +kernel), by decide +kernel, by decide +kernel, by decide,
    by decide +kernel, by decide +kernel, rfl, by decide, by decide +kernel, held_ok (by decide +kernel), ?_, by decide +kernel⟩
  unfold MatrixAt; decide +kernel

theorem witness_AccumulatorRowsAreGrantedAndReleased :
    (∃ o : MacqOp, ∃ s e r, o.ok = true ∧ AtIssue s e { du := [o.sd.toNat] } e.act.lanes ∧
      let n := o.n1.toNat + 1
      let free (c r : Nat) : Prop := ∀ i < n, RowFree s c (r + i)
      r + n = 256 ∧ free e.ctx.core r ∧ (∀ q < r, ¬free e.ctx.core q) ∧ ∀ c ∈ rowCores e, free c r) ∧
    (∃ o : MacqOp, ∃ s e r, o.ok = true ∧ AtIssue s e { du := [o.sd.toNat] } e.act.lanes ∧
      let n := o.n1.toNat + 1
      let free (c r : Nat) : Prop := ∀ i < n, RowFree s c (r + i)
      r + n ≤ 256 ∧ free e.ctx.core r ∧ (∀ q < r, ¬free e.ctx.core q) ∧ ∃ c ∈ rowCores e, ¬free c r) ∧
    (∃ o : MacqOp, ∃ s e, o.ok = true ∧ AtIssue s e { du := [o.sd.toNat] } e.act.lanes ∧
      ∀ r, r + (o.n1.toNat + 1) ≤ 256 → ¬∀ i < o.n1.toNat + 1, RowFree s e.ctx.core (r + i)) ∧
    ∃ o : MrelOp, ∃ s e, let n := o.n1.toNat + 1
      let row := (o.row.read e).toNat
      o.ok = true ∧ AtIssue s e { u := o.row.need o.ra } e.act.lanes ∧ PathsStand s e.ref.ctx ∧ (∀ c ∈ rowCores e, RowsOnce s c) ∧
      (∀ i < n, ∀ c ∈ rowCores e, RowHeld s c e.ctx.team (row + i)) ∧ s.rowsUsed e.ref.ctx s.nextId row n true true = false := by
  let a := held 0 240 M0
  let b := held 1 1 (pairOf M0)
  let c := held 0 241 M0
  refine ⟨⟨⟨20, 15⟩, a, envOf a, 240, by decide, at_ok (by decide +kernel), by decide, ?_, ?_, ?_⟩,
    ⟨⟨20, 15⟩, b, envOf b, 0, by decide, at_ok (by decide +kernel), by decide, ?_, by simp, ?_⟩,
    ⟨⟨20, 15⟩, c, envOf c, by decide, at_ok (by decide +kernel), ?_⟩,
    ⟨⟨.reg 21, false, 15⟩, Mtile, envOf Mtile, by decide, at_ok (by decide +kernel), stand_ok (by decide +kernel), ?_,
      held_ok (by decide +kernel), by decide +kernel⟩⟩
  · unfold RowFree; decide +kernel
  · unfold RowFree; decide +kernel
  · unfold RowFree; decide +kernel
  · unfold RowFree; decide +kernel
  · unfold RowFree; decide +kernel
  · have h : ∀ r < 241, ¬∀ i < 16, RowFree c (envOf c).ctx.core (r + i) := by unfold RowFree; decide +kernel
    exact fun r hr => h r (by have : (15 : BitVec 8).toNat = 15 := rfl
                              simp only [this] at hr; omega)
  · unfold RowsOnce; decide +kernel

theorem witness_DrainsPostTheirRows :
    (∃ o : MdrnRegOp, ∃ s e, let n := o.n1.toNat + 1
      let row := (o.row.read e).toNat
      let w := e.rcd.w
      o.ok = true ∧ o.d.toNat + n * (64 / w) = 224 ∧
      AtIssue s e { u := o.row.need o.rb, dv := (List.range (n * (64 / w))).map (o.d.toNat + ·) } e.act.lanes ∧
      (∀ i < n, (s.core e.ctx.core).rows.get? (row + i) = some (e.ctx.team, false)) ∧ row + n ≤ 256) ∧
    ∃ o : MdrnSpadOp, ∃ s e key, let n := o.n1.toNat + 1
      let row := (o.row.read e).toNat
      let addr := ((o.base.read e).toNat + (o.off.bytes 16).toNat) % 2 ^ 64
      o.ok = true ∧ AtIssue s e { u := o.base.need o.ra ++ o.row.need o.rb } e.act.lanes ∧
      (∀ i < n, RowHeld s e.ctx.core e.ctx.team (row + i)) ∧ MatrixAt e o.base o.off (256 * n) key ∧
      (∃ lines, e.drainLines s addr row n = .ok lines) ∧
      ∀ i < n, (s.core e.ctx.core).rows.get? (row + i) = some (e.ctx.team, false) := by
  refine ⟨⟨⟨160, .reg 21, 15, false, 0, false⟩, Mtile, envOf Mtile, by decide, by decide +kernel, at_ok (by decide +kernel),
      by decide +kernel, by decide +kernel⟩,
    ⟨⟨15, .reg 6, .reg 21, .imm 0, false, 0, false, false⟩, Mtile, envOf Mtile, spadKey 0 0x1000, by decide, at_ok (by decide +kernel),
      fun i hi => held_ok (l := [(envOf Mtile).ctx.core]) (by decide +kernel) i hi _ (by simp), ?_,
      ⟨(List.range 32).map fun i => lineKey 0 (0x1000 + 128 * i), by decide +kernel⟩, by decide +kernel⟩⟩
  unfold MatrixAt; decide +kernel

/-! ### Applications -/

def fOp : ApplyOp := ⟨3, 2, .near 4, false, 0⟩
def gOp : ApplyOp := { fOp with n := 0 }
def runs (ctx addr : Nat) (s : State) : State := { s with cur := some ⟨⟨ctx, 0⟩, addr, 1⟩ }
/-- The child of an APPLY.g at its AEND; the home path arrived at an APPLY.f; its application, open, with a context to form;
that context at its AEND. -/
def Mchild : State := runs 1 32 (after (.applyG gOp) M3)
def Marr : State := after (.applyF fOp) M3
def Mapp : State := after (.frameRendezvousComplete 1 0) Marr
def Mform : State := runs 5 32 (after (.appliedContextForm 1 4) Mapp)
/-- A machine with a path in slot 1. -/
def Mfork : State := ctx1 (fun c => { c with p1 := [newAct 9 0 [15] .forkB 0] }) M3
def frk : ForkOp := ⟨3, 3, 4, 6⟩

theorem witness_GroupBlocksRunAndEnd :
    (∃ o : ApplyOp, ∃ s e rest, o.ok false = true ∧ AtIssue s e { k := [o.ka.toNat] } e.act.lanes ∧ e.ctx.stack e.ref.slot = e.act :: rest ∧
      (e.act.lanes.filter fun t => (setIn s e o.ka.toNat).getLsbD t) = []) ∧
    (∃ o : ApplyOp, ∃ s e rest, o.ok false = true ∧ AtIssue s e { k := [o.ka.toNat] } e.act.lanes ∧ e.ctx.stack e.ref.slot = e.act :: rest ∧
      (e.act.lanes.filter fun t => (setIn s e o.ka.toNat).getLsbD t) ≠ [] ∧ AllFull e.act ∧
      s.packEmpty e.ctx.team (footOf o.pack o.foot e.rcd.vregs)
        (e.act.lanes.filter fun t => (setIn s e o.ka.toNat).getLsbD t) = []) ∧
    (∃ o : ForkOp, ∃ s e rest, AtIssue s e { k := [o.ka.toNat, o.kb.toNat] } e.act.lanes ∧ e.ctx.stack e.ref.slot = e.act :: rest ∧
      AllFull e.act ∧ (e.act.lanes.filter fun t => (setIn s e o.ka.toNat).getLsbD t) ≠ [] ∧ e.ref.slot = 0 ∧ e.ctx.p1 = []) ∧
    (∃ o : ForkOp, ∃ s e rest, AtIssue s e { k := [o.ka.toNat, o.kb.toNat] } e.act.lanes ∧ e.ctx.stack e.ref.slot = e.act :: rest ∧
      AllFull e.act ∧ (e.act.lanes.filter fun t => (setIn s e o.ka.toNat).getLsbD t) ≠ [] ∧ e.ctx.p1 ≠ []) ∧
    (∃ o : ForkOp, ∃ s e rest, AtIssue s e { k := [o.ka.toNat, o.kb.toNat] } e.act.lanes ∧ e.ctx.stack e.ref.slot = e.act :: rest ∧
      AllFull e.act ∧ (e.act.lanes.filter fun t => (setIn s e o.ka.toNat).getLsbD t) = [] ∧
      (e.act.lanes.filter fun t => (setIn s e o.kb.toNat).getLsbD t) = []) ∧
    (∃ s e, ∃ p : Act, ∃ rest, AtIssue s e {} e.act.lanes ∧ e.ctx.stack e.ref.slot = e.act :: p :: rest ∧ e.act.kind = .child ∧
      e.ctx.log = [] ∧ e.logs s = false ∧ PathsStand s e.ref.ctx ∧ p.lanes ≠ [] ∧ e.footEmpty s = []) ∧
    (∃ s e, ∃ app, ∃ q : App, AtIssue s e {} e.act.lanes ∧ e.ref.slot = 0 ∧ e.ctx.p0 = [e.act] ∧ e.ctx.p1 = [] ∧ e.act.kind = .applied app ∧
      e.ctx.app = some app ∧ e.ctx.log = [] ∧ e.logs s = false ∧ e.ctx.queue = [] ∧ (∀ p ∈ s.pend, p.2.ctx ≠ e.ref.ctx) ∧ e.footEmpty s = [] ∧
      e.team.apps.get? app = some q ∧ q.live = [e.ref.ctx] ∧ q.todo = [] ∧
      ∃ r b, s.act? r = some b ∧ (r.ctx, b.uid) ∈ q.issuers ∧ b.status = .applied app ∧ r.ctx ≠ e.ref.ctx ∧ PathsStand s r.ctx) ∧
    ∃ s e, AtIssue s e {} e.act.lanes ∧ e.act.kind = .home ∧ HandlerFits s e e.act.lanes ∧ e.addr < 2 ^ 56 := by
  let q : App := ((envOf Mform).team.apps.get? 4).getD ⟨[], 0, [], 0, [], [], 0, [], 0, none, [], []⟩
  have mform : (envOf Mform).ref.slot = 0 ∧ (envOf Mform).ctx.p0 = [(envOf Mform).act] ∧ (envOf Mform).ctx.p1 = [] ∧
      (envOf Mform).act.kind = .applied 4 ∧ (envOf Mform).ctx.app = some 4 ∧ (envOf Mform).ctx.log = [] ∧
      (envOf Mform).logs Mform = false ∧ (envOf Mform).ctx.queue = [] := by decide +kernel
  have pends : (∀ p ∈ Mform.pend, p.2.ctx ≠ (envOf Mform).ref.ctx) ∧ (envOf Mform).footEmpty Mform = [] ∧
      (envOf Mform).team.apps.get? 4 = some q ∧ q.live = [(envOf Mform).ref.ctx] ∧ q.todo = [] := by decide +kernel
  have issuer : Mform.act? ⟨1, 0⟩ = some ((Mform.act? ⟨1, 0⟩).getD (newAct 0 0 [] .home 0)) ∧
      (1, ((Mform.act? ⟨1, 0⟩).getD (newAct 0 0 [] .home 0)).uid) ∈ q.issuers ∧
      ((Mform.act? ⟨1, 0⟩).getD (newAct 0 0 [] .home 0)).status = .applied 4 ∧ 1 ≠ (envOf Mform).ref.ctx := by decide +kernel
  refine ⟨⟨{ gOp with ka := 2 }, M3, envOf M3, [], by decide, at_ok (by decide +kernel), by decide +kernel, by decide +kernel⟩,
    ⟨{ gOp with pack := true, foot := 3 }, M3, envOf M3, [], by decide, at_ok (by decide +kernel), by decide +kernel, by decide +kernel,
      ?_, by decide +kernel⟩,
    ⟨frk, M3, envOf M3, [], at_ok (by decide +kernel), by decide +kernel, ?_, by decide +kernel⟩,
    ⟨frk, Mfork, envOf Mfork, [], at_ok (by decide +kernel), by decide +kernel, ?_, by decide +kernel, by decide +kernel⟩,
    ⟨frk, M0, envOf M0, [], at_ok (by decide +kernel), by decide +kernel, ?_, by decide +kernel, by decide +kernel⟩,
    ⟨Mchild, envOf Mchild, (envOf Mchild).ctx.p0.getD 1 (newAct 0 0 [] .home 0), [], at_ok (by decide +kernel), by decide +kernel,
      by decide +kernel, by decide +kernel, by decide +kernel, stand_ok (by decide +kernel), by decide +kernel, by decide +kernel⟩,
    ⟨Mform, envOf Mform, 4, ((envOf Mform).team.apps.get? 4).getD ⟨[], 0, [], 0, [], [], 0, [], 0, none, [], []⟩,
      at_ok (by decide +kernel), mform.1, mform.2.1, mform.2.2.1, mform.2.2.2.1, mform.2.2.2.2.1, mform.2.2.2.2.2.1,
      mform.2.2.2.2.2.2.1, mform.2.2.2.2.2.2.2, pends.1, pends.2.1, pends.2.2.1, pends.2.2.2.1, pends.2.2.2.2,
      ⟨1, 0⟩, (Mform.act? ⟨1, 0⟩).getD (newAct 0 0 [] .home 0), issuer.1, issuer.2.1, issuer.2.2.1, issuer.2.2.2,
      stand_ok (by decide +kernel)⟩,
    ⟨M0, envOf M0, at_ok (by decide +kernel), by decide +kernel, fits_ok (by decide +kernel), by decide +kernel⟩⟩
  · unfold AllFull; decide +kernel
  · unfold AllFull; decide +kernel
  · unfold AllFull; decide +kernel
  · unfold AllFull; decide +kernel

def theAct (s : State) : Act := (s.act? ⟨1, 0⟩).getD (newAct 0 0 [] .home 0)

/-- One path, of context 1, has arrived at address 0 in the outermost frame of team 1. -/
theorem met_ok {s : State} {col : Collective} (h : s.parts 1 0 = [(⟨1, 0⟩, theAct s)] ∧ s.act? ⟨1, 0⟩ = some (theAct s) ∧
    (theAct s).status = .arrived 0 1 col ∧ s.teamRuns 1 = true ∧ s.teams.get? 1 = some placedTeam ∧
    s.launches.get? 1 = some placedLaunch) :
    Met s 1 0 0 1 col [(⟨1, 0⟩, theAct s)] (⟨1, 0⟩, theAct s) placedTeam placedLaunch placedRecord :=
  ⟨h.1.symm, rfl, by simpa using ⟨h.2.1, h.2.2.1⟩, h.2.2.2.1, h.2.2.2.2.1, h.2.2.2.2.2, rfl⟩

def suOp : SetOp := ⟨4, 3, 0⟩
def kOp : ApplyKOp := ⟨10, 20, 4, 160, 64, false, 0, false, false⟩
def Msuni : State := after (.suniF suOp) M3
/-- The keys are all 0: below 8 keys, and out of range where there is none. -/
def Mkey : State := after (.applykF kOp) (withU 4 8 M3)
def MkeyNone : State := after (.applykF kOp) (withU 4 0 M3)
def Mnone : State := after (.applyF { fOp with ka := 2 }) M3

theorem witness_FrameCollectivesMeet :
    (∃ o : ApplyKOp, ∃ s e f rest, o.ok = true ∧ AtIssue s e {} e.act.lanes ∧ e.ctx.frames = f :: rest ∧ e.act.inTrap = false ∧
      ((e.team.frames.get? f).map (·.depth)).getD 0 < 15 ∧
      ∀ p ∈ s.parts e.ctx.team f, ∀ x, p.2.arrivedAt = some x → x = e.addr) ∧
    (∃ o : SetOp, ∃ s team f addr len ps c tm l rcd, ∃ u : Tids, Met s team f addr len (.suni o) ps c tm l rcd ∧
      (∀ tid, u.getLsbD tid = true ↔ tid < 2048 ∧ ∃ p ∈ ps, tid ∈ p.2.acting ∧ (partSet s tm p o.ka.toNat).getLsbD tid = true) ∧
      (s.canon team 0 u).isSome = true ∧ (s.canon team 1 u).isSome = true) ∧
    (∃ o : ApplyOp, ∃ s team f addr len ps c tm l rcd set, Met s team f addr len (.apply o) ps c tm l rcd ∧
      (∀ p ∈ ps, partSet s tm p o.ka.toNat = set) ∧ (∀ q ∈ c.2.s, q.1 < o.n.toNat → q.2.full = true) ∧ (∀ q ∈ c.2.k, q.2.full = true) ∧
      ((sortNat (ps.flatMap fun p => p.2.acting)).filter fun tid => set.getLsbD tid) ≠ [] ∧
      CarriesOver s tm c (s.formList team tm rcd.w ((sortNat (ps.flatMap fun p => p.2.acting)).filter fun tid => set.getLsbD tid) none)) ∧
    (∃ o : ApplyOp, ∃ s team f addr len ps c tm l rcd set, Met s team f addr len (.apply o) ps c tm l rcd ∧
      (∀ p ∈ ps, partSet s tm p o.ka.toNat = set) ∧ (∀ q ∈ c.2.s, q.1 < o.n.toNat → q.2.full = true) ∧ (∀ q ∈ c.2.k, q.2.full = true) ∧
      ((sortNat (ps.flatMap fun p => p.2.acting)).filter fun tid => set.getLsbD tid) = []) ∧
    (∀ empty : Bool, ∃ o : ApplyKOp, ∃ s team f addr len ps c tm l rcd, Met s team f addr len (.applyK o) ps c tm l rcd ∧
      (∀ p ∈ ps, (s.envOf p).isSome = true ∧ s.keyEmpty p o = []) ∧ (c.2.u o.nkeys.toNat).full = true ∧
      (∀ q ∈ c.2.s, q.1 < o.n.toNat → q.2.full = true) ∧ (∀ q ∈ c.2.k, q.2.full = true) ∧
      let nkeys := (c.2.u o.nkeys.toNat).val.toNat
      let keys := ps.flatMap fun p =>
        p.2.acting.map fun i => (i, (((s.thread team i).getD (Thread.start (s.coreOf p.1))).reg o.vkey.toNat).val.toNat)
      let null (k : Nat) : Bool := match l.rtab with
        | some t => decide (k < t.length) && (t.getD k 0).extractLsb' 30 2 ≠ 0
        | none => false
      let g := keys.filter fun q => decide (q.2 < nkeys) && !null q.2
      (g = [] ↔ empty = true) ∧ (g = [] ∨ CarriesOver s tm c ((sortNat ((g.map Prod.snd).eraseDups)).flatMap fun k =>
        s.formList team tm rcd.w (sortNat ((g.filter fun q => q.2 = k).map Prod.fst)) (some k)))) ∧
    ∃ s : State, ∃ team app, ∃ tm : Team, ∃ a : App, ∃ q : FormReq, ∃ rest slot, s.teams.get? team = some tm ∧ tm.apps.get? app = some a ∧
      a.todo = q :: rest ∧ s.teamRuns team = true ∧ s.freeSlot q.core = some slot ∧
      (q.lanes.filter fun i => !((s.thread team i).map (·.done)).getD true) ≠ [] ∧
      s.packEmpty team a.foot (q.lanes.filter fun i => !((s.thread team i).map (·.done)).getD true) = [] ∧
      s.earlierWaits q.core app = false := by
  refine ⟨⟨kOp, M3, envOf M3, 0, [], by decide, at_ok (by decide +kernel), by decide +kernel, by decide +kernel, by decide +kernel, ?_⟩,
    ⟨suOp, Msuni, 1, 0, 0, 1, _, _, _, _, _, 0x8001, met_ok (by decide +kernel), ?_, by decide +kernel, by decide +kernel⟩,
    ⟨fOp, Marr, 1, 0, 0, 1, _, _, _, _, _, 0x8001, met_ok (by decide +kernel), by decide +kernel, by decide +kernel, by decide +kernel,
      by decide +kernel, .inl (by decide +kernel)⟩,
    ⟨{ fOp with ka := 2 }, Mnone, 1, 0, 0, 1, _, _, _, _, _, 0, met_ok (by decide +kernel), by decide +kernel⟩,
    ?_,
    ⟨Mapp, 1, 4, (Mapp.teams.get? 1).getD placedTeam, (((Mapp.teams.get? 1).getD placedTeam).apps.get? 4).getD ⟨[], 0, [], 0, [], [], 0, [], 0, none, [], []⟩,
      ⟨0, [0, 15], none⟩, [], 1, by decide +kernel⟩⟩
  · have h : ∀ p ∈ M3.parts (envOf M3).ctx.team 0, p.2.arrivedAt = none := by decide +kernel
    intro p hp x hx
    rw [h p hp] at hx
    cases hx
  · have ha : (theAct Msuni).acting = all16 := by decide +kernel
    have hp : partSet Msuni placedTeam (⟨1, 0⟩, theAct Msuni) 3 = 0x8001 := by decide +kernel
    have h := tids_ok (b := 0x8001) (P := fun tid => (0x8001 : Tids).getLsbD tid = true) (by decide +kernel) (by decide +kernel)
    intro tid
    simpa [suOp, ha, hp] using h tid
  · intro empty
    cases empty
    · exact ⟨kOp, Mkey, 1, 0, 0, 1, _, _, _, _, _, met_ok (by decide +kernel), by decide +kernel, by decide +kernel, by decide +kernel,
        by decide +kernel, by decide +kernel, .inr (.inl (by decide +kernel))⟩
    · exact ⟨kOp, MkeyNone, 1, 0, 0, 1, _, _, _, _, _, met_ok (by decide +kernel), by decide +kernel, by decide +kernel,
        by decide +kernel, by decide +kernel, by decide +kernel, .inl (by decide +kernel)⟩

/-- The child of the threads 0 and 15, each of whose registers 20 and 21 hold 0x40. -/
def Mcv : State := threads (fun th => th.set 20 0x40) Mchild
def dueBin : Bin := ⟨1, 0x40, false, [3, 5], 0, none⟩
/-- A bin of core 0 that is due; a path that is still placing threads 3 and 5. -/
def Mbin : State := (M0.modCore 0 fun c => { c with bins := [(4, dueBin)] }).advance 256
def Mplacing (spawn : Bool) : State :=
  top (fun a => { a with status := .placing spawn [(3, 0x40), (5, 0x40)] })
    (M0.modThread 1 3 fun th => { th with bins := [⟨1, 2, 1⟩] })
def Mreturns : State := top (fun a => { a with status := .returns }) M0
def Mlent : State := ctx1 (fun c => { c with phase := .lent }) Mreturns
def ctxOf (s : State) : Ctx := (s.ctxs.get? 1).getD placedCtx
/-- The same with a global spill allocation, placed so that the image of slot 0 lies at address 0. -/
def Mlend (phase : Phase) : State :=
  ctx1 (fun c => { c with phase := phase, image := if phase = .lent then List.replicate 400 0 else [] })
    ((Mreturns.modLaunch 1 fun l => { l with record := some { placedRecord with gspill := placedRecord.spillNeed } }).modTeam 1
      fun t => { t with spillBase := 2 ^ 64 - 0x10000 })
def Mjoin : State := top (fun a => { a with status := .atJoin }) M0

theorem witness_BinsGatherThreadsAndForm :
    (∃ o : CallvOp, ∃ s e i x old, o.ok = true ∧
      AtIssue s e { v := [(o.va.toNat, o.ra), (o.va.toNat + 1, o.ra)] } e.act.lanes ∧
      (∀ tid ∈ e.act.lanes, ((e.thread s tid).pair o.va.toNat).toNat = x) ∧ x % 8 = 0 ∧ e.act.lanes.Nodup ∧
      (∀ tid ∈ e.act.lanes, (∃ th, s.thread e.ctx.team tid = some th) ∧ (e.thread s tid).base + o.n.toNat + 224 ≤ 1024 ∧
        (e.thread s tid).calls.length < 64) ∧ (s.poolFree e.ctx.team e.ctx.core e.team e.act.lanes o.n.toNat 1).1 = true ∧ PathsStand s e.ref.ctx ∧
      BinReady s e.ctx.core e.ctx.team x false i old e.act.lanes.length) ∧
    (∃ o : SpawnOp, ∃ s e ts i x old, let args := [o.b.toNat, o.b.toNat + 1, o.b.toNat + 2, o.b.toNat + 3]
      o.ok = true ∧
      Executes s e o.guard { v := [(o.a.toNat, o.ra), (o.a.toNat + 1, o.ra)] ++ args.map (·, o.rb), dv := [o.d.toNat] } ts ∧
      (∀ tid ∈ ts, ((e.thread s tid).pair o.a.toNat).toNat = x) ∧ x % 8 = 0 ∧ x < 2 ^ 56 ∧ ts.Nodup ∧ Released s e ∧
      (∀ tid ∈ ts, ∃ th, s.thread e.ctx.team tid = some th ∧ th.done = false) ∧ PathsStand s e.ref.ctx ∧
      BinReady s (if e.team.cores.length = 2 then e.team.cores.getD 1 e.ctx.core else e.ctx.core) e.ctx.team x true i old
        ((s.spares e.ctx.team e.team).take ts.length).length ∧ (s.spares e.ctx.team e.team).take ts.length ≠ []) ∧
    (∃ s : State, ∃ core k b slot, s.firstDue core = some (k, b) ∧ (s.core core).bins.get? k = some b ∧ s.appWaits core = false ∧
      s.freeSlot core = some slot ∧ ∃ tm, s.teams.get? b.team = some tm) ∧
    (∃ s : State, ∃ r, ∃ c : Ctx, ∃ a : Act, ∃ tm : Team, ∃ x i old, ∃ tids : List Nat, s.runningAct r = some (c, a) ∧
      a.status = .placing true (tids.map (·, x)) ∧ s.teams.get? c.team = some tm ∧ PathsStand s r.ctx ∧
      BinReady s (if True ∧ tm.cores.length = 2 then tm.cores.getD 1 c.core else c.core) c.team x true i old tids.length ∧ tids ≠ []) ∧
    (∃ s : State, ∃ r, ∃ c : Ctx, ∃ a : Act, ∃ tm : Team, ∃ x i old, ∃ tids : List Nat, s.runningAct r = some (c, a) ∧
      a.status = .placing false (tids.map (·, x)) ∧ s.teams.get? c.team = some tm ∧ PathsStand s r.ctx ∧
      (∃ tid ∈ a.lanes, ∃ th, s.thread c.team tid = some th ∧ ∃ b ∈ th.bins, b.ctx = r.ctx ∧ b.uid = a.uid) ∧
      BinReady s c.core c.team x false i old tids.length ∧ tids ≠ []) ∧
    (∃ s : State, ∃ ctx c tm i k, s.ctxs.get? ctx = some c ∧ s.teamRuns c.team = true ∧ c.phase = .resident ∧ (c.p0 ≠ [] ∨ c.p1 ≠ []) ∧
      (∀ a, c.p0.head? = some a ∨ c.p1.head? = some a → (∃ x, a.status = .applied x) ∨ a.status = .returns ∨
        ∃ x n col, a.status = .arrived x n col) ∧
      s.teams.get? c.team = some tm ∧ s.imageFor ctx c = some i ∧ Memory.wf s.mem = true ∧
      s.areaKey tm (tm.side c.core) (0x10000 + 0x8000 * i) = some k) ∧
    (∃ s : State, ∃ ctx c a, s.ctxs.get? ctx = some c ∧ s.teamRuns c.team = true ∧ c.p0.head? = some a ∧ a.status = .atJoin) ∧
    (∃ s : State, ∃ ctx c slot, s.ctxs.get? ctx = some c ∧ s.teamRuns c.team = true ∧ c.phase = .lent ∧ s.freeSlot c.core = some slot ∧
      ∀ k, s.imageKey c = some k → memReads s.mem k c.image.length = c.image) ∧
    ∃ s : State, ∃ ctx c slot k a, s.ctxs.get? ctx = some c ∧ s.teamRuns c.team = true ∧ c.phase = .lent ∧ s.freeSlot c.core = some slot ∧
      s.imageKey c = some k ∧ c.image ≠ [] ∧ c.p0.head? = some a ∧
      partOf c.image (sectionAt 0 + 144 + 8 * 4) 8 ≠ partOf (memReads s.mem k c.image.length) (sectionAt 0 + 144 + 8 * 4) 8 ∧
      c.sameOwn (memReads s.mem k c.image.length) = false := by
  have ready {s : State} {core team entry i n : Nat} {spawn : Bool}
      (h : s.binFor core team entry spawn = some i ∧ 0 + n < s.width team ∧ (s.core core).bins.get? i = none) :
      BinReady s core team entry spawn i [] n := ⟨h.1, h.2.1, .inl ⟨h.2.2, rfl⟩⟩
  have th {s : State} {team : Nat} {ts : List Nat} (h : ∀ tid ∈ ts, ((s.thread team tid).map (·.done)) = some false) :
      ∀ tid ∈ ts, ∃ th, s.thread team tid = some th ∧ th.done = false := by
    intro tid ht
    simpa using h tid ht
  let lend := Mlend .resident
  let lent := poke (272 + 32) [0x99] (poke 16 [1] (Mlend .lent))
  let teamOf (s : State) : Team := (s.teams.get? 1).getD placedTeam
  have spilt : lent.ctxs.get? 1 = some (ctxOf lent) ∧ lent.teamRuns (ctxOf lent).team = true ∧ (ctxOf lent).phase = .lent ∧
      lent.freeSlot (ctxOf lent).core = some 0 ∧ lent.imageKey (ctxOf lent) = some (dieKey 0x200000) ∧ (ctxOf lent).image ≠ [] := by
    decide +kernel
  refine ⟨⟨⟨20, false, 222⟩, Mcv, envOf Mcv, 0, 0x40, [], by decide, at_ok (by decide +kernel), by decide +kernel, by decide,
      by decide +kernel, ?_, by decide +kernel, stand_ok (by decide +kernel), ready (by decide +kernel)⟩,
    ⟨⟨some 3, 12, 20, 24, false, false⟩, M3, envOf M3, [0, 15], 0, 0, [], by decide, ex_ok (by decide +kernel), by decide +kernel,
      by decide, by decide, by decide, rel_ok (by decide +kernel), th (by decide +kernel), stand_ok (by decide +kernel),
      ready (by decide +kernel), by decide +kernel⟩,
    ⟨Mbin, 0, 4, dueBin, 1, by decide +kernel, by decide +kernel, by decide +kernel, by decide +kernel,
      placedTeam, by decide +kernel⟩,
    ⟨Mplacing true, ⟨1, 0⟩, ctxOf (Mplacing true), theAct (Mplacing true), placedTeam, 0x40, 0, [], [3, 5], by decide +kernel,
      by decide +kernel, by decide +kernel, stand_ok (by decide +kernel), ready (by decide +kernel), by decide⟩,
    ⟨Mplacing false, ⟨1, 0⟩, ctxOf (Mplacing false), theAct (Mplacing false), placedTeam, 0x40, 0, [], [3, 5], by decide +kernel,
      by decide +kernel, by decide +kernel, stand_ok (by decide +kernel),
      ⟨3, by decide +kernel, { Thread.start 0 with bins := [⟨1, 2, 1⟩] }, by decide +kernel, ⟨1, 2, 1⟩, by decide, rfl, by decide +kernel⟩,
      ready (by decide +kernel), by decide⟩,
    ⟨lend, 1, ctxOf lend, teamOf lend, 0, dieKey 0x200000, by decide +kernel, by decide +kernel, by decide +kernel, .inl (by decide +kernel),
      ?_, by decide +kernel⟩,
    ⟨Mjoin, 1, ctxOf Mjoin, theAct Mjoin, by decide +kernel⟩,
    ⟨Mlent, 1, ctxOf Mlent, 0, by decide +kernel, by decide +kernel, by decide +kernel, by decide +kernel, ?_⟩,
    ⟨lent, 1, ctxOf lent, 0, dieKey 0x200000, theAct lent, spilt.1, spilt.2.1, spilt.2.2.1, spilt.2.2.2.1, spilt.2.2.2.2.1,
      spilt.2.2.2.2.2, by decide +kernel⟩⟩
  · have h := th (s := Mcv) (team := 1) (ts := [0, 15]) (by decide +kernel)
    have hl : (envOf Mcv).act.lanes = [0, 15] := by decide +kernel
    have hc : (envOf Mcv).ctx.team = 1 := by decide +kernel
    rw [hl, hc]
    intro tid ht
    obtain ⟨x, hx, _⟩ := h tid ht
    exact ⟨⟨x, hx⟩, (by decide +kernel : ∀ tid ∈ [0, 15], ((envOf Mcv).thread Mcv tid).base + 222 + 224 ≤ 1024 ∧
      ((envOf Mcv).thread Mcv tid).calls.length < 64) tid ht⟩
  · have h0 : (ctxOf lend).p0.head? = some (theAct lend) := by decide +kernel
    have h1 : (ctxOf lend).p1.head? = none := by decide +kernel
    have h2 : (theAct lend).status = .returns := by decide +kernel
    intro a ha
    rw [h0, h1] at ha
    rcases ha with ha | ha
    · cases ha; exact .inr (.inl h2)
    · cases ha
  · intro k hk
    have h : Mlent.imageKey (ctxOf Mlent) = none := by decide +kernel
    rw [h] at hk
    cases hk

/-! ### Waiting -/

def waitOp (n1 : BitVec 2) (all : Bool) : WaitOp := ⟨20, 30, .imm 100, all, n1, 0, false, false⟩
/-- The condition of a kind and an argument. -/
def cond (kind arg : Nat) (second : Word) : WCond := ⟨BitVec.ofNat 64 (kind * 2 ^ 56 + arg), second, none, none⟩
def withConds (l : List WCond) (s : State) : State :=
  l.zipIdx.foldl (fun s p => withU (30 + 2 * p.2) p.1.first (withU (31 + 2 * p.2) p.1.second s)) s
/-- A launch whose channel 15 goes from team 0 to team 0, four slots of 64 bytes, with `fifo` in it. -/
def withChan (fifo : List ChanSlot) (s : State) : State :=
  s.modLaunch 1 fun l => { l with chans := [(15, ⟨0, 0, 0, 4, 64, fifo⟩)] }
def conds1 : List WCond := [cond 1 4 0, cond 2 7 0, cond 5 0 0xFFFF, cond 6 (0x1000 + 5) 0]
def conds2 : List WCond := [cond 3 15 0, cond 4 15 0]
def Mw1 : State := withConds conds1 Mc
def Mw2 : State := withConds conds2 (withChan [] M0)
/-- A path waits for two conditions. -/
def waitingFor (l : List WCond) (all : Bool) : Waiting := ⟨l, all, 20, some 72072000, 0, 1, 0⟩
def Mwait (l : List WCond) (all : Bool) (tick : Nat) : State :=
  { top (fun a => { a with status := .wait (waitingFor l all) }) (withChan [] Mc) with tick := tick }

theorem word_ok {s : State} {e : Env} {c : WCond} {k : Nat}
    (h : s.reach (some e.ctx.core) (dieOf e.ctx.core) e.launch.root (condArg c / 8 * 8) 8 .read = (.go (.mem [(k, 8)] false false), s) ∧
      s.segsPoisoned [(k, 8)] = false) : WordAt s e c k := ⟨false, false, h.1, h.2⟩

theorem waits_ok {s : State} {w : Waiting}
    (h : s.act? ⟨1, 0⟩ = some (theAct s) ∧ (theAct s).status = .wait w ∧ s.envAt ⟨⟨1, 0⟩, (theAct s).pc, w.len⟩ = some (envOf s) ∧
      s.running (envOf s).ctx = true) : Waits s ⟨1, 0⟩ (theAct s) w (envOf s) := h

theorem witness_WaitCompletesWithItsMask :
    (∃ o : WaitOp, ∃ s e, ∃ key : WCond → Nat, let n := o.n1.toNat + 1
      let tu : List (Nat × Bool) := match o.timeout with
        | .uni u => u.need o.rb
        | _ => []
      let reg (i : Nat) : Word := (e.act.u (o.sa.toNat + i)).val
      let conds := (List.range n).map fun i => (⟨reg (2 * i), reg (2 * i + 1), none, none⟩ : WCond)
      let regs := (List.range (2 * n)).map fun i => (o.sa.toNat + i, o.ra)
      o.ok = true ∧ conds = conds1 ∧ AtIssue s e { u := regs ++ tu, du := [o.sd.toNat] } e.act.lanes ∧ (∀ c ∈ conds, CondLegal e c) ∧
      ∀ c ∈ conds, condKind c = 6 → WordAt s e c (key c) ∧ e.memHeld s = none ∧ s.logUsed e.ref.ctx < 16 ∧
        (WordSc s e c → AllPerformed s e)) ∧
    (∃ o : WaitOp, ∃ s e, let n := o.n1.toNat + 1
      let reg (i : Nat) : Word := (e.act.u (o.sa.toNat + i)).val
      let conds := (List.range n).map fun i => (⟨reg (2 * i), reg (2 * i + 1), none, none⟩ : WCond)
      let regs := (List.range (2 * n)).map fun i => (o.sa.toNat + i, o.ra)
      o.ok = true ∧ conds = conds2 ∧ AtIssue s e { u := regs ++ [], du := [o.sd.toNat] } e.act.lanes ∧ (∀ c ∈ conds, CondLegal e c) ∧
      ∀ c ∈ conds, condKind c ≠ 6) ∧
    (∃ s r a w e, Waits s r a w e ∧ (∀ c ∈ w.conds, CondLegal e c) ∧ (∀ c ∈ w.conds, condKind c ≠ 6) ∧ w.all = false ∧
      (∃ c ∈ w.conds, CondHolds s e c) ∧ (∀ d, w.deadline = some d → s.tick < d) ∧ ∃ d, w.deadline = some d ∧ s.tick < d) ∧
    (∃ s r a w e, Waits s r a w e ∧ (∀ c ∈ w.conds, CondLegal e c) ∧ (∀ c ∈ w.conds, condKind c ≠ 6) ∧ w.all = true ∧
      (¬∀ c ∈ w.conds, CondHolds s e c) ∧ ∃ d, w.deadline = some d ∧ d ≤ s.tick) ∧
    ∃ s r a w e, ∃ key : WCond → Nat, Waits s r a w e ∧ (∀ c ∈ w.conds, CondLegal e c) ∧
      (∃ c ∈ w.conds, condKind c = 6) ∧ (∀ c ∈ w.conds, condKind c = 6 → WordAt s e c (key c)) ∧
      ∀ c ∈ w.conds, condKind c = 6 → ∃ k, c.key = some k ∧ s.poisonIn k 8 = false ∧
        overlaps (s.ownStores r.ctx e.ctx.team noTid) [(k, 8)] = false := by
  let a := Mwait conds2 false 72071999
  let b := Mwait conds2 true 72072000
  let c := Mwait [{ cond 6 0x1005 0 with key := some (dieKey 0x201000) }] true 0
  refine ⟨⟨waitOp 3 false, Mw1, envOf Mw1, fun _ => dieKey 0x201000, by decide, by decide +kernel, at_ok (by decide +kernel), ?_, ?_⟩,
    ⟨waitOp 1 true, Mw2, envOf Mw2, by decide, by decide +kernel, at_ok (by decide +kernel), ?_, by decide +kernel⟩,
    ⟨a, ⟨1, 0⟩, theAct a, waitingFor conds2 false, envOf a, waits_ok (by decide +kernel), ?_, by decide, rfl, ?_,
      fun _ h => by cases h; decide +kernel, 72072000, rfl, by decide +kernel⟩,
    ⟨b, ⟨1, 0⟩, theAct b, waitingFor conds2 true, envOf b, waits_ok (by decide +kernel), ?_, by decide, rfl, ?_, 72072000, rfl,
      by decide +kernel⟩,
    ⟨c, ⟨1, 0⟩, theAct c, waitingFor [{ cond 6 0x1005 0 with key := some (dieKey 0x201000) }] true, envOf c, fun _ => dieKey 0x201000,
      waits_ok (by decide +kernel), ?_, by decide, ?_, ?_⟩⟩
  · unfold CondLegal; decide +kernel
  · have h : ∀ c ∈ conds1, condKind c = 6 → Mw1.reach (some (envOf Mw1).ctx.core) (dieOf (envOf Mw1).ctx.core) (envOf Mw1).launch.root
        (condArg c / 8 * 8) 8 .read = (.go (.mem [(dieKey 0x201000, 8)] false false), Mw1) ∧ Mw1.segsPoisoned [(dieKey 0x201000, 8)] = false := by
      decide +kernel
    intro x hx h6
    have hx' : x ∈ conds1 := by
      have : ((List.range 4).map fun i => (⟨((envOf Mw1).act.u (30 + 2 * i)).val, ((envOf Mw1).act.u (30 + (2 * i + 1))).val, none, none⟩ :
        WCond)) = conds1 := by decide +kernel
      rw [← this]; exact hx
    refine ⟨word_ok (h x hx' h6), by decide +kernel, by decide +kernel, fun hs => ?_⟩
    unfold WordSc at hs
    rw [(h x hx' h6).1] at hs
    cases hs
  · unfold CondLegal; decide +kernel
  · unfold CondLegal; decide +kernel
  · refine ⟨cond 4 15 0, by decide, ?_⟩
    have : condKind (cond 4 15 0) = 4 := by decide
    simp only [CondHolds, this]
    exact ⟨⟨0, 0, 0, 4, 64, []⟩, by decide +kernel, by decide⟩
  · unfold CondLegal; decide +kernel
  · intro h
    have h3 := h (cond 3 15 0) (by decide)
    have : condKind (cond 3 15 0) = 3 := by decide
    simp only [CondHolds, this] at h3
    obtain ⟨ch, hc, _, y, hy, _⟩ := h3
    have : (envOf b).launch.chans.get? (condArg (cond 3 15 0)) = some ⟨0, 0, 0, 4, 64, []⟩ := by decide +kernel
    rw [this] at hc
    cases hc
    cases hy
  · unfold CondLegal; decide +kernel
  · have h : c.reach (some (envOf c).ctx.core) (dieOf (envOf c).ctx.core) (envOf c).launch.root
        (condArg (cond 6 0x1005 0) / 8 * 8) 8 .read = (.go (.mem [(dieKey 0x201000, 8)] false false), c) ∧
        c.segsPoisoned [(dieKey 0x201000, 8)] = false := by decide +kernel
    intro x hx _
    simp only [waitingFor, List.mem_singleton] at hx
    subst hx
    exact word_ok h
  · intro x hx _
    simp only [waitingFor, List.mem_singleton] at hx
    subst hx
    exact ⟨dieKey 0x201000, rfl, by decide +kernel, by decide +kernel⟩

/-! ### Channels -/

def chOp (sd : BitVec 8) (count : USrc) : ChanOp := ⟨sd, .reg 6, count, .imm 0, false, 15, 0, false, false⟩
def slotOf3 (op : Nat) (ready taken : Bool) : ChanSlot := ⟨op, ready, taken, [1, 2, 3], 0⟩
def Mch (fifo : List ChanSlot) : State := withChan fifo (withU 6 0x1000 (withU 8 64 M0))
def chan15 (fifo : List ChanSlot) : Channel := ⟨0, 0, 0, 4, 64, fifo⟩
def full4 : List ChanSlot := [slotOf3 11 true false, slotOf3 12 true false, slotOf3 13 true false, slotOf3 14 true false]
def Mparked (slot : Bool) (fifo : List ChanSlot) (s : State) : State :=
  top (fun a => { a with status := .again (if slot then .slot 15 1 else .data 15 1) }) (withChan fifo s)
/-- The channel goes between team 0 and team 9, which is done. -/
def other (first cons : Nat) (fifo : List ChanSlot) (s : State) : State :=
  { s.modLaunch 1 fun l => { l with chans := [(15, ⟨first, first, cons, 4, 64, fifo⟩)] } with
    teams := s.teams ++ [(2, { placedTeam with id := 9, cores := [4], freed := true })] }

theorem chanw_ok {s : State} {slot : Bool} {c : Channel}
    (h : s.act? ⟨1, 0⟩ = some (theAct s) ∧ (theAct s).status = .again (if slot then .slot 15 1 else .data 15 1) ∧
      s.canIssue (envOf s).ctx (theAct s) = true ∧ s.envAt ⟨⟨1, 0⟩, (theAct s).pc, 1⟩ = some (envOf s) ∧
      chanIn s (envOf s).team.launch 15 = some c) : ChanWaits s ⟨1, 0⟩ (theAct s) 15 1 slot (envOf s) c := h

theorem witness_ChannelsMoveTheirSlots :
    (∃ o : ChanOp, ∃ s e c, let off := addressOf e s o.base none (o.off.bytes 16) 0
      let n := (o.count.read e).toNat
      let key := spadKey e.ctx.core (e.team.spadBase + off)
      o.okSend = true ∧ AtIssue s e { u := o.base.need o.ra ++ o.count.need o.rb } e.act.lanes ∧
      chanIn s e.team.launch o.ch.toNat = some c ∧ c.first ≤ e.team.id ∧ e.team.id ≤ c.last ∧ 1 ≤ n ∧ n = c.size ∧ off % 16 = 0 ∧
      off + n ≤ e.team.spadBytes ∧ c.fifo.length < c.slots ∧ Released s e ∧ (∀ x ∈ linesOf key n, s.linePresent x = true) ∧
      s.requests e.ctx.core + (n + 63) / 64 ≤ 1024) ∧
    (∃ o : ChanOp, ∃ s e c x, let off := addressOf e s o.base none (o.off.bytes 16) 0
      o.okRecv = true ∧ AtIssue s e { u := o.base.need o.ra, du := [o.sd.toNat] } e.act.lanes ∧
      chanIn s e.team.launch o.ch.toNat = some c ∧ e.team.id = c.cons ∧ off % 16 = 0 ∧ off < e.team.spadBytes ∧
      c.fifo.find? (fun y => !y.taken) = some x ∧ x.ready = true ∧ off + x.bytes.length ≤ e.team.spadBytes ∧
      s.requests e.ctx.core + (x.bytes.length + 63) / 64 ≤ 1024) ∧
    (∃ s id o l ch c x, ChanOpAt s id o l ∧ chanIn s l ch = some c ∧ o.work = .chsnd ch ∧
      c.fifo.filter (fun y => !y.ready && decide (y.op = id)) = [x]) ∧
    (∃ s id o l ch c sd dst x, ChanOpAt s id o l ∧ chanIn s l ch = some c ∧ o.work = .chrcv ch sd dst ∧
      c.fifo.find? (fun y => y.op = id) = some x) ∧
    (∃ s r a ch len e c, ChanWaits s r a ch len true e c ∧ c.fifo.length < c.slots) ∧
    (∃ s r a ch len e c, ChanWaits s r a ch len true e c ∧ c.slots ≤ c.fifo.length ∧ s.teamDone e.team.launch c.cons = true ∧
      HandlerFits s e e.act.lanes ∧ a.pc < 2 ^ 56) ∧
    (∃ s r a ch len e c x, ChanWaits s r a ch len false e c ∧ c.fifo.find? (fun y => !y.taken) = some x ∧ x.ready = true) ∧
    ∃ s r a ch len e c, ChanWaits s r a ch len false e c ∧ c.fifo.find? (fun y => !y.taken) = none ∧
      s.producersDone e.team.launch c = true ∧ HandlerFits s e e.act.lanes ∧ a.pc < 2 ^ 56 := by
  let sent := withOp 11 (anOp (.chsnd 15) []) (Mch [slotOf3 11 false false])
  let rcvd := withOp 11 (anOp (.chrcv 15 20 0) []) (Mch [slotOf3 11 true true])
  let p1 := Mparked true [] M0
  let p2 := other 0 9 full4 (Mparked true [] M0)
  let p3 := Mparked false full4 M0
  let p4 := other 9 0 [] (Mparked false [] M0)
  have own : chanIn (Mch []) (envOf (Mch [])).team.launch (chOp 0 (.reg 8)).ch.toNat = some (chan15 []) ∧
      (chan15 []).first ≤ (envOf (Mch [])).team.id ∧ (envOf (Mch [])).team.id ≤ (chan15 []).last := by decide +kernel
  refine ⟨⟨chOp 0 (.reg 8), Mch [], envOf (Mch []), chan15 [], by decide, at_ok (by decide +kernel), own.1, own.2.1, own.2.2,
      by decide +kernel, by decide +kernel, by decide +kernel, by decide +kernel, by decide, rel_ok (by decide +kernel),
      by decide +kernel, by decide +kernel⟩,
    ⟨chOp 20 (.reg 0), Mch full4, envOf (Mch full4), chan15 full4, slotOf3 11 true false, by decide, at_ok (by decide +kernel),
      by decide +kernel, by decide +kernel, by decide +kernel, by decide +kernel, by decide +kernel, rfl, by decide +kernel,
      by decide +kernel⟩,
    ⟨sent, 11, anOp (.chsnd 15) [], 1, 15, chan15 [slotOf3 11 false false], slotOf3 11 false false,
      ⟨by decide +kernel, by decide +kernel, ctxOf sent, placedTeam, by decide +kernel, by decide +kernel, rfl⟩, by decide +kernel, rfl,
      by decide +kernel⟩,
    ⟨rcvd, 11, anOp (.chrcv 15 20 0) [], 1, 15, chan15 [slotOf3 11 true true], 20, 0, slotOf3 11 true true,
      ⟨by decide +kernel, by decide +kernel, ctxOf rcvd, placedTeam, by decide +kernel, by decide +kernel, rfl⟩, by decide +kernel, rfl,
      by decide +kernel⟩,
    ⟨p1, ⟨1, 0⟩, theAct p1, 15, 1, envOf p1, chan15 [], chanw_ok (by decide +kernel), by decide⟩,
    ⟨p2, ⟨1, 0⟩, theAct p2, 15, 1, envOf p2, ⟨0, 0, 9, 4, 64, full4⟩, chanw_ok (by decide +kernel), by decide, by decide +kernel,
      fits_ok (by decide +kernel), by decide +kernel⟩,
    ⟨p3, ⟨1, 0⟩, theAct p3, 15, 1, envOf p3, chan15 full4, slotOf3 11 true false, chanw_ok (by decide +kernel), by decide +kernel, rfl⟩,
    ⟨p4, ⟨1, 0⟩, theAct p4, 15, 1, envOf p4, ⟨9, 9, 0, 4, 64, []⟩, chanw_ok (by decide +kernel), by decide, by decide +kernel,
      fits_ok (by decide +kernel), by decide +kernel⟩⟩

/-! ### Completions -/

theorem witness_PostedResultsArrive :
    (∀ w ∈ [Work.atomic, .sc, .latency, .sld 3, .queue, .gnext, .route, .load], ∃ s : State, ∃ id, ∃ o : Op, s.pend.get? id = some o ∧
      o.arrived? = true ∧ s.asking id = false ∧ o.work = w ∧ o.acc = none) ∧
    (∃ s : State, ∃ id, ∃ o : Op, ∃ tid rest, s.pend.get? id = some o ∧ o.arrived? = true ∧ s.asking id = false ∧ o.work = .load ∧
      rest = o.res.filter (fun r => match r with
        | .v t _ _ => decide (t ≠ tid)
        | _ => true) ∧ rest ≠ []) ∧
    (∃ s : State, ∃ id, ∃ o : Op, ∃ sd tl, ∃ c : Ctx, s.pend.get? id = some o ∧ o.work = .tlrd sd tl ∧ s.ctxs.get? o.ctx = some c) ∧
    ∃ s : State, ∃ id, ∃ o : Op, ∃ sd rcd root, s.pend.get? id = some o ∧ o.work = .launch sd rcd root ∧
      o.arrived? = true ∧ s.asking id = false := by
  refine ⟨fun w _ => ⟨withOp 7 (anOp w []) M0, 7, anOp w [], ?_, by rfl, by rfl, rfl, rfl⟩,
    ⟨withOp 7 (anOp .load [.v 0 3 1, .v 1 3 2]) M0, 7, _, 0, [.v 1 3 2], by rfl, by decide, by rfl, rfl, by decide, by decide⟩,
    ⟨withOp 7 (anOp (.tlrd 5 2) []) M0, 7, _, 5, 2, placedCtx, by rfl, rfl, by decide +kernel⟩,
    ⟨withOp 7 (anOp (.launch 5 0x1000 0x100000) []) M0, 7, _, 5, 0x1000, 0x100000, by rfl, rfl, by rfl, by rfl⟩⟩
  exact Map.get?_set_self ..

/-- The path of the program's machine, as its operations name it. -/
def w1 : Who := (envOf M0).who
def placed1 (o : Op) : State := withOp 7 o Mc

theorem eop_ok {s : State} {id : Nat} {o : Op} {w : Who} (h : (decide (s.pend.get? id = some o) && o.arrived? &&
    !s.asking id && decide (s.opWho o = some w) && !o.tainted && decide (o.res = [])) = true) : EngineOp s id o w := by
  simpa [EngineOp, and_assoc] using h

theorem read_ok {s : State} {w : Who} {va n : Nat} {segs : List (Nat × Nat)}
    (h : (decide (s.engineReach w va n .read = (.go (.mem segs false false), s)) && !s.segsPoisoned segs) = true) :
    ReadAt s w va n segs := by
  simp only [Bool.and_eq_true, decide_eq_true_eq, Bool.not_eq_true'] at h
  exact ⟨false, h.1, h.2⟩

theorem write_ok {s : State} {w : Who} {sh : Bool} {va n : Nat} {segs : List (Nat × Nat)}
    (h : (decide (s.rangeReach w sh va n .write = (.go (.mem segs false false), s)) && !s.writePoisoned segs segs) = true) :
    WriteAt s w sh va n segs := by
  simp only [Bool.and_eq_true, decide_eq_true_eq, Bool.not_eq_true'] at h
  exact ⟨false, h.1, h.2⟩

def aGather : GatherDesc := ⟨0x1000, 64, 0x2000, 0x3000, 64, 2, 32, 0, 0, false⟩
def Mcpa : State := placed1 { anOp (.cpa 3 0 0x100 0x1000 32) [] with srcs := [(dieKey 0x201000, 32)], tl := 5 }
def Mblk (written : Bool) : State := placed1 { anOp (.bcopy 0x1000 0x2000 64 false) [] with tl := 1, finished := written }
def Mga (rows : List Nat) : State := placed1 { anOp (.gather 0x1000 (some aGather) rows) [] with tl := 1 }
def opIn (s : State) : Op := (s.pend.get? 7).getD (anOp .load [])
/-- A stream of 40 words of the program's page, in slot 1. -/
def aStream : Stream := ⟨0x4000, 4, 40, 0x2000, 4, 4, 2, 0, [], 0, 9, 0, false, 0, 0, 2, 0, false⟩
def Mstrm : State := ctx1 (fun c => { c with streams := c.streams.set 1 aStream }) Mc
def lineAcc (n : Nat) : Access :=
  { kind := .strm 1, pc := 0, len := 1, uid := 2, shared := false, strong := false, scope := .lg, ov := false, cls := 0, once := true,
    items := ((List.range 32).filter fun q => decide (32 * n + q < 40)).map fun q => ⟨noTid, 0x4000 + 128 * n + 4 * q, 4, 0, noDst⟩ }
def lineOp (n : Nat) : Op := { anOp (.stream 1 n 9) [] with acc := some (lineAcc n), fills := [lineKey 0 (0x2000 + 128 * n)] }
/-- Line n of the stream is in flight; those before it have landed. -/
def Mline (n : Nat) : State :=
  withOp 7 (lineOp n) (ctx1 (fun c => { c with streams := c.streams.set 1 { aStream with next := n + 1, landed := n } }) Mc)

def goMem : Reach → Bool
  | .go (.mem _ sc _) => !sc
  | _ => false

theorem goMem_ok {r : Reach} (h : goMem r = true) : ∃ segs h, r = .go (.mem segs false h) := by
  match r, h with
  | .go (.mem a false c), _ => exact ⟨a, c, rfl⟩

theorem witness_CopiesStreamsAndStoresComplete :
    (∃ s id o w, ∃ tag tid dst src m, ∃ c : Ctx, EngineOp s id o w ∧ o.work = .cpa tag tid dst src m ∧ s.ctxs.get? o.ctx = some c ∧
      o.peer = false ∧ s.segsPoisoned o.srcs = false ∧ PathsStand s o.ctx ∧ (c.p0 ≠ [] ∨ c.p1 ≠ [])) ∧
    (∀ written : Bool, ∃ s id o w, ∃ src dst n dsp a b, EngineOp s id o w ∧ o.work = .bcopy src dst n dsp ∧ ReadAt s w src n a ∧
      WriteAt s w dsp dst n b ∧ Apart a b ∧ o.finished = written) ∧
    (∃ s id o w, ∃ addr, ∃ d : GatherDesc, ∃ rows row ki dsegs a, EngineOp s id o w ∧ o.work = .gather addr (some d) rows ∧ row < d.n ∧
      row ∉ rows ∧ ReadAt s w ((d.idx + 4 * row) % 2 ^ 64) 4 [(ki, 4)] ∧ WriteAt s w d.dsp (d.row row) d.outBytes dsegs ∧
      (d.n ≤ 1 ∨ d.outBytes ≤ d.dstride) ∧ fieldOf s.mem ki 0 4 < 0xFFFFFFF0 ∧
      ReadAt s w ((d.src + fieldOf s.mem ki 0 4 * d.sstride) % 2 ^ 64) d.inBytes a) ∧
    (∃ s id o w, ∃ addr, ∃ d : GatherDesc, ∃ rows row ki dsegs, EngineOp s id o w ∧ o.work = .gather addr (some d) rows ∧ row < d.n ∧
      row ∉ rows ∧ ReadAt s w ((d.idx + 4 * row) % 2 ^ 64) 4 [(ki, 4)] ∧ WriteAt s w d.dsp (d.row row) d.outBytes dsegs ∧
      (d.n ≤ 1 ∨ d.outBytes ≤ d.dstride) ∧ 0xFFFFFFF0 ≤ fieldOf s.mem ki 0 4) ∧
    (∃ s id o w, ∃ addr, ∃ d : GatherDesc, ∃ rows, EngineOp s id o w ∧ o.work = .gather addr (some d) rows ∧ d.n ≤ rows.length) ∧
    (∃ s : State, ∃ ctx slot, ∃ c : Ctx, ∃ st w, s.ctxs.get? ctx = some c ∧ c.streams.get? slot = some st ∧ s.who? ctx 0 = some w ∧
      (c.p0 ≠ [] ∨ c.p1 ≠ []) ∧ s.teamRuns c.team = true ∧ s.streamGo st = true ∧ s.requests c.core + 128 / st.ebytes ≤ 1024) ∧
    (∀ last : Bool, ∃ s id o w, ∃ slot n sid a line, ∃ c : Ctx, ∃ st l, EngineOp s id o w ∧ o.work = .stream slot n sid ∧ o.acc = some a ∧
      o.fills = [line] ∧ s.ctxs.get? o.ctx = some c ∧ c.streams.get? slot = some st ∧ st.id = sid ∧
      State.elements w a.items s = (l, s) ∧ (∀ g ∈ l, ∃ segs h, g.2 = .go (.mem segs false h)) ∧
      s.segsPoisoned (l.flatMap (·.2.segs)) = false ∧ s.ringShared w line sid = false ∧ PathsStand s o.ctx ∧ (c.p0 ≠ [] ∨ c.p1 ≠ []) ∧
      (if last then (c.streams.map Prod.fst).Nodup ∧ st.lines ≤ st.landed + 1 else st.landed + 1 < st.lines)) ∧
    ∃ s : State, ∃ ctx, ∃ c : Ctx, ∃ q rest o, s.ctxs.get? ctx = some c ∧ c.queue = q :: rest ∧ s.spentStore ctx c = none ∧
      q.faulted = false ∧ q.peer = false ∧ s.olderStore ctx c q = false ∧ s.pend.get? q.op = some o ∧ o.leg = .arrived ∧ o.res = [] ∧
      (∀ x ∈ rest, x.op ≠ q.op) ∧ PathsStand s ctx ∧ (c.p0 ≠ [] ∨ c.p1 ≠ []) := by
  refine ⟨⟨Mcpa, 7, opIn Mcpa, w1, 3, 0, 0x100, 0x1000, 32, placedCtx, eop_ok (by decide +kernel), by decide +kernel, by decide +kernel,
      by decide +kernel, by decide +kernel, stand_ok (by decide +kernel), by decide⟩,
    fun b => ⟨Mblk b, 7, opIn (Mblk b), w1, 0x1000, 0x2000, 64, false, [(dieKey 0x201000, 64)], [(dieKey 0x202000, 64)],
      eop_ok (by cases b <;> decide +kernel), by cases b <;> decide +kernel, read_ok (by cases b <;> decide +kernel),
      write_ok (by cases b <;> decide +kernel), by unfold Apart; decide +kernel, by cases b <;> decide +kernel⟩,
    ⟨Mga [], 7, opIn (Mga []), w1, 0x1000, aGather, [], 1, dieKey 0x202004, [(dieKey 0x203040, 64)], [(dieKey 0x201000, 64)],
      eop_ok (by decide +kernel), by decide +kernel, by decide, by decide, read_ok (by decide +kernel), write_ok (by decide +kernel),
      by decide +kernel, by decide +kernel, read_ok (by decide +kernel)⟩,
    ⟨poke 0x2004 [0xF0, 0xFF, 0xFF, 0xFF] (Mga []), 7, opIn (Mga []), w1, 0x1000, aGather, [], 1, dieKey 0x202004, [(dieKey 0x203040, 64)],
      eop_ok (by decide +kernel), by decide +kernel, by decide, by decide, read_ok (by decide +kernel), write_ok (by decide +kernel),
      by decide +kernel, by decide +kernel⟩,
    ⟨Mga [0, 1], 7, opIn (Mga [0, 1]), w1, 0x1000, aGather, [0, 1], eop_ok (by decide +kernel), by decide +kernel, by decide⟩,
    ⟨Mstrm, 1, 1, (Mstrm.ctxs.get? 1).getD placedCtx, aStream, (Mstrm.who? 1 0).getD w1, by decide +kernel⟩,
    fun last => ?_, ?_⟩
  · cases last
    · refine ⟨Mline 0, 7, lineOp 0, w1, 1, 0, 9, lineAcc 0, lineKey 0 (0x2000 + 128 * 0), ((Mline 0).ctxs.get? 1).getD placedCtx,
        { aStream with next := 1, landed := 0 }, (State.elements w1 (lineAcc 0).items (Mline 0)).1, eop_ok (by decide +kernel), rfl, rfl,
        rfl, by decide +kernel, by decide +kernel, by decide, Prod.ext rfl (by decide +kernel), ?_, by decide +kernel,
        by decide +kernel, stand_ok (by decide +kernel), by decide +kernel, by decide +kernel⟩
      have : ∀ g ∈ (State.elements w1 (lineAcc 0).items (Mline 0)).1, goMem g.2 = true := by decide +kernel
      exact fun g hg => goMem_ok (this g hg)
    · refine ⟨Mline 1, 7, lineOp 1, w1, 1, 1, 9, lineAcc 1, lineKey 0 (0x2000 + 128 * 1), ((Mline 1).ctxs.get? 1).getD placedCtx,
        { aStream with next := 2, landed := 1 }, (State.elements w1 (lineAcc 1).items (Mline 1)).1, eop_ok (by decide +kernel), rfl, rfl,
        rfl, by decide +kernel, by decide +kernel, by decide, Prod.ext rfl (by decide +kernel), ?_, by decide +kernel,
        by decide +kernel, stand_ok (by decide +kernel), by decide +kernel, by decide +kernel⟩
      have : ∀ g ∈ (State.elements w1 (lineAcc 1).items (Mline 1)).1, goMem g.2 = true := by decide +kernel
      exact fun g hg => goMem_ok (this g hg)
  · let s := ctx1 (fun c => { c with queue := [aStore (dieKey 0x200100) 7] }) (placed1 (anOp .store []))
    refine ⟨s, 1, (s.ctxs.get? 1).getD placedCtx, aStore (dieKey 0x200100) 7, [], anOp .store [], ?_, ?_, ?_, ?_, ?_, ?_, ?_, rfl, rfl, by simp, stand_ok (by decide +kernel), by decide +kernel⟩ <;> decide +kernel

/-! ### Collectives -/

def hubB (s : State) (root va n : Nat) (bs : List Byte) : Bool :=
  match s.reachHub root va n .read with
  | .go (.mem segs false _) => !s.segsPoisoned segs && decide (bs = readOver s.mem segs)
  | _ => false

theorem hub_ok {s : State} {root va n : Nat} {bs : List Byte} (h : hubB s root va n bs = true) : HubReads s root va n bs := by
  unfold hubB at h
  split at h
  · next segs b e => exact ⟨segs, b, e, by simpa using h⟩
  · cases h

def le (x n : Nat) : List Byte := natLE x n
def collBytes : List Byte :=
  [0, 0, 0, 0] ++ le 4 4 ++ le 0x4000 8 ++ le 0x5000 8 ++ le 0x3000 8 ++ le 2 2 ++ le 0 2 ++ List.replicate 28 0
def aColl : CollDesc := ⟨0, 0, 0, false, 4, 0x4000, 0x5000, [5, 6], 0, 0⟩
def Mcoll (d : Option CollDesc) (bufs : Map (List Byte)) (st : Nat) (x : Exchange) : State :=
  poke 0x3000 [5, 0, 6, 0] (poke 0x1000 collBytes (placed1 { anOp (.coll 0x1000 d bufs st x) [] with tl := 4 }))
/-- No exchange has started; the one with rank 1 has, and its contribution is sent; all have ended. -/
def x0 : Exchange := ⟨[], none, false⟩
def x1 : Exchange := ⟨[], some 1, true⟩
def x2 : Exchange := ⟨[1], none, false⟩
def Mdone : State :=
  poke 0x3000 [5, 0, 6, 0] (placed1 { anOp (.coll 0x1000 (some aColl) [] 0 x2) [] with tl := 4, finished := true })
def hubSegs (s : State) (va n : Nat) : List (Nat × Nat) := (s.hubInto w1.root va n).segs
def goB : Reach → Bool
  | .go (.mem _ _ _) => true
  | _ => false
theorem into_ok {r : Reach} (h : goB r = true) : ∃ sc host, r = .go (.mem r.segs sc host) := by
  match r, h with
  | .go (.mem a b c), _ => exact ⟨b, c, rfl⟩

theorem witness_CollectivesRunToTheirStatus :
    (∃ s id o w addr bufs x bs d g n gs l, EngineOp s id o w ∧ o.work = .coll addr none bufs 0 x ∧ HubReads s w.root addr 64 bs ∧
      collDesc bs = some (d, g, n) ∧ HubReads s w.root g (2 * n) gs ∧ groupIds gs n = some l ∧ ∀ q ∈ s.hub.inbox, q.2.kind ≠ 5) ∧
    (∀ begun : Bool, ∃ s id o w addr, ∃ bufs : Map (List Byte), ∃ d k, ∃ x : Exchange, ∃ mine, EngineOp s id o w ∧ o.work = .coll addr (some d) bufs 0 x ∧
      k ∈ d.meets ∧ k ∉ x.done ∧ x.peer = (if begun then some k else none) ∧ x.sent = false ∧ HubReads s w.root (d.srcFor k) d.part mine) ∧
    (∀ ends : Bool, ∃ s id o w addr, ∃ bufs : Map (List Byte), ∃ d k, ∃ x : Exchange, ∃ bs, EngineOp s id o w ∧ o.work = .coll addr (some d) bufs 0 x ∧
      k ∈ d.meets ∧ k ∉ x.done ∧ (bufs.getD k []).length + bs.length ≤ d.part ∧ (d.needs k = true ∨ bs = []) ∧
      (x.peer = some k ∧ x.sent = true ∧ (d.needs k = true →
        ((if bs = [] then bufs else bufs.set k (bufs.getD k [] ++ bs)).getD k []).length = d.part) ↔ ends = true)) ∧
    (∀ late : Bool, ∃ s id o w addr bufs d, ∃ x : Exchange, EngineOp s id o w ∧ o.work = .coll addr (some d) bufs 0 x ∧ x.peer ≠ none ∧
      (late = true ↔ 720720 * 65536 < s.tick - o.sent)) ∧
    (∃ s id o w addr, ∃ bufs : Map (List Byte), ∃ d, ∃ x : Exchange, ∃ mine dsegs sc h ssegs sc' h', EngineOp s id o w ∧
      o.work = .coll addr (some d) bufs 0 x ∧ o.finished = false ∧ (∀ k ∈ d.meets, k ∈ x.done) ∧ s.hubTook id 1 = none ∧
      HubReads s w.root (d.srcFor d.rank) d.part mine ∧ s.hubInto w.root d.dst d.dstBytes = .go (.mem dsegs sc h) ∧
      (∃ r, s.hubInto w.root (addr + 40) 8 = .go r) ∧
      ((State.putSegs dsegs (d.result (if d.needs d.rank then bufs.set d.rank mine else bufs)) s).unpoison dsegs).hubInto w.root (addr + 40) 8 =
        .go (.mem ssegs sc' h')) ∧
    (∃ s id o w addr d bufs st x, EngineOp s id o w ∧ o.finished = true ∧ o.work = .coll addr d bufs st x) ∧
    (∃ s id o w addr bufs status x ssegs sc h, EngineOp s id o w ∧ o.work = .coll addr none bufs status x ∧ status ≠ 0 ∧ o.finished = false ∧
      s.hubInto w.root (addr + 40) 8 = .go (.mem ssegs sc h)) ∧
    ∃ s id o w addr y bufs status x dsegs sc h ssegs sc' h', EngineOp s id o w ∧ o.work = .coll addr (some y) bufs status x ∧ status ≠ 0 ∧
      o.finished = false ∧ s.hubInto w.root y.dst y.dstBytes = .go (.mem dsegs sc h) ∧
      ∀ junk : List Byte, junk.length = y.dstBytes →
        ((State.putSegs dsegs junk s).unpoison dsegs).hubInto w.root (addr + 40) 8 = .go (.mem ssegs sc' h') := by
  refine ⟨⟨Mcoll none [] 0 x0, 7, opIn (Mcoll none [] 0 x0), w1, 0x1000, [], x0, collBytes, { aColl with group := [] }, 0x3000, 2, [5, 0, 6, 0], [5, 6],
      eop_ok (by decide +kernel), by decide +kernel, hub_ok (by decide +kernel), by decide +kernel, hub_ok (by decide +kernel), by decide +kernel,
      by decide +kernel⟩,
    fun b => ⟨Mcoll (some aColl) [] 0 { x1 with peer := if b then some 1 else none, sent := false }, 7,
      opIn (Mcoll (some aColl) [] 0 { x1 with peer := if b then some 1 else none, sent := false }), w1, 0x1000, [], aColl, 1,
      { x1 with peer := if b then some 1 else none, sent := false }, List.replicate 16 0,
      eop_ok (by cases b <;> decide +kernel), by cases b <;> decide +kernel, by decide, by simp [x1], rfl, rfl,
      hub_ok (by cases b <;> decide +kernel)⟩,
    fun b => ⟨Mcoll (some aColl) [] 0 x1, 7, opIn (Mcoll (some aColl) [] 0 x1), w1, 0x1000, [], aColl, 1, x1,
      if b then List.replicate 16 1 else [1, 2],
      eop_ok (by decide +kernel), by decide +kernel, by decide, by decide, by cases b <;> decide +kernel, Or.inl (by decide),
      by cases b <;> decide +kernel⟩,
    fun b => ⟨{ Mcoll (some aColl) [] 0 x1 with tick := 720720 * (if b then 65537 else 65536) }, 7, opIn (Mcoll (some aColl) [] 0 x1), w1, 0x1000,
      [], aColl, x1, eop_ok (by cases b <;> decide +kernel), by decide +kernel, by decide, by cases b <;> decide +kernel⟩, ?_,
    ⟨Mdone, 7, opIn Mdone, w1, 0x1000, some aColl, [], 0, x2, eop_ok (by decide +kernel), by decide +kernel, by decide +kernel⟩, ?_, ?_⟩
  · let b : Map (List Byte) := [(1, List.replicate 16 1)]
    let s := Mcoll (some aColl) b 0 x2
    let u := (State.putSegs (hubSegs s 0x5000 16) (aColl.result (if aColl.needs aColl.rank then b.set aColl.rank (List.replicate 16 0) else b)) s).unpoison
      (hubSegs s 0x5000 16)
    obtain ⟨sc, h, h1⟩ : ∃ sc h, s.hubInto w1.root 0x5000 16 = .go (.mem (hubSegs s 0x5000 16) sc h) := into_ok (by decide +kernel)
    obtain ⟨sc', h', h2⟩ : ∃ sc h, u.hubInto w1.root (0x1000 + 40) 8 = .go (.mem (hubSegs u (0x1000 + 40) 8) sc h) := into_ok (by decide +kernel)
    obtain ⟨sc'', h'', h3⟩ : ∃ sc h, s.hubInto w1.root (0x1000 + 40) 8 = .go (.mem (hubSegs s (0x1000 + 40) 8) sc h) := into_ok (by decide +kernel)
    exact ⟨s, 7, opIn s, w1, 0x1000, b, aColl, x2, List.replicate 16 0, _, sc, h, _, sc', h', eop_ok (by decide +kernel), by decide +kernel,
      by decide +kernel, by decide, by decide +kernel, hub_ok (by decide +kernel), h1, ⟨_, h3⟩, h2⟩
  · let s := Mcoll none [] 1 x0
    obtain ⟨sc'', h'', h3⟩ : ∃ sc h, s.hubInto w1.root (0x1000 + 40) 8 = .go (.mem (hubSegs s (0x1000 + 40) 8) sc h) := into_ok (by decide +kernel)
    exact ⟨s, 7, opIn s, w1, 0x1000, [], 1, x0, _, sc'', h'', eop_ok (by decide +kernel), by decide +kernel, by decide, by decide +kernel, h3⟩
  · let s := Mcoll (some aColl) [] 1 x1
    obtain ⟨sc, h, h1⟩ : ∃ sc h, s.hubInto w1.root 0x5000 16 = .go (.mem (hubSegs s 0x5000 16) sc h) := into_ok (by decide +kernel)
    refine ⟨s, 7, opIn s, w1, 0x1000, aColl, [], 1, x1, hubSegs s 0x5000 16, sc, h, hubSegs s (0x1000 + 40) 8, false, false,
      eop_ok (by decide +kernel), by decide +kernel, by decide, by decide +kernel, h1, fun junk hj => ?_⟩
    have hl : junk.length = 16 := hj
    have hs : hubSegs s 0x5000 16 = [(dieKey 0x205000, 16)] := by decide +kernel
    have hw : walk (memWrites s.mem (dieKey 0x205000) junk) w1.root 0 = walk s.mem w1.root 0 :=
      walkFrom_memWrites _ _ _ _ (by decide +kernel) _ _ fun a ha => by
        rw [hl]
        exact (by decide +kernel : ∀ a ∈ walkReads s.mem 0 4 w1.root, a + 8 ≤ dieKey 0x205000 ∨ dieKey 0x205000 + 16 ≤ a) a ha
    have hp : pagesIn [(0x1000 + 40, 8)] = [0] := by decide +kernel
    have hz : s.poison = [] := by decide +kernel
    have hu : (State.putSegs (hubSegs s 0x5000 16) junk s).unpoison (hubSegs s 0x5000 16) = s.put (dieKey 0x205000) junk := by
      have : junk.take 16 = junk := List.take_of_length_le (by omega)
      rw [hs, State.unpoison, if_pos (by simp [State.putSegs, hz])]
      simp [State.putSegs, this]
    have hr : (s.put (dieKey 0x205000) junk).reachHub w1.root (0x1000 + 40) 8 .write = s.reachHub w1.root (0x1000 + 40) 8 .write := by
      simp only [State.reachHub, State.xlateHub, hp, List.map_cons, List.map_nil, State.put_mem, hw]
    have hi : (s.put (dieKey 0x205000) junk).hubInto w1.root (0x1000 + 40) 8 = s.hubInto w1.root (0x1000 + 40) 8 := by
      simp only [State.hubInto, hr, State.writePoisoned, State.put_poison, State.put_columnBad]; rfl
    rw [hu, hi]
    decide +kernel

/-! ### Tree descent -/

def treeBytes : List Byte :=
  le 0x4000 8 ++ le 0 8 ++ le 0x6000 8 ++ le 64 4 ++ le 0 4 ++ le 32 2 ++ [2, 0, 0] ++ List.replicate 27 0
def aTree : TreeDesc := ⟨0x4000, 0x6000, 64, 32, 2, 0, false⟩
/-- The program's machine with a tree descriptor at 0x1000 and its addresses in S6 to S9. -/
def Mtree : State := withU 9 0x3000 (withU 8 0x2800 (withU 7 0x2000 (withU 6 0x1000 (poke 0x1000 treeBytes Mc))))
def treeWalker (tid node level : Nat) : Walker := ⟨tid, 0x2000, 0x2800, level, node, 0, false, false, false, false, 30⟩
def Mwalk (dp : Bool) (l : List Walker) : State :=
  withOp 7 { anOp (.desc 0x1000 (some aTree) 1 dp l []) [] with tl := 2, num := 1, fills := if dp then [lineKey 0 0x2800] else [] } Mtree
def oneClimber : Climber := ⟨0, 0x2000, 0x2800, 0x3000, 0⟩
def lowTree : TreeDesc := { aTree with depth := 1 }
def Mclimb (z : Climbing) : State :=
  withOp 7 { anOp (.ascd 0x1000 (some lowTree) true [oneClimber] z) [] with tl := 2, num := 1, fills := [lineKey 0 0x3000] } Mtree
/-- A replay with one add left, with one input gradient left, with nothing left. -/
def zAdd : Climbing := ⟨[(0, 0, 31)], [0], []⟩
def zGrad : Climbing := ⟨[], [0], []⟩
def zEnd : Climbing := ⟨[], [], []⟩

theorem witness_DescentsFollowTheirRules :
    (∃ o : DescentOp, ∃ s e k s1 d,
      let dpU : List (Nat × Bool) := match o.dp with
        | some p => [(p.1.toNat, false)]
        | none => []
      let dpV : List (Nat × Bool) := match o.dp with
        | some p => [(p.2.toNat, false)]
        | none => []
      let n : Needs := { u := (o.a.toNat, o.ra) :: (o.sdesc.toNat, o.rc) :: dpU, v := (o.va.toNat, o.rb) :: dpV, dv := [o.d.toNat], dh := [o.hn.toNat] }
      let addr := (e.act.u o.sdesc.toNat).val.toNat
      let walker (tid : Nat) : Walker := ⟨tid, e.sharedAt s o.a o.va tid, (o.dp.map fun p => e.sharedAt s p.1 p.2 tid).getD 0,
        0, 0, 0, false, false, false, false, (e.thread s tid).base + o.d.toNat⟩
      AtIssue s e n e.act.lanes ∧ addr % 64 = 0 ∧ s.descents e.ctx.core < 8 ∧ EngineReady s e ∧ EngineAt s e addr 64 .read k s1 ∧
      treeDesc (memReads s.mem k 64) e.rcd = some d ∧
      (∀ x ∈ e.act.lanes.map walker, x.x % 16 = 0 ∧ x.x + 2 * d.dim ≤ e.team.spadBytes ∧
        (o.dp.isSome = true → x.dots % 16 = 0 ∧ x.dots + 4 * d.depth ≤ e.team.spadBytes)) ∧ o.dp.isSome = true) ∧
    (∃ o : AscentOp, ∃ s e k s1 d,
      let dxU : List (Nat × Bool) := match o.dx with
        | some p => [(p.1.toNat, false)]
        | none => []
      let dxV : List (Nat × Bool) := match o.dx with
        | some p => [(p.2.toNat, false)]
        | none => []
      let n : Needs := { u := (o.sg.toNat, false) :: (o.a.toNat, o.ra) :: (o.sdesc.toNat, o.rc) :: dxU, v := (o.va.toNat, o.rb) :: (o.vg.toNat, false) :: dxV, h := [(o.hn.toNat, false)] }
      let addr := (e.act.u o.sdesc.toNat).val.toNat
      let climber (tid : Nat) : Climber := ⟨tid, e.sharedAt s o.a o.va tid, e.sharedAt s o.sg o.vg tid,
        (o.dx.map fun p => e.sharedAt s p.1 p.2 tid).getD 0, ((e.thread s tid).path o.hn.toNat).val.toNat⟩
      AtIssue s e n e.act.lanes ∧ addr % 64 = 0 ∧ s.descents e.ctx.core < 8 ∧ EngineReady s e ∧ EngineAt s e addr 64 .read k s1 ∧
      treeDesc (memReads s.mem k 64) e.rcd = some d ∧ d.gbase ≠ 0 ∧
      (∀ x ∈ e.act.lanes.map climber, x.x % 16 = 0 ∧ x.x + 2 * d.dim ≤ e.team.spadBytes ∧ x.lg % 16 = 0 ∧
        x.lg + 4 * d.depth ≤ e.team.spadBytes ∧
        (o.dx.isSome = true → x.dx % 16 = 0 ∧ x.dx + 4 * d.dim ≤ e.team.spadBytes)) ∧ o.dx.isSome = true) ∧
    (∀ dp : Bool, ∃ s id o w r addr d hn l ns node level here bs, EngineOp s id o w ∧ s.tree? id = some (o, w, r) ∧
      o.work = .desc addr (some d) hn dp l ns ∧ s.serves id o = true ∧ s.walking o w d (slotElem (r.slot d.slot)) l = here ∧ here ≠ [] ∧
      (∀ x ∈ here, x.node = node ∧ x.level = level) ∧ (here.map (·.tid)).Nodup ∧ (dp = false ∨ here.length = 1) ∧
      NodeIs s w d (slotElem (r.slot d.slot)) ns node bs) ∧
    (∃ s : State, ∃ id, ∃ o : Op, ∃ w r addr, ∃ d : TreeDesc, ∃ hn l ns tid, ∃ x : Walker, ∃ k, EngineOp s id o w ∧ s.tree? id = some (o, w, r) ∧
      o.work = .desc addr (some d) hn true l ns ∧ l.find? (fun z => z.tid = tid && !z.complete && decide (d.depth ≤ z.level)) = some x ∧
      x.dst < 1024 ∧ k ∈ x.lines w d ∧ (∀ z ∈ l, z.tid ≠ tid → z.complete = false → k ∉ z.lines w d) ∧
      (∀ p ∈ s.pend, p.1 ≠ id → k ∉ p.2.fills) ∧ (∀ p ∈ s.ctxs, ∀ a ∈ p.2.log, k ∉ a.fills p.2.core)) ∧
    (∃ s id o w r addr d hn dp, ∃ l : List Walker, ∃ ns, EngineOp s id o w ∧ s.tree? id = some (o, w, r) ∧ o.work = .desc addr (some d) hn dp l ns ∧
      ∀ x ∈ l, x.complete = true ∧ x.lost = false) ∧
    (∃ s id o w r addr d dx l z, EngineOp s id o w ∧ s.tree? id = some (o, w, r) ∧ o.work = .ascd addr (some d) dx l z ∧ z.adds = [] ∧ z.grads = []) ∧
    (∃ s id o w r addr d dx l z, ∃ x : Climber, ∃ j tid k rest segs, EngineOp s id o w ∧ s.tree? id = some (o, w, r) ∧
      o.work = .ascd addr (some d) dx l z ∧ s.serves id o = true ∧ z.adds = (j, tid, k) :: rest ∧ (j, tid, k) ∉ rest ∧
      l.find? (fun y => decide (y.tid = tid)) = some x ∧ s.present [(ownKey w x.x, 2 * d.dim), (ownKey w x.lg, 4 * d.depth)] = true ∧
      (∃ h, s.engineReach w ((d.rowAt (pathNode x.path j) + 4 * k) % 2 ^ 64) 4 .both = (.go (.mem segs false h), s)) ∧
      s.segsPoisoned segs = false) ∧
    ∃ s id o w r addr d dx l z, ∃ x : Climber, ∃ bs : Nat → List Byte, EngineOp s id o w ∧ s.tree? id = some (o, w, r) ∧
      o.work = .ascd addr (some d) dx l z ∧ s.serves id o = true ∧ z.adds = [] ∧ l.find? (fun y => z.grads.contains y.tid) = some x ∧
      s.present [(ownKey w x.x, 2 * d.dim), (ownKey w x.lg, 4 * d.depth)] = true ∧
      ∀ j < d.depth, NodeIs s w d (slotElem (r.slot d.slot)) z.nodes (pathNode x.path j) (bs j) := by
  refine ⟨⟨⟨30, 7, 20, 6, 1, false, 0, false, false, false, some (8, 20)⟩, Mtree, envOf Mtree, dieKey 0x201000,
      (Mtree.engineReach (envOf Mtree).who 0x1000 64 .read).2, aTree, at_ok (by decide +kernel), by decide +kernel, by decide +kernel,
      ready_ok (by decide +kernel), engine_ok (host := false) (by decide +kernel), by decide +kernel, by decide +kernel, rfl⟩,
    ⟨⟨8, 7, 20, 6, 1, false, 0, false, false, false, 20, some (9, 20)⟩, Mtree, envOf Mtree, dieKey 0x201000,
      (Mtree.engineReach (envOf Mtree).who 0x1000 64 .read).2, aTree, at_ok (by decide +kernel), by decide +kernel, by decide +kernel,
      ready_ok (by decide +kernel), engine_ok (host := false) (by decide +kernel), by decide +kernel, by decide, by decide +kernel, rfl⟩,
    fun dp => ?_, ?_, ?_,
    ⟨Mclimb zEnd, 7, opIn (Mclimb zEnd), w1, placedRecord, 0x1000, lowTree, true, [oneClimber], zEnd, eop_ok (by decide +kernel),
      by decide +kernel, by decide +kernel, rfl, rfl⟩,
    ⟨Mclimb zAdd, 7, opIn (Mclimb zAdd), w1, placedRecord, 0x1000, lowTree, true, [oneClimber], zAdd, oneClimber, 0, 0, 31, [],
      [(dieKey 0x20607C, 4)], eop_ok (by decide +kernel), by decide +kernel, by decide +kernel, by decide +kernel, rfl, by simp,
      by decide, by decide +kernel, ⟨false, by decide +kernel⟩, by decide +kernel⟩,
    ⟨Mclimb zGrad, 7, opIn (Mclimb zGrad), w1, placedRecord, 0x1000, lowTree, true, [oneClimber], zGrad, oneClimber,
      fun _ => readOver (Mclimb zGrad).mem [(dieKey 0x204000, 64)], eop_ok (by decide +kernel), by decide +kernel, by decide +kernel,
      by decide +kernel, rfl, by decide, by decide +kernel, fun j hj => ?_⟩⟩
  · cases dp
    · let l := [treeWalker 0 0 0, treeWalker 1 0 0]
      exact ⟨Mwalk false l, 7, opIn (Mwalk false l), w1, placedRecord, 0x1000, aTree, 1, l, [], 0, 0, l,
        readOver (Mwalk false l).mem [(dieKey 0x204000, 64)], eop_ok (by decide +kernel), by decide +kernel, by decide +kernel,
        by decide +kernel, by decide +kernel, by decide, by decide, by decide, Or.inl rfl,
        .inr ⟨rfl, [(dieKey 0x204000, 64)], read_ok (by decide +kernel), rfl⟩⟩
    · let l := [treeWalker 0 0 0]
      exact ⟨Mwalk true l, 7, opIn (Mwalk true l), w1, placedRecord, 0x1000, aTree, 1, l, [], 0, 0, l,
        readOver (Mwalk true l).mem [(dieKey 0x204000, 64)], eop_ok (by decide +kernel), by decide +kernel, by decide +kernel,
        by decide +kernel, by decide +kernel, by decide, by decide, by decide, Or.inr rfl,
        .inr ⟨rfl, [(dieKey 0x204000, 64)], read_ok (by decide +kernel), rfl⟩⟩
  · let l := [treeWalker 0 3 2]
    exact ⟨Mwalk true l, 7, opIn (Mwalk true l), w1, placedRecord, 0x1000, aTree, 1, l, [], 0, treeWalker 0 3 2, lineKey 0 0x2800,
      eop_ok (by decide +kernel), by decide +kernel, by decide +kernel, by decide, by decide, by decide +kernel, by decide,
      by decide +kernel, by decide +kernel⟩
  · let l := [{ treeWalker 0 3 2 with complete := true }]
    exact ⟨Mwalk true l, 7, opIn (Mwalk true l), w1, placedRecord, 0x1000, aTree, 1, true, l, [], eop_ok (by decide +kernel),
      by decide +kernel, by decide +kernel, by decide⟩
  · have : j = 0 := by
      have : lowTree.depth = 1 := rfl
      omega
    subst this
    exact .inr ⟨rfl, [(dieKey 0x204000, 64)], read_ok (by decide +kernel), rfl⟩

/-! ### The steps of the matrix arrays -/

def Mmat (w : Work) (rs : List Res) : State := withOp 7 { anOp w rs with srcs := [(spadKey 0 0x1000, 4096)] } Mtile
def fullTile : Tile := ⟨32, 0, false, List.replicate 2048 0⟩
def aPass (granted : Bool) : Work := .mstr (spadKey 0 0x1000) 0 1 0 false true false granted (if granted then some fullTile else none)
def Mreq : State := withOp 7 (anOp (aPass false) []) Mtile
def Msched : State := withOp 7 (anOp (aPass false) []) { Mtile with launches := Mtile.launches.modify 1 fun l => { l with sched := [0] } }
def bidIn (s : State) : Bid := (s.bids 0).headD ⟨7, anOp (aPass false) [], w1, 0, 0, [0], []⟩
def zeroRow : List (BitVec 32) := List.replicate 64 0
def Mrow (w : Work) (rs : List Res) : State := (Mmat w rs).modCore 0 fun k => { k with acc := [(0, zeroRow), (1, zeroRow)] }

theorem witness_MatrixStepsTakeEffect :
    (∃ s id o w, ∃ key k fmt pair, EngineOp s id o w ∧ s.segsPoisoned o.srcs = false ∧ o.work = .mldw key k fmt pair ∧
      LoadTurn s id o) ∧
    (∃ s id o w, ∃ pair, EngineOp s id o w ∧ s.segsPoisoned o.srcs = false ∧ o.work = .mswp pair ∧
      s.before o.ctx id (fun x => x.isMldw || x.isMswp || x.isMstr) = false) ∧
    (∃ s id o w, ∃ key row m fmt pair clr tr, ∃ tile : Tile, EngineOp s id o w ∧ s.segsPoisoned o.srcs = false ∧ s.present o.srcs = true ∧
      o.work = .mstr key row m fmt pair clr tr true (some tile) ∧ s.before o.ctx id Work.isMstr = false ∧ (passCores w pair).Nodup ∧
      fmt ∈ [0, 3, 4, 5] ∧ tile.elem ∈ [0, 3, 4, 5] ∧
      (clr = true ∨ ∀ c ∈ passCores w pair, ∀ i < m, ((s.core c).acc.get? (row + i)).isSome = true)) ∧
    (∃ s : State, ∃ quad, (∀ b ∈ s.bids quad, b.sched = []) ∧ (s.pend.map Prod.fst).Nodup ∧ ∃ b, b ∈ s.bids quad ∧
      (∀ c ∈ b.cores, s.arrayBusy c b.o.ctx = false) ∧ ∀ x ∈ s.bids quad, x.op ≠ b.op → (∃ c ∈ x.cores, c ∈ b.cores) →
        ¬(b.prio < x.prio ∨ b.prio = x.prio ∧ (x.slack < b.slack ∨ x.slack = b.slack ∧ x.op < b.op))) ∧
    (∃ s : State, ∃ quad, ∃ x : Bid, ∃ i ctx pair, ∃ b : Bid, ∃ key row m fmt clr tr p l, (s.bids quad).find? (fun b => decide (b.sched ≠ [])) = some x ∧
      (let q := ((s.die (quad / 96)).quads.get? (quad % 96)).getD ⟨x.w.t.launch, 0⟩
       s.schedPos x.w.t.launch quad x.sched x.sched.length (if q.launch = x.w.t.launch then q.pos else 0) = some (i, ctx, pair)) ∧
      (s.bids quad).find? (fun b => decide (b.o.ctx = ctx) && decide ((b.cores.length = 2) = (pair = true)) &&
        b.cores.all fun k => !s.arrayBusy k ctx) = some b ∧ s.pend.get? b.op = some b.o ∧
      b.o.work = .mstr key row m fmt p clr tr false l) ∧
    (∃ s : State, ∃ id o w row n addr, ∃ rows : Nat → Nat → List (BitVec 32), s.pend.get? id = some o ∧ o.arrived? = true ∧ s.opWho o = some w ∧
      o.tainted = false ∧ o.work = .mdrn row n addr true [] ∧ s.asking id = false ∧ DrainTurn s id o ∧
      ∀ k < n, (w.core, row + k) ∉ o.gone ∧ (s.core w.core).acc.get? (row + k) = some (rows w.core (row + k))) ∧
    (∃ s : State, ∃ id o w row n addr pairs, ∃ rows : Nat → Nat → List (BitVec 32), ∃ key : Nat → Nat → Nat, s.pend.get? id = some o ∧ o.arrived? = true ∧
      s.opWho o = some w ∧ o.tainted = false ∧ o.work = .mdrn row n addr false pairs ∧ s.asking id = false ∧ DrainTurn s id o ∧ o.res = [] ∧ pairs ≠ [] ∧
      let parts := (List.range n).flatMap fun k => if pairs.contains (row + k)
        then w.t.cores.map fun c => (c, row + k, pairOffset addr + 256 * k) else [(w.core, row + k, addr + 256 * k)]
      ∀ p ∈ parts, (p.1, p.2.1) ∉ o.gone ∧ (s.core p.1).acc.get? p.2.1 = some (rows p.1 p.2.1) ∧ sharedKey p.1 w.t p.2.2 256 = some (key p.1 p.2.2)) ∧
    ∀ used : Bool, ∃ s : State, ∃ id o w row n, s.pend.get? id = some o ∧ o.arrived? = true ∧ s.opWho o = some w ∧ o.tainted = false ∧
      o.work = .mrel row n ∧ o.res = [] ∧ s.rowsUsed o.ctx id row n true true = used ∧
      ∀ c ∈ (if w.t.cores.head? = some w.core then w.t.cores else [w.core]), RowsOnce s c := by
  let d1 := Mrow (.mdrn 0 2 0 true []) []
  let d2 := Mrow (.mdrn 0 2 0x1000 false [1]) []
  have drains : d1.pend.get? 7 = some (opIn d1) ∧ (opIn d1).arrived? = true ∧ d1.opWho (opIn d1) = some w1 ∧ (opIn d1).tainted = false ∧
      (opIn d1).work = .mdrn 0 2 0 true [] := by decide +kernel
  have tops : d2.pend.get? 7 = some (opIn d2) ∧ (opIn d2).arrived? = true ∧ d2.opWho (opIn d2) = some w1 ∧ (opIn d2).tainted = false ∧
      (opIn d2).work = .mdrn 0 2 0x1000 false [1] := by decide +kernel
  refine ⟨⟨Mmat (.mldw (spadKey 0 0x1000) 32 0 false) [], 7, opIn (Mmat (.mldw (spadKey 0 0x1000) 32 0 false) []), w1, spadKey 0 0x1000, 32, 0, false,
      eop_ok (by decide +kernel), by decide +kernel, by decide +kernel, by unfold LoadTurn; decide +kernel⟩,
    ⟨Mmat (.mswp false) [], 7, opIn (Mmat (.mswp false) []), w1, false,
      eop_ok (by decide +kernel), by decide +kernel⟩,
    ⟨Mmat (aPass true) [], 7, opIn (Mmat (aPass true) []), w1, spadKey 0 0x1000, 0, 1, 0, false, true, false, fullTile,
      eop_ok (by decide +kernel), by decide +kernel, by decide +kernel, by decide +kernel, by decide +kernel, by decide +kernel, by decide,
      by decide, Or.inl rfl⟩,
    ⟨Mreq, 0, by decide +kernel, by decide +kernel, bidIn Mreq, by decide +kernel⟩,
    ⟨Msched, 0, bidIn Msched, 0, 1, false, bidIn Msched, spadKey 0 0x1000, 0, 1, 0, true, false, false, none, by decide +kernel⟩,
    ⟨d1, 7, opIn d1, w1, 0, 2, 0, fun _ _ => zeroRow, drains.1, drains.2.1, drains.2.2.1, drains.2.2.2.1, drains.2.2.2.2, by decide +kernel,
      by unfold DrainTurn; decide +kernel, by decide +kernel⟩,
    ⟨d2, 7, opIn d2, w1, 0, 2, 0x1000, [1], fun _ _ => zeroRow, fun c a => spadKey c a, tops.1, tops.2.1, tops.2.2.1, tops.2.2.2.1, tops.2.2.2.2,
      by decide +kernel, by unfold DrainTurn; decide +kernel, by decide +kernel, by decide, by decide +kernel⟩, fun used => ?_⟩
  cases used
  · exact ⟨Mrow (.mrel 0 2) [], 7, opIn (Mrow (.mrel 0 2) []), w1, 0, 2, by unfold RowsOnce; decide +kernel⟩
  · exact ⟨withOp 6 (anOp (.mdrn 1 2 0 true []) []) (Mrow (.mrel 0 2) []), 7, opIn (Mrow (.mrel 0 2) []), w1, 0, 2, by unfold RowsOnce; decide +kernel⟩

/-! ### Paths, faults, traps -/

def envFor (s : State) (pc len : Nat) : Env := (s.envAt ⟨⟨1, 0⟩, pc, len⟩).getD noEnv
/-- The path waits with a status, at an address. -/
def stands (st : Status) (pc : Nat) (s : State) : State := top (fun a => { a with status := st, pc := pc }) s

theorem runs_ok {s : State} {pc len : Nat} (h : (decide (s.act? ⟨1, 0⟩ = some (theAct s)) &&
    decide (s.envAt ⟨⟨1, 0⟩, pc, len⟩ = some (envFor s pc len)) && s.running (envFor s pc len).ctx) = true) :
    RunsOn s ⟨1, 0⟩ (theAct s) pc len (envFor s pc len) := by
  simpa [RunsOn, and_assoc] using h

def plainLoad : Access :=
  { kind := .ld .int32, pc := 0, len := 1, uid := 2, shared := false, strong := false, scope := .lg, ov := false, cls := 0,
    items := all16.map fun t => ⟨t, 0x1000 + 4 * t, 0, 0, 40⟩, once := false }
def Mtr : State := stands (.translating plainLoad) 0 Mc
def Mwalking : State := withOp 8 (anOp (.walk 0) []) Mtr
def page1 : PageRef := ⟨0x100000, 0x10000⟩
def Mfetch : State := stands (.fetch page1) 0x10000 M0
def Munserved : State := withOp 7 { anOp (.bcopy 0x10000 0x2000 64 false) [] with faults := [page1], leg := .request } M0
def heldTrap (code : Nat) : TrapInfo := { code := code, pc := 0x40, uni := true, tids := [], entry := none, op := none, len := 0 }
def Mheld (code : Nat) : State := ctx1 (fun c => { c with held := [⟨2, heldTrap code⟩] }) M0
def softTrap : TrapInfo := { code := 0x11, pc := 0, uni := true, tids := all16, entry := none, op := none, len := 1 }

theorem alone_ok {s : State} (h : ∀ c ∈ s.ctxs, c.1 = 1 ∧ c.2.p1 = []) {c : Nat × Ctx} (hc : c ∈ s.ctxs) {slot : Nat} {b : Act}
    (hb : (c.2.stack slot).head? = some b) : c.1 = 1 ∧ slot = 0 ∧ c.2.p0.head? = some b := by
  rcases Nat.eq_zero_or_pos slot with rfl | hs
  · exact ⟨(h c hc).1, rfl, by simpa [Ctx.stack] using hb⟩
  · simp [Ctx.stack, Nat.ne_of_gt hs, (h c hc).2] at hb

theorem witness_PathsFetchTranslateAndTrap :
    (∃ s : State, ∃ r c a l f s1, s.runningAct r = some (c, a) ∧ (a.status = .ready ∨ ∃ p, a.status = .fetch p) ∧ (∀ h ∈ c.held, h.uid ≠ a.uid) ∧
      s.launchOf c = some l ∧ s.fetchAt c.core (s.launchId c) l.root a.pc = (.words f, s1)) ∧
    (∃ s : State, ∃ r c a l p s1, s.runningAct r = some (c, a) ∧ (a.status = .ready ∨ ∃ p, a.status = .fetch p) ∧ (∀ h ∈ c.held, h.uid ≠ a.uid) ∧
      s.launchOf c = some l ∧ s.fetchAt c.core (s.launchId c) l.root a.pc = (.absent p, s1)) ∧
    (∀ full : Bool, ∃ s : State, ∃ r : PathRef, ∃ c a rs, s.ctxs.get? r.ctx = some c ∧ s.act? r = some a ∧ a.status = .source rs ∧ s.canIssue c a = full) ∧
    (∃ s : State, ∃ core q, s.cands (some core) (some q) ≠ []) ∧
    (∃ s : State, ∃ core, ∃ c ∈ s.cands (some core) none, c.aged = true) ∧
    (∃ s r a, ∃ x : Access, ∃ e, RunsOn s r a a.pc x.len e ∧ a.status = .translating x ∧ s.walking? a.uid = true) ∧
    (∃ s r a, ∃ x : Access, ∃ e ty l s1, RunsOn s r a a.pc x.len e ∧ a.status = .translating x ∧ x.kind = .ld ty ∧ x.shared = false ∧
      s.walking? a.uid = false ∧ (s.walked a.uid (dieOf e.ctx.core)).logUsed r.ctx < 16 ∧
      Reaches (s.walked a.uid (dieOf e.ctx.core)) e x l s1 ∧ l ≠ [] ∧ ∀ i ∈ x.items, i.dst < 1024) ∧
    (∃ p : PageService, ∃ s : State, ∃ r : PathRef, ∃ a q, NoLogs s ∧ s.act? r = some a ∧ a.status = .fetch q ∧ q.root = p.root ∧
      q.page = pageOf false p.va.toNat ∧ PathsStand s r.ctx) ∧
    (∃ s : State, ∃ root, ∃ va : Word, ∃ r a, ∃ q : PageRef, ∃ e, NoLogs s ∧
      let hit (q : PageRef) : Prop := q.root = root ∧ q.page = pageOf false va.toNat
      RunsOn s r a a.pc 0 e ∧ e.ctx.stack r.slot = [a] ∧ a.status = .fetch q ∧ hit q ∧ PathsStand s r.ctx ∧
      (∀ o ∈ s.pend, ∀ q ∈ o.2.faults, ¬hit q) ∧ (∀ c ∈ s.ctxs, ∀ slot b q, (c.2.stack slot).head? = some b →
        b.status = .fetch q → hit q → c.1 = r.ctx ∧ (slot = 0 ↔ r.slot = 0)) ∧ (s.ctxs.map Prod.fst).Nodup ∧ r.slot < 2 ∧
      HandlerFits s e a.lanes ∧ a.pc < 2 ^ 56) ∧
    (∃ s root, ∃ va : Word, ∃ id, ∃ o : Op, ∃ src dst n dsp c, ∃ q : PageRef, NoLogs s ∧ s.pend = [(id, o)] ∧ o.work = .bcopy src dst n dsp ∧
      q ∈ o.faults ∧ (q.root = root ∧ q.page = pageOf false va.toNat) ∧ s.ctxs.get? o.ctx = some c ∧
      ∀ c ∈ s.ctxs, ∀ slot b p, (c.2.stack slot).head? = some b → b.status ≠ .fetch p) ∧
    (∀ i ∈ [Instr.heldTrapRaise ⟨1, 0⟩, .overdueTrap ⟨1, 0⟩], ∀ code ∈ [0x0A, 0x10], (i = .overdueTrap ⟨1, 0⟩ → code = 0x0A) → ∃ s r a, ∃ h : Held, ∃ e,
      (i = .heldTrapRaise r ∧ (h.trap.code = 0x0A → a.status = .ready) ∨ i = .overdueTrap r ∧ h.trap.code = 0x0A) ∧ h.trap.code = code ∧
      RunsOn s r a (if h.trap.code = 0x0A then a.pc else h.trap.pc) 0 e ∧ (∀ x ∈ e.ctx.held, (e.ctx.byUid x.uid).isSome = true) ∧
      e.ctx.held.find? (fun x => x.uid = a.uid) = some h ∧ h.trap.uni = true ∧ a.status = .ready ∧ a.lanes ≠ [] ∧
      HandlerFits s e a.lanes ∧ e.addr < 2 ^ 56 ∧ h.trap.code < 32) ∧
    (∃ s r a, ∃ x : TrapInfo, ∃ e, RunsOn s r a x.pc x.len e ∧ a.status = .trapped x ∧ HandlerFits s e x.tids ∧ x.pc < 2 ^ 56 ∧ x.code < 32) ∧
    (∃ s : State, ∃ team tid th v, s.thread team tid = some th ∧ th.resv = some v ∧ 4096 ≤ s.cycOf th.core - v.since) ∧
    ∃ s : State, ∃ team tid th v, s.thread team tid = some th ∧ th.resv = some v ∧ s.cycOf th.core - v.since < 4096 := by
  refine ⟨⟨M0, ⟨1, 0⟩, placedCtx, theAct M0, placedLaunch, ⟨0, 0, none⟩, (M0.fetchAt 0 1 0x100000 0).2, by decide +kernel, Or.inl (by decide +kernel), by decide,
      by decide +kernel, Prod.ext (by decide +kernel) rfl⟩,
    ⟨Mfetch, ⟨1, 0⟩, ctxOf Mfetch, theAct Mfetch, placedLaunch, page1, (Mfetch.fetchAt 0 1 0x100000 0x10000).2, by decide +kernel,
      Or.inr ⟨page1, by decide +kernel⟩, by decide +kernel, by decide +kernel, Prod.ext (by decide +kernel) (by decide +kernel)⟩,
    fun full => ?_, ⟨M0, 0, 0, by decide +kernel⟩,
    ⟨M0.advance 448, 0, ⟨true, 0, 0, ⟨1, 0⟩⟩, by decide +kernel, rfl⟩,
    ⟨Mwalking, ⟨1, 0⟩, theAct Mwalking, plainLoad, envFor Mwalking 0 1, runs_ok (by decide +kernel), by decide +kernel, by decide +kernel⟩,
    ⟨Mtr, ⟨1, 0⟩, theAct Mtr, plainLoad, envFor Mtr 0 1, .int32, got (Mtr.walked 2 0) (envFor Mtr 0 1) plainLoad,
      gone (Mtr.walked 2 0) (envFor Mtr 0 1) plainLoad, runs_ok (by decide +kernel), by decide +kernel, rfl, rfl, by decide +kernel,
      by decide +kernel, reach_ok (by decide +kernel), by decide +kernel, by decide +kernel⟩,
    ⟨⟨0x100000, 0x10008, 0x106008, 0x21009D⟩, Mfetch, ⟨1, 0⟩, theAct Mfetch, page1, by unfold NoLogs; decide +kernel, by decide +kernel,
      by decide +kernel, rfl, by decide, stand_ok (by decide +kernel)⟩,
    ⟨Mfetch, 0x100000, 0x10008, ⟨1, 0⟩, theAct Mfetch, page1, envFor Mfetch 0x10000 0, by unfold NoLogs; decide +kernel, runs_ok (by decide +kernel),
      by decide +kernel, by decide +kernel, by decide, stand_ok (by decide +kernel), by decide +kernel, ?_, by decide +kernel, by decide,
      fits_ok (by decide +kernel), by decide +kernel⟩,
    ⟨Munserved, 0x100000, 0x10008, 7, opIn Munserved, 0x10000, 0x2000, 64, false, placedCtx, page1, by unfold NoLogs; decide +kernel, by decide +kernel,
      by decide +kernel, by decide +kernel, by decide, by decide +kernel, ?_⟩,
    fun i hi code hc hio => ⟨Mheld code, ⟨1, 0⟩, theAct (Mheld code), ⟨2, heldTrap code⟩, envFor (Mheld code) (if code = 0x0A then 0 else 0x40) 0, ?_⟩,
    ⟨stands (.trapped softTrap) 0 M0, ⟨1, 0⟩, theAct (stands (.trapped softTrap) 0 M0), softTrap, envFor (stands (.trapped softTrap) 0 M0) 0 1,
      runs_ok (by decide +kernel), by decide +kernel, fits_ok (by decide +kernel), by decide, by decide⟩, ?_, ?_⟩
  · cases full
    · let s := stands (.source [.u 5]) 0 (top (·.emptyU 5) M0)
      exact ⟨s, ⟨1, 0⟩, ctxOf s, theAct s, [.u 5], by decide +kernel⟩
    · let s := stands (.source [.u 5]) 0 M0
      exact ⟨s, ⟨1, 0⟩, ctxOf s, theAct s, [.u 5], by decide +kernel⟩
  · intro c hc slot b q hb _ _
    obtain ⟨h1, h2, _⟩ := alone_ok (s := Mfetch) (by decide +kernel) hc hb
    exact ⟨h1, by simp [h2]⟩
  · intro c hc slot b p hb
    obtain ⟨_, _, h3⟩ := alone_ok (s := Munserved) (by decide +kernel) hc hb
    have h : ∀ c ∈ Munserved.ctxs, c.2.p0.head?.all (fun b => decide (b.status = .ready)) = true := by decide +kernel
    have := h c hc
    simp only [h3, Option.all_some, decide_eq_true_eq] at this
    simp [this]
  · have hr : (theAct (Mheld code)).status = .ready := by fin_cases hc <;> decide +kernel
    refine ⟨?_, rfl, ?_, ?_, ?_, rfl, hr, ?_, ?_, ?_, ?_⟩
    · fin_cases hi
      · exact Or.inl ⟨rfl, fun _ => hr⟩
      · exact Or.inr ⟨rfl, hio rfl⟩
    · fin_cases hc
      · exact runs_ok (by decide +kernel)
      · exact runs_ok (by decide +kernel)
    all_goals first
      | (fin_cases hc <;> decide +kernel)
      | exact fits_ok (by fin_cases hc <;> decide +kernel)
  · exact ⟨(M0.modThread 1 3 fun th => { th with resv := some ⟨8, 0⟩ }).advance 4096, 1, 3, { Thread.start 0 with resv := some ⟨8, 0⟩ },
      ⟨8, 0⟩, by decide +kernel, rfl, by decide +kernel⟩
  · exact ⟨M0.modThread 1 3 fun th => { th with resv := some ⟨8, 0⟩ }, 1, 3, { Thread.start 0 with resv := some ⟨8, 0⟩ },
      ⟨8, 0⟩, by decide +kernel, rfl, by decide +kernel⟩

/-! ### The crossbars -/

/-- A request that entered die 0 at a port, for a port of a die; what is not for die 0 leaves through bridge 192. -/
def pk (op inp out toDie : Nat) : Packet :=
  ⟨op, false, 0, inp, toDie, out, 192, inp, if toDie = 0 then out else 192, 100, 0, 64, none, false, false, 0, 0⟩
/-- A reply to die 0, at the port that asked. -/
def replyPk (op : Nat) (f : Option Flit) : Packet := ⟨op, true, 0, 5, 4, 0, 192, 192, 5, 100, 64, 0, f, false, false, 0, 0⟩
def withPkts (l : List Packet) (s : State) : State := s.modDie 0 fun d => { d with xbar := { d.xbar with pkts := l } }
/-- A packet at the crossbar of die 0, of operation 7. -/
def Mpkt (p : Packet) : State := withPkts [p] (withOp 7 { anOp .load [] with leg := .request, away := 1 } M0)
/-- Two full buffers whose heads wait for each other. -/
def ringPkts : List Packet := ((List.range 16).map fun i => pk (100 + i) 96 97 0) ++ (List.range 16).map fun i => pk (200 + i) 97 96 0
def Mring (ps : Map Probe) : State := { withPkts ringPkts M0 with probes := ps }
def aFlit (kind : BitVec 8) (va tag : Word) (payload : List Byte) : Flit := ⟨5, 1, 100, kind, va, tag, payload⟩
/-- A probe of buffer 96 of die 0 that has visited buffers, and one that has visited 64. -/
def probeAt (path : List (Nat × Nat)) (confirmed : Bool) : Probe := ⟨0, 96, path, confirmed⟩
def longPath : List (Nat × Nat) := (List.range 63).map (fun i => (1, i)) ++ [(0, 96)]

theorem granting_ok {s : State} {die port : Nat} {p : Packet} (h : (s.die die).epoch = s.cyc die / 16 ∧
    (∀ q ∈ (s.die die).xbar.pkts, q.slack = 0 → q.counted = true) ∧ (s.die die).xbar.busy.getD port 0 ≤ s.cyc die ∧
    (s.die die).xbar.winner port = some p ∧ s.accepts die p = true) : Granting s die port p := h

theorem blocks_ok {s : State} {b : Nat × Nat} {c : Nat} (h : Packet) (h1 : (s.die b.1).xbar.head b.2 = some h ∧ s.accepts b.1 h = false ∧
    h.reply = false ∧ h.toDie = b.1 ∧ h.toPort = c) : Blocks s b (b.1, c) :=
  ⟨h, b.1, _, h1.1, h1.2.1, .inl ⟨h1.2.2.1, h1.2.2.2.1, rfl, rfl⟩, by rw [h1.2.2.2.2]⟩

theorem witness_CrossbarsGrantAndRecover :
    (∃ s : State, ∃ die, (s.die die).overdue < 2 ^ 48) ∧
    (∃ s : State, ∃ die port p d q, Granting s die port p ∧ p.flit = none ∧ Onward die p d q ∧ d = die) ∧
    (∃ s : State, ∃ die port p d q, Granting s die port p ∧ p.flit = none ∧ Onward die p d q ∧ d ≠ die) ∧
    (∃ s : State, ∃ die port p, ∃ o : Op, Granting s die port p ∧ p.flit = none ∧ p.reply = true ∧ p.fromDie = die ∧ s.pend.get? p.op = some o ∧
      o.away ≤ 1) ∧
    (∃ s : State, ∃ die port p f y, Granting s die port p ∧ p.flit = some f ∧ p.reply = false ∧ p.toDie ≠ die ∧ 4 ≤ p.toDie ∧
      s.hub.port f.va.toNat = some y) ∧
    (∃ s : State, ∃ die port p, (s.die die).xbar.head port = some p ∧ (s.die die).probeAfter ≤ s.cyc die - p.headAt ∧
      ∀ q ∈ s.probes, (die, port) ∈ q.2.path → q.2.confirmed = false ∧ 256 * die + port < 256 * q.2.die + q.2.origin) ∧
    (∃ s : State, ∃ n, ∃ p : Probe, s.probes.get? n = some p ∧ p.confirmed = false ∧
      (s.die (p.path.getLast?.getD (p.die, p.origin)).1).xbar.head (p.path.getLast?.getD (p.die, p.origin)).2 = none) ∧
    (∃ s : State, ∃ n, ∃ p : Probe, ∃ h, s.probes.get? n = some p ∧ p.confirmed = false ∧
      (s.die (p.path.getLast?.getD (p.die, p.origin)).1).xbar.head (p.path.getLast?.getD (p.die, p.origin)).2 = some h ∧
      s.accepts (p.path.getLast?.getD (p.die, p.origin)).1 h = true) ∧
    (∃ s : State, ∃ n, ∃ p : Probe, ∃ b, s.probes.get? n = some p ∧ p.confirmed = false ∧ Blocks s (p.path.getLast?.getD (p.die, p.origin)) b ∧
      s.heldByLower p b = true) ∧
    (∃ s : State, ∃ n, ∃ p : Probe, ∃ b, s.probes.get? n = some p ∧ p.confirmed = false ∧ Blocks s (p.path.getLast?.getD (p.die, p.origin)) b ∧
      b ≠ (p.die, p.origin) ∧ p.path.length = 64) ∧
    (∃ s : State, ∃ n, ∃ p : Probe, ∃ b, s.probes.get? n = some p ∧ p.confirmed = false ∧ Blocks s (p.path.getLast?.getD (p.die, p.origin)) b ∧
      s.heldByLower p b = false ∧ b = (p.die, p.origin)) ∧
    (∃ s : State, ∃ n, ∃ p : Probe, ∃ b, s.probes.get? n = some p ∧ p.confirmed = false ∧ Blocks s (p.path.getLast?.getD (p.die, p.origin)) b ∧
      s.heldByLower p b = false ∧ b ≠ (p.die, p.origin) ∧ p.path.length < 64) ∧
    (∃ s : State, ∃ n, ∃ p : Probe, s.probes.get? n = some p ∧ p.confirmed = true ∧
      ∃ b ∈ p.path, ∀ c, ¬Blocks { s with probes := s.probes.erase n } b c) ∧
    ∃ s : State, ∃ n, ∃ p : Probe, ∃ b h d q, s.probes.get? n = some p ∧ p.confirmed = true ∧
      (∀ b ∈ p.path, ∃ c, Blocks { s with probes := s.probes.erase n } b c) ∧ b ∈ p.path ∧ (s.die b.1).xbar.head b.2 = some h ∧
      Onward b.1 h d q := by
  let out := { pk 7 5 0 4 with flit := some (aFlit 0 0x1000 7 []) }
  refine ⟨⟨M0, 0, by decide +kernel⟩,
    ⟨Mpkt (pk 7 0 5 0), 0, 5, pk 7 0 5 0, 0, _, granting_ok (by decide +kernel), rfl, .inl ⟨rfl, rfl, rfl, rfl⟩, rfl⟩,
    ⟨Mpkt (pk 7 0 5 1), 0, 192, pk 7 0 5 1, 1, _, granting_ok (by decide +kernel), rfl,
      .inr (.inl ⟨rfl, by decide, by decide, rfl, rfl⟩), by decide⟩,
    ⟨Mpkt (replyPk 7 none), 0, 5, replyPk 7 none, { anOp .load [] with leg := .request, away := 1 }, granting_ok (by decide +kernel), rfl, rfl, rfl,
      by decide +kernel, by decide⟩,
    ⟨Mpkt out, 0, 192, out, aFlit 0 0x1000 7 [], 1, granting_ok (by decide +kernel), rfl, rfl, by decide, by decide, by decide +kernel⟩,
    ⟨(Mpkt (pk 7 0 5 0)).advance 8192, 0, 0, pk 7 0 5 0, by decide +kernel⟩,
    ⟨{ M0 with probes := [(9, probeAt [(0, 96)] false)] }, 9, probeAt [(0, 96)] false, by rfl, rfl, by decide +kernel⟩,
    ⟨{ Mpkt (pk 7 96 5 0) with probes := [(9, probeAt [(0, 96)] false)] }, 9, probeAt [(0, 96)] false, pk 7 96 5 0, by rfl, rfl,
      by decide +kernel, by decide +kernel⟩,
    ⟨Mring [(8, ⟨0, 3, [(0, 97)], false⟩), (9, probeAt [(0, 96)] false)], 9, probeAt [(0, 96)] false, (0, 97), by rfl, rfl,
      blocks_ok (pk 100 96 97 0) (by decide +kernel), by decide +kernel⟩,
    ⟨Mring [(9, probeAt longPath false)], 9, probeAt longPath false, (0, 97), by rfl, rfl, blocks_ok (pk 100 96 97 0) (by decide +kernel),
      by decide, by decide⟩,
    ⟨Mring [(9, probeAt [(0, 96), (0, 97)] false)], 9, probeAt [(0, 96), (0, 97)] false, (0, 96), by rfl, rfl,
      blocks_ok (pk 200 97 96 0) (by decide +kernel), by decide +kernel, rfl⟩,
    ⟨Mring [(9, probeAt [(0, 96)] false)], 9, probeAt [(0, 96)] false, (0, 97), by rfl, rfl, blocks_ok (pk 100 96 97 0) (by decide +kernel),
      by decide +kernel, by decide, by decide⟩,
    ⟨{ M0 with probes := [(9, probeAt [(0, 96)] true)] }, 9, probeAt [(0, 96)] true, by rfl, rfl, (0, 96), by decide, ?_⟩,
    ⟨Mring [(9, probeAt [(0, 96), (0, 97)] true)], 9, probeAt [(0, 96), (0, 97)] true, (0, 96), pk 100 96 97 0, 0, _, by rfl, rfl, ?_, by decide,
      by decide +kernel, .inl ⟨rfl, rfl, rfl, rfl⟩⟩⟩
  · rintro c ⟨h, _, _, h1, _⟩
    have : ({ M0 with probes := [] }.die 0).xbar.head 96 = none := by decide +kernel
    rw [show ({ M0 with probes := Map.erase [(9, probeAt [(0, 96)] true)] 9 } : State) = { M0 with probes := [] } from rfl] at h1
    rw [this] at h1
    cases h1
  · intro b hb
    have : b = (0, 96) ∨ b = (0, 97) := by simpa [probeAt] using hb
    rcases this with rfl | rfl
    · exact ⟨_, blocks_ok (c := 97) (pk 100 96 97 0) (by decide +kernel)⟩
    · exact ⟨_, blocks_ok (c := 96) (pk 200 97 96 0) (by decide +kernel)⟩

/-! ### Peers -/

def peerAcc : Access := { plainLoad with items := [⟨3, 0x1000, 0, 0, 40⟩] }
def peerOp (w : Work) : Op := { anOp w [.v 3 40 0] with peer := true, leg := .request, acc := some peerAcc, away := 1 }
/-- The request that operation 7 has sent. -/
def anAsk : Ask := ⟨7, 0, 7, 0, 0x1000, 4, some 0, [], false, none⟩
def Mpeer (a : Ask) : State := (withOp 7 (peerOp .load) Mc).modHub fun h => { h with asks := [a] }
def Mserve (f : Flit) : State := M0.modHub fun h => { h with inbox := [(0, f)], peerRoot := 0x100000 }
def answered : Ask := { anAsk with part := [1, 2, 3, 4], back := true }
def MpeerBack : State := withPkts [replyPk 7 (some (aFlit 3 0x1000 7 [1, 2, 3, 4]))] (Mpeer answered)

theorem flit_ok {f : Flit} (h : (1 ≤ f.src.toNat ∧ f.src.toNat ≤ 0x3FE) ∧ (1 ≤ f.dst.toNat ∧ f.dst.toNat ≤ 0x3FE) ∧ f.slack.toNat < 4096 ∧
    f.kind.toNat ≤ 5 ∧ f.payload.length ≤ 224 ∧ f.va.toNat < 2 ^ 56) : FlitWf f := h

theorem witness_PeersAreServedAndAnswer :
    (∃ f : Flit, FlitWf f ∧ f.kind.toNat ≤ 2) ∧
    (∃ f : Flit, ∃ s : State, ∃ a, ∃ o : Op, FlitWf f ∧ f.kind.toNat = 3 ∧
      s.hub.asks.find? (fun a => decide (a.tag = f.tag.toNat) && a.sent.isSome && !a.back) = some a ∧ a.owner ≠ 0 ∧
      s.pend.get? a.owner = some o ∧ o.work.ofHub = false ∧ a.n ≤ (a.part ++ f.payload).length) ∧
    (∃ s : State, ∃ die port p f, ∃ a : Ask, ∃ o : Op, ∃ w, ∃ acc : Access, ∃ ty i, Granting s die port p ∧ p.flit = some f ∧ p.reply = true ∧ p.fromDie = die ∧
      die < 4 ∧ s.hub.asks.find? (fun x => decide (x.tag = f.tag.toNat)) = some a ∧ s.hub.asks.filter (fun x => x.owner = a.owner) = [a] ∧
      s.pend.get? a.owner = some o ∧ o.peer = true ∧ o.leg = .request ∧ s.opWho o = some w ∧ o.work = .load ∧ o.acc = some acc ∧
      acc.kind = .ld ty ∧ acc.items = [i] ∧ i.dst < 1024 ∧ o.res ≠ []) ∧
    (∀ k < 3, ∃ n, ∃ s : State, ∃ id, ∃ o : Op, ∃ w, ∃ acc : Access, ∃ code : Nat, s.pend.get? id = some o ∧ o.peer = true ∧ s.opWho o = some w ∧ o.acc = some acc ∧
      o.work = .load ∧
      (k = 0 ∧ (∃ f a, n = Instr.flitReceived f ∧ FlitWf f ∧ f.kind.toNat = 4 ∧ code = 0x06 ∧
          s.hub.asks.find? (fun a => decide (a.tag = f.tag.toNat) && a.pending) = some a ∧ a.owner = id) ∨
        k = 1 ∧ (n = .negativeResponse id ∧ code = 0x06 ∧ ∃ a ∈ s.hub.asks, a.owner = id ∧ a.pending = true) ∨
        k = 2 ∧ (n = .remoteTimeout id ∧ code = 0x07 ∧ ∃ a ∈ s.hub.asks, a.owner = id ∧ a.back = false ∧
          ∃ x, a.sent = some x ∧ 720720 * 65536 ≤ s.tick - x))) ∧
    (∃ s : State, ∃ q segs sc h k m, s.nextRequest = some q ∧ q.2.kind.toNat = 0 ∧
      s.reachHub s.hub.peerRoot q.2.va.toNat (leNat (q.2.payload.take 2)) .read = .go (.mem segs sc h) ∧ s.segsPoisoned segs = false ∧
      segs.head? = some (k, m) ∧ dieOfKey k < 4) ∧
    (∃ s : State, ∃ q segs sc h, s.nextRequest = some q ∧ q.2.kind.toNat = 1 ∧
      s.reachHub s.hub.peerRoot q.2.va.toNat q.2.payload.length .write = .go (.mem segs sc h) ∧ s.segsPoisoned segs = false) ∧
    (∃ s : State, ∃ q n need y, s.nextRequest = some q ∧ flitNeed q.2 = some (n, need) ∧
      s.reachHub s.hub.peerRoot q.2.va.toNat n need = .prot ∧ s.hub.port q.2.va.toNat = some y) ∧
    ∃ port : Nat, port < 18 := by
  refine ⟨⟨aFlit 2 0x1000 7 [], flit_ok (by decide), by decide⟩,
    ⟨aFlit 3 0x1000 7 [1, 2, 3, 4], Mpeer anAsk, anAsk, peerOp .load, flit_ok (by decide), by decide, by decide +kernel, by decide, by decide +kernel,
      rfl, by decide⟩,
    ⟨MpeerBack, 0, 5, replyPk 7 (some (aFlit 3 0x1000 7 [1, 2, 3, 4])), aFlit 3 0x1000 7 [1, 2, 3, 4], answered, peerOp .load, w1, peerAcc, .int32,
      ⟨3, 0x1000, 0, 0, 40⟩, granting_ok (by decide +kernel), rfl, rfl, rfl, by decide, by decide +kernel, by decide +kernel, by decide +kernel, rfl, rfl,
      by decide +kernel, rfl, rfl, rfl, rfl, by decide, by decide⟩, fun k hk => ?_, ?_, ?_,
    ⟨Mserve (aFlit 1 0x100000000000000 7 [1]), (0, aFlit 1 0x100000000000000 7 [1]), 1, .write, 4, by decide +kernel⟩, 3, by decide⟩
  · match k, hk with
    | 0, _ => exact ⟨_, Mpeer anAsk, 7, peerOp .load, w1, peerAcc, 0x06, by decide +kernel, rfl, by decide +kernel, rfl, rfl,
        Or.inl ⟨rfl, aFlit 4 0x1000 7 [], anAsk, rfl, flit_ok (by decide), by decide, rfl, by decide +kernel, rfl⟩⟩
    | 1, _ => exact ⟨_, Mpeer anAsk, 7, peerOp .load, w1, peerAcc, 0x06, by decide +kernel, rfl, by decide +kernel, rfl, rfl,
        Or.inr (Or.inl ⟨rfl, rfl, rfl, anAsk, by decide +kernel, rfl, by decide⟩)⟩
    | 2, _ => exact ⟨_, { Mpeer anAsk with tick := 720720 * 65536 }, 7, peerOp .load, w1, peerAcc, 0x07, by decide +kernel, rfl,
        by decide +kernel, rfl, rfl, Or.inr (Or.inr ⟨rfl, rfl, rfl, anAsk, by decide +kernel, rfl, rfl, 0, rfl, by decide +kernel⟩)⟩
  · let s := Mserve (aFlit 0 0x1000 7 [8, 0])
    obtain ⟨sc, h, h1⟩ := into_ok (r := s.reachHub s.hub.peerRoot 0x1000 8 .read) (by decide +kernel)
    exact ⟨s, (0, aFlit 0 0x1000 7 [8, 0]), _, sc, h, dieKey 0x201000, 8, by decide +kernel, rfl, h1, by decide +kernel⟩
  · let s := Mserve (aFlit 1 0x1000 7 [8, 9])
    obtain ⟨sc, h, h1⟩ := into_ok (r := s.reachHub s.hub.peerRoot 0x1000 2 .write) (by decide +kernel)
    exact ⟨s, (0, aFlit 1 0x1000 7 [8, 9]), _, sc, h, by decide +kernel, rfl, h1, by decide +kernel⟩

/-! ### Launches -/

/-- A record of one team of 16 threads, its bytes 30 and 31 the spare tids. -/
def recBytes (vregs spare : Nat) : List Byte :=
  le 0 8 ++ le 1 4 ++ le 16 4 ++ le 0 8 ++ [16, 1, 0, 0] ++ le vregs 2 ++ le spare 2 ++ le 64 2 ++ List.replicate 134 0 ++ le 0x800 8 ++
    List.replicate 80 0
def withLaunch (f : Launch → Launch) (s : State) : State := s.modLaunch 1 f
def launchIn (s : State) : Launch := (s.launches.get? 1).getD placedLaunch
def Mrec (vregs spare at' : Nat) : State :=
  withLaunch (fun l => { l with phase := .accepted, record := none, at' := at' }) (poke 0x8000 (recBytes vregs spare) M0)
def depRec : Record := { placedRecord with deps := [(0x1000, 0), (0, 0)] }
def Mdep : State := withLaunch (fun l => { l with phase := .checked, record := some depRec, got := 0, rtab := none }) M0
def tabRec : Record :=
  { placedRecord with caddr := 0x7000, chanp := 0x7100, nchan := 1, rtab := 0x7200, tree := 0x1000, sched := 0x7300, slen := 1 }
def chanBytes : List Byte := le 0 4 ++ le 0 4 ++ le 0 4 ++ le 4 2 ++ le 64 2
def headBytes : List Byte := le 0x52540001 4 ++ le 1 4 ++ le 0 8
def Mtab : State :=
  withLaunch (fun l => { l with phase := .checked, record := some tabRec, got := 0, rtab := none })
    (poke 0x7000 (le 1 4) (poke 0x7100 chanBytes (poke 0x7200 headBytes (poke 0x1000 treeBytes M0))))
def Mover (cinc : Nat) : State := withLaunch (fun l => { l with finished := 1, record := some { placedRecord with cinc := cinc, cval := 1 } }) M0
def Mkilled (o : List (Nat × Op)) : State := { withLaunch (fun l => { l with killed := some 1 }) M0 with pend := o }

theorem writes_ok {s : State} {root va n : Nat} {need : Need} (h : (decide (va % n = 0) && (match s.reachHub root va n need with
    | .go (.mem segs false _) => !s.writePoisoned segs segs
    | _ => false)) = true) : HubWrites s root va n need (s.reachHub root va n need).segs := by
  simp only [Bool.and_eq_true, decide_eq_true_eq] at h
  obtain ⟨h1, h2⟩ := h
  split at h2
  · next segs x e => exact ⟨h1, ⟨x, by rw [e]; rfl⟩, by rw [e]; simp only [Bool.not_eq_true'] at h2; exact h2⟩
  · cases h2

theorem witness_LaunchesRunFromRecordToStatus :
    (∀ aligned : Bool, ∃ s : State, ∃ queue : Nat, ∃ record : Word, ∃ root : Nat, s.hub.queues[queue]? = some root ∧
      (if aligned then record.toNat % 256 = 0 else record.toNat % 256 ≠ 0)) ∧
    (∀ n < 3, ∃ s : State, ∃ l, ∃ x : Launch, ∃ bs, s.launches.get? l = some x ∧ x.phase = .accepted ∧ HubReads s x.root x.at' 256 bs ∧
      (n = 0 → recordOk bs (parseRecord bs) = true ∧ (parseRecord bs).fits s.hub.windowMiB = true) ∧
      (n = 1 → recordOk bs (parseRecord bs) = false) ∧
      (n = 2 → recordOk bs (parseRecord bs) = true ∧ (parseRecord bs).fits s.hub.windowMiB = false)) ∧
    (∃ s : State, ∃ l x, s.launches.get? l = some x ∧ x.phase = .accepted ∧ x.record = none ∧ s.unitRead l x.root x.at' 256 = (.fail, s)) ∧
    (∃ s : State, ∃ l x ps u, s.launches.get? l = some x ∧ x.phase = .accepted ∧ s.unitRead l x.root x.at' 256 = (.wait ps, u)) ∧
    (∃ s : State, ∃ l x, ∃ r : Record, ∃ b : Nat → List Byte, s.launches.get? l = some x ∧ x.phase = .checked ∧ x.record = some r ∧
      (∀ d ∈ r.deps, d.1 ≠ 0 → HubReads s x.root d.1 8 (b d.1)) ∧ ∃ d ∈ r.deps, d.1 ≠ 0) ∧
    (∀ tables : Bool, ∃ s : State, ∃ l x, ∃ r : Record, ∃ cb chb hb rb tb sb ch, s.launches.get? l = some x ∧ x.phase = .checked ∧ x.record = some r ∧ x.got = 0 ∧
      x.rtab = none ∧ x.chans = [] ∧ x.sched = [] ∧ (∀ i < r.deps.length, i ∈ x.met) ∧ TableAt s x.root r.caddr 4 cb True ∧
      let count := if r.caddr = 0 then r.tcount else leNat cb
      let word (bs : List Byte) (n i : Nat) : Nat := leNat ((bs.drop (n * i)).take n)
      count ≠ 0 ∧ (r.nchan = 0 ∧ ch = [] ∨ r.nchan ≠ 0 ∧ HubReads s x.root r.chanp (16 * r.nchan) chb ∧ chanTable chb count r.nchan = some ch) ∧
      TableAt s x.root r.rtab 16 hb (routeHeadOk hb = true ∧ HubReads s x.root (r.rtab + 16) (4 * word hb 4 1) rb ∧
        ∀ i < word hb 4 1, routeEntryOk (BitVec.ofNat 32 (word rb 4 i)) = true) ∧
      TableAt s x.root r.tree 64 tb (∃ d, treeDesc tb r = some d) ∧
      TableAt s x.root r.sched (2 * r.slen) sb (∀ i < r.slen, word sb 2 i % 128 = 0) ∧
      (tables = true → r.nchan ≠ 0 ∧ r.rtab ≠ 0 ∧ r.tree ≠ 0 ∧ r.sched ≠ 0)) ∧
    (∃ s : State, ∃ l x, ∃ r : Record, ∃ segs segs', s.launches.get? l = some x ∧ x.record = some r ∧ LaunchOver x ∧
      HubWrites s x.root (x.at' + 154) 1 .write segs ∧ r.cinc ≠ 0 ∧
      HubWrites (State.putSegs segs (natLE x.status 1) s) x.root r.cinc 8 .both segs') ∧
    (∃ s : State, ∃ l x, ∃ r : Record, ∃ segs, s.launches.get? l = some x ∧ x.record = some r ∧ LaunchOver x ∧
      HubWrites s x.root (x.at' + 154) 1 .write segs ∧ r.cinc = 0) ∧
    (∃ s : State, ∃ l x, s.launches.get? l = some x ∧ x.phase = .running ∧ x.killed ≠ none ∧ ∃ o ∈ s.pend,
      (∃ c, (o.2.ctx, c) ∈ s.ctxs ∧ ∃ tm, (c.team, tm) ∈ s.teams ∧ tm.launch = l) ∧ o.2.mustFinish = true) ∧
    ∃ s : State, ∃ l x, s.launches.get? l = some x ∧ x.phase = .running ∧ x.killed ≠ none ∧
      (∀ o ∈ s.pend, (∃ c, (o.2.ctx, c) ∈ s.ctxs ∧ ∃ tm, (c.team, tm) ∈ s.teams ∧ tm.launch = l) → o.2.mustFinish = false) ∧
      ∀ c ∈ s.ctxs, (∃ d, (c.1, d) ∈ s.ctxs ∧ ∃ tm, (d.team, tm) ∈ s.teams ∧ tm.launch = l) → ∀ q ∈ c.2.queue, q.faulted = true := by
  refine ⟨fun aligned => ?_, fun n hn => ?_,
    ⟨Mrec 224 16 (2 ^ 56), 1, launchIn (Mrec 224 16 (2 ^ 56)), by decide +kernel⟩,
    ⟨Mrec 224 16 0x10000, 1, launchIn (Mrec 224 16 0x10000), [page1], Mrec 224 16 0x10000, by decide +kernel⟩,
    ⟨Mdep, 1, launchIn Mdep, depRec, fun _ => List.replicate 8 0, by decide +kernel, by decide +kernel, by decide +kernel, ?_, by decide⟩,
    fun tables => ?_,
    ⟨Mover 0x9000, 1, launchIn (Mover 0x9000), _, _, _, by decide +kernel, by rfl, by unfold LaunchOver; decide +kernel,
      writes_ok (by decide +kernel), by decide, writes_ok (by decide +kernel)⟩,
    ⟨Mover 0, 1, launchIn (Mover 0), _, _, by decide +kernel, by rfl, by unfold LaunchOver; decide +kernel,
      writes_ok (by decide +kernel), rfl⟩,
    ⟨Mkilled [(7, anOp .atomic [])], 1, launchIn (Mkilled []), by decide +kernel, by decide +kernel, by decide +kernel, (7, anOp .atomic []), by decide +kernel,
      ⟨placedCtx, by decide +kernel, placedTeam, by decide +kernel, rfl⟩, by decide +kernel⟩,
    ⟨Mkilled [], 1, launchIn (Mkilled []), by decide +kernel, by decide +kernel, by decide +kernel, fun o ho _ => (?_ : _), fun c hc _ => ?_⟩⟩
  · cases aligned
    · exact ⟨M0.modHub fun h => { h with queues := [0x100000] }, 0, 0x8001, 0x100000, by decide +kernel, by decide⟩
    · exact ⟨M0.modHub fun h => { h with queues := [0x100000] }, 0, 0x8000, 0x100000, by decide +kernel, by decide⟩
  · match n, hn with
    | 0, _ => exact ⟨Mrec 224 16 0x8000, 1, launchIn (Mrec 224 16 0x8000), recBytes 224 16, by decide +kernel, by decide +kernel, hub_ok (by decide +kernel),
        by decide +kernel, by decide, by decide⟩
    | 1, _ => exact ⟨Mrec 225 16 0x8000, 1, launchIn (Mrec 225 16 0x8000), recBytes 225 16, by decide +kernel, by decide +kernel, hub_ok (by decide +kernel),
        by decide, by decide +kernel, by decide⟩
    | 2, _ => exact ⟨Mrec 224 2047 0x8000, 1, launchIn (Mrec 224 2047 0x8000), recBytes 224 2047, by decide +kernel, by decide +kernel, hub_ok (by decide +kernel),
        by decide, by decide, by decide +kernel⟩
  · intro d hd h0
    have : d = (0x1000, 0) := by
      simp only [depRec, List.mem_cons, List.not_mem_nil, or_false] at hd
      rcases hd with rfl | rfl
      · rfl
      · exact absurd rfl h0
    subst this
    exact hub_ok (by decide +kernel)
  · cases tables
    · let s := withLaunch (fun l => { l with phase := .checked, got := 0 }) M0
      refine ⟨s, 1, launchIn s, placedRecord, [], [], [], [], [], [], [], ?_, ?_, ?_, ?_, ?_, ?_, ?_, by decide, Or.inl rfl, by decide, Or.inl ⟨rfl, rfl⟩, Or.inl rfl, Or.inl rfl, Or.inl rfl,
        by decide⟩ <;> decide +kernel
    · refine ⟨Mtab, 1, launchIn Mtab, tabRec, le 1 4, chanBytes, headBytes, le 0 4, treeBytes, le 0 2, [(0, ⟨0, 0, 0, 4, 64, []⟩)],
        ?_, ?_, ?_, ?_, ?_, ?_, ?_, by decide,
        Or.inr ⟨hub_ok (by decide +kernel), trivial⟩, by decide +kernel,
        Or.inr ⟨by decide, hub_ok (by decide +kernel), by decide +kernel⟩,
        Or.inr ⟨hub_ok (by decide +kernel), by decide +kernel, hub_ok (by decide +kernel), by decide +kernel⟩,
        Or.inr ⟨hub_ok (by decide +kernel), aTree, by decide +kernel⟩, Or.inr ⟨hub_ok (by decide +kernel), by decide +kernel⟩, by decide⟩ <;> decide +kernel
  · have h : (Mkilled []).pend = [] := by decide +kernel
    rw [h] at ho
    cases ho
  · have h : ∀ c ∈ (Mkilled []).ctxs, c.2.queue = [] := by decide +kernel
    rw [h c hc]
    simp

/-! ### Bands -/

def withTeam (k : Nat) (f : Team → Team) (s : State) : State := s.modTeam k f
def teamIn (s : State) (k : Nat) : Team := (s.teams.get? k).getD placedTeam
/-- Launch 1 has a band to place. -/
def Mband (prio : Nat) (s : State) : State := withLaunch (fun l => { l with next := 0, record := some { placedRecord with prio := prio } }) s
/-- A team of a launch of priority 0 fills the registers of every core of die 0, the only die that is on; the band of launch 1 has
waited for 100 µs. -/
def Mvictim : State :=
  let s := Mband 1 M0
  { s with
    now := 160000, tick := 720720 * 10000, dies := [(1, { Die.reset with off := true }), (2, { Die.reset with off := true }), (3, { Die.reset with off := true })],
    launches := s.launches.set 2 { placedLaunch with record := some { placedRecord with vregs := 70000 } },
    teams := [(2, { placedTeam with launch := 2, cores := List.range 384, size := 0, span := 1, spadBytes := 0 })], ctxs := [], threads := [] }
def Mstop (o : List (Nat × Op)) (now : Nat) : State := State.advance { withTeam 1 (fun t => { t with stopAt := some 0 }) M0 with pend := o } now
def lateLoad : Op := { anOp .load [.v 3 40 0] with acc := some peerAcc, leg := .request }
def Msaved : State := ctx1 (fun c => { c with phase := .saved }) (withTeam 1 (fun t => { t with saved := true }) M0)
def Mmig : State := { M0 with launches := M0.launches.set 2 { placedLaunch with next := 0 } }
def bandIn (s : State) : List (Nat × Team) := s.bandOf 1
def restorePlace : List (List Slice) := (State.bandOnDie (Msaved.without (bandKeys Msaved 1)) 0 (bandAsks Msaved (bandIn Msaved) placedRecord)).getD []
def migratePlace : List (List Slice) :=
  (State.fitBand (Mmig.without (bandKeys Mmig 1)) 6 (bandAsks Mmig (bandIn Mmig) placedRecord) [] 5 []).getD []

theorem band_ok {s : State} (h : (decide ((bandIn s).map Prod.fst).Nodup && (bandIn s).all fun q => decide (s.teams.get? q.1 = some q.2)) = true) :
    BandIs s 1 (bandIn s) := by
  simp only [Bool.and_eq_true, decide_eq_true_eq, List.all_eq_true] at h
  exact ⟨rfl, h.1, h.2⟩

theorem next_ok {s : State} {l : Nat} {x : Launch} {r : Record} (h : s.launches.get? l = some x ∧ x.record = some r ∧ x.phase = .running ∧
    x.killed = none ∧ x.next < x.count ∧ x.waiting = false) : BandNext s l x r :=
  ⟨h.1, h.2.1, h.2.2.1, h.2.2.2.1, h.2.2.2.2.1, .inl h.2.2.2.2.2⟩

theorem witness_BandsArePlacedStoppedAndRestored :
    (∃ s : State, ∃ l x, ∃ r : Record, BandNext s l x r ∧ s.bandPlace ((x.band r).map fun _ => r.room) (s.mayPlace x r.prio) = none) ∧
    (∃ s : State, ∃ l x, ∃ r : Record, ∃ p, BandNext s l x r ∧ s.bandPlace ((x.band r).map fun _ => r.room) (s.mayPlace x r.prio) = some p ∧ (∀ c ∈ s.ctxs, c.1 < s.nextId) ∧
      0 < r.w ∧ 0 < r.tsize ∧ min r.band (x.count - x.next) ≠ 0) ∧
    (∃ s : State, ∃ k tm, s.teams.get? k = some tm ∧ tm.freed = false ∧
      ¬((∀ q ∈ s.threads, q.1 / 2048 = k → q.2.done = true) ∧ ∀ c ∈ s.ctxs, c.2.team ≠ k)) ∧
    (∃ s : State, ∃ k tm y, s.teams.get? k = some tm ∧ tm.freed = false ∧ (∀ q ∈ s.threads, q.1 / 2048 = k → q.2.done = true) ∧
      (∀ c ∈ s.ctxs, c.2.team ≠ k) ∧ s.launches.get? tm.launch = some y) ∧
    (∃ s : State, ∃ l x, ∃ r : Record, ∃ d vs, BandNext s l x r ∧ (∀ q ∈ s.teams, q.2.stopAt = none) ∧
      let band := (x.band r).map fun _ => r.room
      let asks (d : Nat) : Prop := (s.die d).off = false ∧ (s.die d).held = false ∧ ticksLong (s.die d).preemptAfter ≤ s.tick - x.since
      s.bandPlace band (s.mayPlace x r.prio) = none ∧ d < 4 ∧ asks d ∧ s.victimsFor d r.prio band = some vs ∧ ∀ c < d, asks c → s.victimsFor c r.prio band = none) ∧
    (∃ s : State, ∃ k tm x, (s.teams.map Prod.fst).Nodup ∧ s.teams.get? k = some tm ∧ tm.freed = false ∧ s.teamRuns k = true ∧
      s.launches.get? tm.launch = some x ∧ ∃ y ∈ s.launches, s.nextVictim k tm y.2 = true) ∧
    (∃ s : State, ∃ k tm t0, s.teams.get? k = some tm ∧ tm.stopAt = some t0 ∧ (s.quiet (bandKeys s k)).1 = false) ∧
    (∃ s : State, ∃ k tm t0, s.teams.get? k = some tm ∧ tm.stopAt = some t0 ∧ (s.quiet (bandKeys s k)).2 = true ∧ s.cyc tm.die - t0 < 4096) ∧
    (∃ s : State, ∃ k tm t0 id, ∃ o : Op, ∃ c a, s.teams.get? k = some tm ∧ tm.stopAt = some t0 ∧ (s.quiet (bandKeys s k)).1 = true ∧
      4096 ≤ s.cyc tm.die - t0 ∧
      (∀ o ∈ s.pend, ∀ d c, o.2.work = .sld d → s.ctxs.get? o.2.ctx = some c → c.team ∈ bandKeys s k → o.2.peer = true) ∧ s.pend.get? id = some o ∧ s.ctxs.get? o.ctx = some c ∧ c.team ∈ bandKeys s k ∧ o.work = .load ∧ o.acc = some a ∧
      a.items ≠ [] ∧ o.faults = [] ∧ o.failed = none ∧ (∃ i ∈ a.items, ∃ n v, Res.v i.tid n v ∈ o.res)) ∧
    (∃ s : State, ∃ k core, ∃ band : List (Nat × Team), ∃ tm x, ∃ r : Record, ∃ p, BandIs s k band ∧ s.teams.get? k = some tm ∧ tm.freed = false ∧ (∀ q ∈ band, q.2.saved = true) ∧
      s.launches.get? tm.launch = some x ∧ x.record = some r ∧ x.killed = none ∧ s.higherWaits r.prio tm.die = false ∧
      (s.die tm.die).held = false ∧ (s.die tm.die).off = false ∧ NoLogs s ∧
      (s.without (bandKeys s k)).bandOnDie tm.die (bandAsks s band r) = some p ∧
      (∃ sl y, p.head? = some sl ∧ sl.head? = some y ∧ y.core = core) ∧
      (∃ q sl, band = [q] ∧ p = [sl] ∧ Memory.wf s.mem = true ∧ q.2.cores.Nodup ∧ q.2.spadBytes = r.spad * 1024 ∧
        q.2.spadBase + q.2.spadBytes ≤ 2 ^ 19)) ∧
    ∃ s : State, ∃ k core, ∃ band : List (Nat × Team), ∃ tm x, ∃ r : Record, ∃ p, BandIs s k band ∧ s.teams.get? k = some tm ∧ tm.freed = false ∧ s.teamRuns k = true ∧
      Unpinned s band ∧ s.quiet (bandKeys s k) = (true, false) ∧ s.launches.get? tm.launch = some x ∧ x.record = some r ∧
      (∃ y ∈ s.launches, y.2.phase = .running ∧ y.2.killed = none ∧ y.2.next < y.2.count) ∧ dieOf core = tm.die ∧
      (tm.cores.length = 2 → core % 2 = 0) ∧ (r.sched ≠ 0 → core % 4 = 0) ∧
      State.fitBand (s.without (bandKeys s k)) (min (384 * (tm.die + 1)) (core + ((bandAsks s band r).map fun a => a.tids.length).sum))
        (bandAsks s band r) [] core [] = some p ∧
      ∃ q sl, band = [q] ∧ p = [sl] ∧ Memory.wf s.mem = true ∧ q.2.cores.Nodup ∧ q.2.spadBytes = r.spad * 1024 ∧
        q.2.spadBase + q.2.spadBytes ≤ 2 ^ 19 := by
  refine ⟨⟨Mvictim, 1, launchIn Mvictim, { placedRecord with prio := 1 }, next_ok (by decide +kernel), by decide +kernel⟩,
    ⟨Mband 0 M0, 1, launchIn (Mband 0 M0), placedRecord,
      ((Mband 0 M0).bandPlace [placedRecord.room] fun _ => true).getD [], next_ok (by decide +kernel),
      by decide +kernel, by decide +kernel, by decide, by decide, by decide +kernel⟩,
    ⟨M0, 1, placedTeam, by decide +kernel, rfl, by decide +kernel⟩,
    ⟨{ M0 with threads := [(tkey 1 0, { Thread.start 0 with done := true })], ctxs := [] }, 1, placedTeam, placedLaunch, by decide +kernel, rfl,
      by decide +kernel⟩,
    ⟨Mvictim, 1, launchIn Mvictim, { placedRecord with prio := 1 }, 0, [2], next_ok (by decide +kernel), by decide +kernel, by decide +kernel,
      by decide, by decide +kernel, by decide +kernel, by decide⟩,
    ⟨Mvictim, 2, teamIn Mvictim 2, (Mvictim.launches.get? 2).getD placedLaunch, by decide +kernel, by decide +kernel, by decide +kernel,
      by decide +kernel, by decide +kernel, (1, launchIn Mvictim), by decide +kernel, by decide +kernel⟩,
    ⟨Mstop [(7, anOp .atomic [])] 0, 1, teamIn (Mstop [] 0) 1, 0, by decide +kernel⟩,
    ⟨Mstop [(7, lateLoad)] 0, 1, teamIn (Mstop [] 0) 1, 0, by decide +kernel⟩,
    ⟨Mstop [(7, lateLoad)] 4096, 1, teamIn (Mstop [] 0) 1, 0, 7, lateLoad, placedCtx, peerAcc, by decide +kernel, by decide +kernel, by decide +kernel,
      by decide +kernel, fun q hq d c hs => ?_, by decide +kernel, by decide +kernel, by decide +kernel, rfl, rfl, by decide, rfl, rfl,
      ⟨3, 0x1000, 0, 0, 40⟩, by decide, 40, 0, by decide⟩,
    ⟨Msaved, 1, ((restorePlace.headD []).map (·.core)).headD 0, bandIn Msaved, teamIn Msaved 1, placedLaunch, placedRecord, restorePlace,
      band_ok (by decide +kernel), by decide +kernel, by decide +kernel, by decide +kernel, by decide +kernel, rfl, rfl, by decide +kernel, by decide +kernel,
      by decide +kernel, by unfold NoLogs; decide +kernel, by decide +kernel, ?_, ?_⟩,
    ⟨Mmig, 1, 5, bandIn Mmig, placedTeam, placedLaunch, placedRecord, migratePlace, band_ok (by decide +kernel), by decide +kernel, rfl, by decide +kernel,
      by unfold Unpinned; decide +kernel, by decide +kernel, by decide +kernel, rfl, ⟨(2, { placedLaunch with next := 0 }), by decide +kernel, by decide +kernel⟩,
      by decide +kernel, by decide, by decide, by decide +kernel, ?_⟩⟩
  · have : q = (7, lateLoad) := by
      have : (Mstop [(7, lateLoad)] 4096).pend = [(7, lateLoad)] := rfl
      simpa [this] using hq
    subst this
    cases hs
  · exact ⟨restorePlace.headD [], (restorePlace.headD []).headD ⟨0, 0, 0, 0, 0, 0, 0, 0⟩, by decide +kernel⟩
  · exact ⟨(1, teamIn Msaved 1), restorePlace.headD [], by decide +kernel⟩
  · exact ⟨(1, placedTeam), migratePlace.headD [], by decide +kernel⟩

/-- A global spill allocation of the size that R410 asks, placed so that the image of slot 0 lies at address 0. -/
def spillRec : Record := { placedRecord with gspill := placedRecord.spillNeed }
def Mspill (s : State) : State :=
  withTeam 1 (fun t => { t with spillBase := 2 ^ 64 - 0x10000 }) (withLaunch (fun l => { l with record := some spillRec }) s)
def Mdrain : State := Mspill (withU 4 0x1122334455667788 (Mstop [] 0))
/-- A saved context whose image (its first 400 bytes, all zero) stands at address 0, as the memory there does; then with a byte of
s4 changed in memory, then with a byte of its header changed too. -/
def Mimage : State := ctx1 (fun c => { c with image := List.replicate 400 0 }) (Mspill (withU 4 0x1122334455667788 Msaved))
def Mtouched : State := poke (272 + 32) [0x99] Mimage
def Mbroken : State := poke 16 [1] Mtouched
def imagePlace : List (List Slice) := (State.bandOnDie (Mbroken.without (bandKeys Mbroken 1)) 0 (bandAsks Mbroken (bandIn Mbroken) spillRec)).getD []
def imageCore : Nat := ((imagePlace.headD []).map (·.core)).headD 0

/-- R271: the format word and P0 at the start, s4 at byte 144 + 32 of path slot 0. -/
theorem test_saved_image_holds : (ctxOf Mdrain).imageBytes.take 8 = [0x01, 0x00, 0x54, 0x43, 1, 0, 0, 0] ∧
    ((ctxOf Mdrain).imageBytes.drop (272 + 32)).take 8 = [0x88, 0x77, 0x66, 0x55, 0x44, 0x33, 0x22, 0x11] := by decide +kernel
/-- R271: a debugger's change of s4 in the image is taken over, a change of the header traps ILLOP. -/
theorem test_restored_image_is_read : s0 4 (after (.teamRestore 1 imageCore) Mtouched) = 0x99 ∧
    ((after (.teamRestore 1 imageCore) Mtouched).ctxs.get? 1).map (·.held) = some [] ∧
    ((after (.teamRestore 1 imageCore) Mbroken).ctxs.get? 1).map (·.held.map (·.trap.code)) = some [0x01] := by decide +kernel

theorem witness_SavedImages :
    (∃ s : State, ∃ k tm t0, s.teams.get? k = some tm ∧ tm.stopAt = some t0 ∧ s.quiet (bandKeys s k) = (true, false) ∧
      (∀ c ∈ s.ctxs, c.2.team ∈ bandKeys s k → s.imageKey c.2 = none) ∧ ∀ u ∈ s.teams, ∀ side off, s.areaKey u.2 side off = none) ∧
    (∃ s : State, ∃ k tm t0 id c key, s.teams.get? k = some tm ∧ tm.stopAt = some t0 ∧ s.quiet (bandKeys s k) = (true, false) ∧
      (s.ctxs.map Prod.fst).Nodup ∧ s.ctxs.get? id = some c ∧ c.team ∈ bandKeys s k ∧ c.phase = .resident ∧
      s.imageFor id c = some 0 ∧ s.areaKey tm (tm.side c.core) (0x10000 + 0x8000 * 0) = some key) ∧
    (∃ s : State, ∃ k core, ∃ band : List (Nat × Team), ∃ tm x, ∃ r : Record, ∃ p, BandIs s k band ∧ s.teams.get? k = some tm ∧ tm.freed = false ∧ (∀ q ∈ band, q.2.saved = true) ∧
      s.launches.get? tm.launch = some x ∧ x.record = some r ∧ x.killed = none ∧ s.higherWaits r.prio tm.die = false ∧
      (s.die tm.die).held = false ∧ (s.die tm.die).off = false ∧ NoLogs s ∧
      (s.without (bandKeys s k)).bandOnDie tm.die (bandAsks s band r) = some p ∧
      (∃ sl y, p.head? = some sl ∧ sl.head? = some y ∧ y.core = core) ∧
      ∃ id c key a, (s.ctxs.map Prod.fst).Nodup ∧ s.ctxs.get? id = some c ∧ c.team ∈ bandKeys s k ∧ c.image ≠ [] ∧ s.imageKey c = some key ∧
        c.p0.head? = some a ∧ (memReads s.mem key c.image.length).take 128 ≠ c.image.take 128 ∧
        partOf (memReads s.mem key c.image.length) (272 + 8 * 4) 8 ≠ partOf c.image (272 + 8 * 4) 8) ∧
    (∃ c : Ctx, ∃ a, c.p0 ≠ [] ∧ (c.stack 0).head? = some a) ∧
    ∃ s : State, ∃ r : PathRef, ∃ c a, ∃ n : BitVec 8, ∃ key, s.ctxs.get? r.ctx = some c ∧ s.act? r = some a ∧ n.toNat < 160 ∧ c.image ≠ [] ∧
      c.phase = .saved ∧ s.imageKey c = some key := by
  have team : Mbroken.teams.get? 1 = some (teamIn Mbroken 1) ∧ (teamIn Mbroken 1).freed = false ∧
      ∀ q ∈ bandIn Mbroken, q.2.saved = true := by decide +kernel
  have launch : Mbroken.launches.get? (teamIn Mbroken 1).launch = some (launchIn Mbroken) ∧ (launchIn Mbroken).record = some spillRec ∧
      (launchIn Mbroken).killed = none := by decide +kernel
  have die : Mbroken.higherWaits spillRec.prio (teamIn Mbroken 1).die = false ∧ (Mbroken.die (teamIn Mbroken 1).die).held = false ∧
      (Mbroken.die (teamIn Mbroken 1).die).off = false := by decide +kernel
  refine ⟨⟨Mstop [] 0, 1, teamIn (Mstop [] 0) 1, 0, by decide +kernel, by decide +kernel, by decide +kernel, by decide +kernel, ?_⟩,
    ⟨Mdrain, 1, teamIn Mdrain 1, 0, 1, ctxOf Mdrain, dieKey 0x200000, by decide +kernel⟩,
    ⟨Mbroken, 1, imageCore, bandIn Mbroken, teamIn Mbroken 1, launchIn Mbroken, spillRec, imagePlace,
      band_ok (by decide +kernel), team.1, team.2.1, team.2.2, launch.1, launch.2.1, launch.2.2, die.1, die.2.1, die.2.2,
      by unfold NoLogs; decide +kernel, by decide +kernel,
      ⟨imagePlace.headD [], (imagePlace.headD []).headD ⟨0, 0, 0, 0, 0, 0, 0, 0⟩, by decide +kernel⟩,
      1, ctxOf Mbroken, dieKey 0x200000, theAct Mbroken, by decide +kernel⟩,
    ⟨placedCtx, newAct 2 0 (List.range 16) .home 0, by decide, by decide⟩,
    ⟨Mbroken, ⟨1, 0⟩, ctxOf Mbroken, theAct Mbroken, 159, dieKey 0x200000, by decide +kernel, by decide +kernel, by decide, by decide +kernel⟩⟩
  have h : ∀ u ∈ (Mstop [] 0).teams, (Mstop [] 0).launches.get? u.2.launch = some placedLaunch := by decide +kernel
  intro u hu side off
  have hl : placedLaunch.record = some placedRecord := rfl
  have hc : placedRecord.col = 0 := rfl
  have hg : placedRecord.gspill = 0 := rfl
  simp [State.areaKey, h u hu, hl, hc, hg]

/-! ### Debugging -/

def withDie (d : Nat) (f : Die → Die) (s : State) : State := s.modDie d f
def pt0 : Point := ⟨0, 0, 0, 0, 0⟩
def aCapture : Capture := ⟨0, false, (withDie 0 id M0).snap, []⟩
def Mbrk : State := withDie 0 (fun x => { x with held := true }) (stands (.again .held) 0 M0)
def Mpast : State := withDie 0 (fun x => { x with target := some pt0, live := some M0.snap }) M0

theorem witness_DebuggerHoldsStopsAndResumes :
    (∀ due : Bool, ∃ s : State, ∃ d, if due then (s.die d).held = false ∧ (s.die d).intervalLen ≤ s.cyc d - (s.die d).intervalAt
      else (s.die d).held = true ∨ s.cyc d - (s.die d).intervalAt < (s.die d).intervalLen) ∧
    (∀ cap : Bool, ∃ s : State, ∃ d, if cap then (s.die d).held = false ∧ (s.die d).capturing = true
      else (s.die d).held = true ∨ (s.die d).capturing = false) ∧
    (∃ s : State, ∃ p : Point, ∃ c, (s.die (dieOf p.core)).capture.find? (fun c => c.interval = p.interval) = some c ∧ p.core < 1536 ∧
      (s.die (dieOf p.core)).held = true ∧ (s.die (dieOf p.core)).changed = false ∧ s.replaying = false ∧
      ∃ y, c.snap.dies.get? (dieOf p.core) = some y) ∧
    (∃ s : State, ∃ d x p, ∃ live : Snap, s.dies.find? (fun q => q.2.target.isSome) = some (d, x) ∧ x.target = some p ∧ x.live = some live ∧
      s.atPoint p = true ∧ Memory.wf s.mem = true ∧ Memory.wf live.mem = true) ∧
    (∃ s : State, ∃ d, (s.die d).held = false) ∧ (∃ s : State, ∃ d, (s.die d).held = true ∧ s.replaying = true) ∧
    (∃ s : State, ∃ d id c, ∃ slot : Nat, ∃ a, (s.die d).held = true ∧ s.replaying = false ∧ ((s.die d).live = none ∨ (s.die d).changed = true) ∧ (s.ctxs.map Prod.fst).Nodup ∧
      s.ctxs.get? id = some c ∧ dieOf c.core = d ∧ slot < 2 ∧ (c.stack slot).head? = some a ∧ a.status = .again .held) ∧
    (∃ s : State, ∃ d, ∃ live : Snap, (s.die d).held = true ∧ s.replaying = false ∧ (s.die d).live = some live ∧ (s.die d).changed = false ∧ Memory.wf live.mem = true ∧
      Memory.wf s.mem = true) ∧
    (∃ s : State, ∃ r : PathRef, ∃ c a, s.ctxs.get? r.ctx = some c ∧ s.act? r = some a ∧ (s.die (dieOf c.core)).held = false ∧ c.phase ≠ .saved) ∧
    (∀ set : Bool, ∃ s : State, ∃ r : PathRef, ∃ c a, ∃ ch : RegChange, s.ctxs.get? r.ctx = some c ∧ s.act? r = some a ∧ (s.die (dieOf c.core)).held = true ∧
      if set then ∃ (n : BitVec 4) (v : _), ch = .k n v else ∃ (n : BitVec 8) (v : _), ch = .s n v ∧ n.toNat < 160) ∧
    ∃ pa, ∃ bs : List Byte, pa + bs.length ≤ 2 ^ 48 := by
  refine ⟨fun due => ?_, fun cap => ?_,
    ⟨withDie 0 (fun x => { x with held := true, capture := [aCapture] }) M0, pt0, aCapture, by rfl, by decide, by decide +kernel, by decide +kernel,
      by decide +kernel, (aCapture.snap.dies.get? 0).getD Die.reset.toDieCore, by decide +kernel⟩,
    ⟨Mpast, 0, Mpast.die 0, pt0, M0.snap, by rfl, by decide +kernel, by rfl, by decide +kernel⟩,
    ⟨M0, 0, by decide +kernel⟩, ⟨withDie 0 (fun x => { x with held := true }) Mpast, 0, by decide +kernel, by decide +kernel⟩,
    ⟨Mbrk, 0, 1, ctxOf Mbrk, 0, theAct Mbrk, by decide +kernel, by decide +kernel, Or.inl (by decide +kernel), by decide +kernel, by decide +kernel, by decide +kernel,
      by decide, by decide +kernel, by decide +kernel⟩,
    ⟨withDie 0 (fun x => { x with held := true, live := some M0.snap }) M0, 0, M0.snap, by decide +kernel, by decide +kernel, by rfl, by decide +kernel⟩,
    ⟨M0, ⟨1, 0⟩, placedCtx, theAct M0, by decide +kernel, by decide +kernel, by decide +kernel, by decide⟩,
    fun set => ⟨Mbrk, ⟨1, 0⟩, ctxOf Mbrk, theAct Mbrk, if set then .k 3 0 else .s 159 5, by decide +kernel, by decide +kernel, by decide +kernel, ?_⟩,
    0x1000, [1], by decide⟩
  · cases due
    · exact ⟨M0, 0, Or.inr (by decide +kernel)⟩
    · exact ⟨M0.advance (2 ^ 26), 0, by decide +kernel⟩
  · cases cap
    · exact ⟨M0, 0, Or.inr (by decide +kernel)⟩
    · exact ⟨withDie 0 (fun x => { x with capturing := true }) M0, 0, by decide +kernel⟩
  · cases set
    · exact ⟨159, 5, rfl, by decide⟩
    · exact ⟨3, 0, rfl⟩

/-! ### Sampling and tracing -/

def f0 : Fetched := ⟨0, 0, none⟩
def Msamp : State := withDie 0 (fun x => { x with sampling := true }) Mc
def aTag (pc : Nat) : Tagged := ⟨1, 0, 2, pt0, 16, pc, 0, 0, 0, none, 0, 0, none, none⟩
def tagged (pc : Nat) (s : State) : State := s.modCore 0 fun k => { k with tagged := [aTag pc] }
/-- A record of 64 bytes; a ring of two pages, the first full, the second unread; one whose LOSS record is due. -/
def rec64 : TraceRec := ⟨8, 0, 0, 0, 0, List.replicate 60 0⟩
def ring2 : Ring := { Ring.reset with pages := 2, data := [(0, List.replicate 64 rec64), (1, [rec64])] }
def ring3 : Ring := { ring2 with lossDue := some 2, lost := 1 }
def ring1 : Ring := { Ring.reset with data := [(0, [])] }
def withRing (r : Ring) (s : State) : State := (s.modCore 0 fun k => { k with ring := r }).modDie 0 fun x => { x with tracing := some none }
def atTick (n : Nat) (s : State) : State := { s with tick := 720720 * n }

theorem witness_SamplesAndRecordsReachTheirRings :
    (∀ fetched : Bool, ∃ s : State, ∃ u core r c a l f, (s.die (dieOf core)).sampling = true ∧ (s.core core).garnet ≤ 1 ∧
      best (s.cands (some core) none) = some r ∧ s.ctxs.get? r.ctx = some c ∧ s.act? r = some a ∧ s.launchOf c = some l ∧
      s.wordsFor c a l.root = (.words f, u) ∧ a.ibuf.isSome = fetched) ∧
    (∀ n ∈ [0, 0x11], ∃ s : State, ∃ core x trap, (s.core core).tagged.find? (fun y => (s.tagOver y).isSome) = some x ∧ s.tagOver x = some trap ∧
      trap = n ∧ x.ready ≤ x.issued ∧ x.issued ≤ x.result.getD (s.cycOf core) ∧ x.result.getD (s.cycOf core) ≤ s.cycOf core ∧
      s.cycOf core - x.ready < 2 ^ 32) ∧
    (∃ s : State, ∃ ref, s.ringOn ref = false) ∧ (∃ s : State, ∃ ref, s.ringOn ref = true) ∧
    (∀ due : Bool, ∃ s : State, ∃ ref, (s.ringOf ref).lossDue = none ∧ (s.ringOf ref).data ≠ [] ∧
      (s.die (ringDie ref)).traceFrom ≤ (s.ringOf ref).synced ∧
      if due then s.ticks / 1024 = (s.ringOf ref).synced + 1 ∧ pageUsed (s.ringOf ref).page + 24 ≤ 4096 else s.ticks / 1024 ≤ (s.ringOf ref).synced) ∧
    (∃ s : State, ∃ ref k, (s.ringOf ref).lossDue = some k ∧ k < s.ticks ∧ (s.die (ringDie ref)).traceFrom ≤ (s.ringOf ref).synced ∧
      s.ticks / 1024 ≤ (s.ringOf ref).synced) ∧
    (∃ s : State, ∃ ref old, (s.ringUp (ringDie ref) (s.ringOf ref)).data.get? (s.ringUp (ringDie ref) (s.ringOf ref)).next = some old ∧
      4096 < pageUsed (s.ringUp (ringDie ref) (s.ringOf ref)).page + 8 ∧ old ≠ []) ∧
    (∃ s : State, ∃ ref, (s.ringUp (ringDie ref) (s.ringOf ref)).data.get? (s.ringUp (ringDie ref) (s.ringOf ref)).next = none ∨
      pageUsed (s.ringUp (ringDie ref) (s.ringOf ref)).page + 8 ≤ 4096) ∧
    (∃ s : State, ∃ ref page, (s.ringOf ref).pages ≤ page) ∧ ∃ s : State, ∃ ref page, page < (s.ringOf ref).pages := by
  refine ⟨fun fetched => ?_, fun n hn => ?_, ⟨M0, .core 0, by decide +kernel⟩, ⟨withRing ring1 M0, .core 0, by decide +kernel⟩,
    fun due => ⟨atTick (if due then 1024 else 1023) (withRing ring1 M0), .core 0, ?_⟩,
    ⟨atTick 5 (withRing ring3 M0), .core 0, 2, by decide +kernel⟩,
    ⟨withRing ring2 M0, .core 0, [rec64], by decide +kernel, by decide +kernel, by decide⟩,
    ⟨M0, .hub, Or.inl (by decide +kernel)⟩, ⟨M0, .hub, 1, by decide +kernel⟩, ⟨M0, .hub, 0, by decide +kernel⟩⟩
  · cases fetched
    · refine ⟨Msamp, (Msamp.wordsFor placedCtx (theAct Msamp) placedLaunch.root).2, 0, ⟨1, 0⟩, placedCtx, theAct Msamp, placedLaunch, f0,
        ?_, ?_, ?_, ?_, ?_, ?_, Prod.ext (by decide +kernel) rfl, by decide +kernel⟩ <;> decide +kernel
    · let s := top (fun a => { a with ibuf := some f0 }) Msamp
      refine ⟨s, (s.wordsFor (ctxOf s) (theAct s) placedLaunch.root).2, 0, ⟨1, 0⟩, ctxOf s, theAct s, placedLaunch, f0,
        ?_, ?_, ?_, ?_, ?_, ?_, Prod.ext (by decide +kernel) rfl, by decide +kernel⟩ <;> decide +kernel
  · simp only [List.mem_cons, List.not_mem_nil, or_false] at hn
    rcases hn with rfl | rfl
    · exact ⟨tagged 8 M0, 0, aTag 8, 0, by decide +kernel, by decide +kernel, rfl, by decide +kernel⟩
    · let s := tagged 0 (stands (.trapped softTrap) 0 M0)
      exact ⟨s, 0, aTag 0, 0x11, by decide +kernel, by decide +kernel, rfl, by decide +kernel⟩
  · cases due <;> decide +kernel

/-! ### Boot and repair -/

def fw (ok : Bool) (v : Nat) : FwImage := { sigOk := ok, version := v, measure := 9 }
def atStage (n : Nat) (f : Hub → Hub) : State := State.reset.modHub fun h => f { h with stage := n }
def aSetup : KernelSetup := ⟨256, [0x100000], 0x100000, 1, 2, [0x106000]⟩

theorem witness_BootReachesServiceAndAnswers :
    (∃ s : State, ∃ f, s.hub.stage = 1 ∧ s.hub.nvme = some f ∧ f.sigOk = true ∧ s.hub.fuseVersion ≤ f.version) ∧
    (∃ s : State, s.hub.stage = 1 ∧ s.hub.nvme = none) ∧
    (∃ s : State, ∃ f, s.hub.stage = 1 ∧ s.hub.nvme = some f ∧ ¬(f.sigOk = true ∧ s.hub.fuseVersion ≤ f.version)) ∧
    (∃ s : State, ∃ f : FwImage, s.hub.service = .recovery ∧ f.sigOk = true ∧ s.hub.fuseVersion ≤ f.version) ∧
    (∃ s : State, ∃ f : FwImage, s.hub.service = .recovery ∧ ¬(f.sigOk = true ∧ s.hub.fuseVersion ≤ f.version)) ∧
    (∃ s : State, s.hub.recoveryImage = true ∧ 3 ≤ s.hub.stage) ∧ (∃ s : State, s.hub.recoveryImage = false) ∧
    (∃ s : State, ∃ k : KernelSetup, s.hub.stage = 2 ∧ k.windowMiB ≤ 256 ∧ k.windowMiB % 32 = 0) ∧
    (∀ n, 3 ≤ n → n ≤ 5 → ∃ s : State, s.hub.stage = n) ∧
    (∃ s : State, ∃ k, ∃ i : Instr, ∃ n, (i = .firmwareVerify ∧ n = 1 ∨ i = .mgmtKernelStart k ∧ n = 2 ∨ i = .reducedServiceBegin ∧ n = 3 ∨
      i = .stackCalibration ∧ n = 4 ∨ i = .fullServiceBegin ∧ n = 5) ∧ s.hub.stage ≠ n) ∧
    (∀ ok : Bool, ∃ s : State, ∃ d mhz, let old := (s.die d).mhz
      let holds : Prop := s.hub.service = .full ∧ 800 ≤ mhz ∧ mhz ≤ 1600 ∧ mhz % 100 = 0 ∧ (mhz = old + 100 ∨ old = mhz + 100)
      if ok then holds else ¬holds) ∧
    (∀ on : Bool, ∃ s : State, ∃ d l y, s.launches.get? l = some y ∧ y.killed = none ∧ if on then StandsOn s l d else ¬StandsOn s l d) ∧
    (∃ (n : Nat) (mk : Nat → Nat → Setting) (lo hi : Nat) (f : Die → Die),
      (mk = .probeAfter ∧ lo = 1024 ∧ hi = 65535 ∧ (f = fun x => { x with probeAfter := n }) ∨
      mk = .preemptAfter ∧ lo = 1000 ∧ hi = 1000000 ∧ (f = fun x => { x with preemptAfter := n }) ∨
      mk = .intervalLength ∧ lo = 2 ^ 20 ∧ hi = 2 ^ 32 ∧ (f = fun x => { x with intervalLen := n })) ∧ lo ≤ n ∧ n ≤ hi) ∧
    (∃ (n : Nat) (mk : Nat → Nat → Setting) (lo hi : Nat) (f : Die → Die),
      (mk = .probeAfter ∧ lo = 1024 ∧ hi = 65535 ∧ (f = fun x => { x with probeAfter := n }) ∨
      mk = .preemptAfter ∧ lo = 1000 ∧ hi = 1000000 ∧ (f = fun x => { x with preemptAfter := n }) ∨
      mk = .intervalLength ∧ lo = 2 ^ 20 ∧ hi = 2 ^ 32 ∧ (f = fun x => { x with intervalLen := n })) ∧ (n < lo ∨ hi < n)) ∧
    (∃ s : State, ∃ ref n, 1 ≤ n ∧ n ≤ 65536 ∧ (s.ringOf ref).data = []) ∧ (∃ s : State, ∃ ref n, n = 0 ∨ 65536 < n ∨ (s.ringOf ref).data ≠ []) ∧
    (∃ s : State, ∃ d mhz c k, s.hub.service = .full ∧ mhz + 100 = (s.die d).mhz ∧ s.cores.get? c = some k ∧ dieOf c = d ∧
      (s.die (dieOf c)).ringsOn = true ∧ (s.cores.map Prod.fst).Nodup ∧ (s.ringUp (dieOf c) k.ring).lossDue = none ∧
      pageUsed (s.ringUp (dieOf c) k.ring).page + 24 ≤ 4096) ∧
    ∃ s : State, 3 ≤ s.hub.stage := by
  refine ⟨⟨atStage 1 fun h => { h with nvme := some (fw true 3) }, fw true 3, rfl, rfl, rfl, by decide⟩,
    ⟨atStage 1 id, rfl, rfl⟩,
    ⟨atStage 1 fun h => { h with nvme := some (fw true 3), fuseVersion := 4 }, fw true 3, rfl, rfl, by decide⟩,
    ⟨atStage 1 fun h => { h with service := .recovery }, fw true 0, rfl, rfl, by decide⟩,
    ⟨atStage 1 fun h => { h with service := .recovery }, fw false 0, rfl, by decide⟩,
    ⟨atStage 3 fun h => { h with recoveryImage := true }, rfl, by decide⟩, ⟨State.reset, rfl⟩,
    ⟨atStage 2 id, aSetup, rfl, by decide, by decide⟩, fun n _ _ => ⟨atStage n id, rfl⟩,
    ⟨State.reset, aSetup, Instr.firmwareVerify, 1, Or.inl ⟨rfl, rfl⟩, by decide⟩, fun ok => ?_, fun on => ?_,
    ⟨65535, .probeAfter, 1024, 65535, _, Or.inl ⟨rfl, rfl, rfl, rfl⟩, by decide, by decide⟩,
    ⟨1023, .probeAfter, 1024, 65535, _, Or.inl ⟨rfl, rfl, rfl, rfl⟩, Or.inl (by decide)⟩,
    ⟨M0, .core 0, 65536, by decide, by decide, by decide +kernel⟩, ⟨M0, .hub, 0, Or.inl rfl⟩,
    ⟨withRing ring1 M0, 0, 1500, 0, (withRing ring1 M0).core 0, by decide +kernel, by decide +kernel, by decide +kernel, by decide, by decide +kernel⟩, ⟨atStage 3 id, by decide⟩⟩
  · cases ok
    · exact ⟨M0, 0, 1700, by decide +kernel⟩
    · exact ⟨M0, 0, 1500, by decide +kernel⟩
  · cases on
    · exact ⟨M0, 1, 1, placedLaunch, by decide +kernel, rfl, by unfold StandsOn; decide +kernel⟩
    · exact ⟨M0, 0, 1, placedLaunch, by decide +kernel, rfl, by unfold StandsOn; decide +kernel⟩

theorem witness_ColumnsAreRepairedAndScrubbed :
    (∃ layer : Nat, layer < 8) ∧
    (∃ s : State, ∃ core, ((s.core core).layersLost ≠ [] ∨ (s.core core).remapBad = true) ∧ (s.core core).rebuilt < 2 ^ 20) ∧
    (∃ s : State, ∃ core, (s.core core).layersLost = [] ∧ (s.core core).remapBad = false ∨ 2 ^ 20 ≤ (s.core core).rebuilt) ∧
    (∃ bus wire : Nat, bus < 2 ∧ wire < 256) ∧ (∃ bus : Nat, ∃ failed : List Nat, bus < 2 ∧ (∀ w ∈ failed, w < 256) ∧ failed ≠ []) ∧
    (∃ s : State, ∃ core, (s.core core).remapBad = false) ∧
    (∃ s : State, ∃ core, (s.core core).remapBad = true ∧ (s.core core).rebuilt = 2 ^ 20) ∧
    (∃ s : State, ∃ core, (s.core core).remapBad = true ∧ (s.core core).rebuilt ≠ 2 ^ 20) ∧
    (∃ s : State, ∃ r : PathRef, ∃ c a, s.ctxs.get? r.ctx = some c ∧ s.act? r = some a) ∧
    ∃ s : State, ∃ team side slot tm x, s.teams.get? team = some tm ∧ tm.slots.get? (2 * slot + side) = some x ∧ side < 2 :=
  ⟨⟨7, by decide⟩, ⟨M0.modCore 0 fun k => { k with layersLost := [7] }, 0, by decide +kernel⟩, ⟨M0, 0, Or.inl (by decide +kernel)⟩,
    ⟨1, 255, by decide⟩, ⟨1, [255], by decide, by decide, by decide⟩, ⟨M0, 0, by decide +kernel⟩,
    ⟨M0.modCore 0 fun k => { k with remapBad := true, rebuilt := 2 ^ 20 }, 0, by decide +kernel⟩,
    ⟨M0.modCore 0 fun k => { k with remapBad := true }, 0, by decide +kernel⟩, ⟨M0, ⟨1, 0⟩, placedCtx, theAct M0, by decide +kernel, by decide +kernel⟩,
    ⟨withTeam 1 (fun t => { t with slots := [(7, ⟨1, some 5, true, false⟩)] }) M0, 1, 1, 3,
      teamIn (withTeam 1 (fun t => { t with slots := [(7, ⟨1, some 5, true, false⟩)] }) M0) 1, ⟨1, some 5, true, false⟩, by decide +kernel, by decide +kernel,
      by decide⟩⟩

/-! ### Words, steps, the invariant -/

theorem witness_EncodeThenDecode : ∃ i : Instr, i.isWord = true ∧ i ≠ .illegalWord ∧ i.wf = true ∧ (encode i).length = 2 :=
  ⟨.desc ⟨10, 6, 3, 12, 0, false, 0, false, false, false, some (13, 6)⟩, by decide +kernel⟩

theorem witness_DecodeThenEncode : (∃ w next i, decodeWords w next = .ok (i, 1)) ∧ ∃ w next i, decodeWords w next = .ok (i, 2) :=
  ⟨⟨0x090010100C000003, none, .sandn ⟨4, 4, 3⟩, by decide +kernel⟩,
    ⟨0x580028180C301020, some 0xC341800000000000, .desc ⟨10, 6, 3, 12, 0, false, 0, false, false, false, some (13, 6)⟩, by decide +kernel⟩⟩

/-- The placed machine with a word at its entry, and with that word fetched. -/
def Mstart (bits : Nat) : State := State.reset.placed bits
def Mfetched : State := top (fun a => { a with ibuf := some ⟨0, 0x090010100C000003, none⟩ }) (Mstart 0)

theorem turn_ok {s : State} (h : (decide (s.agenda = [.issue 1 ⟨1, 0⟩]) && (s.dies.all fun q => decide (q.2.target = none)) &&
    decide (s.ctxs.get? 1 = some (ctxOf s)) && decide (s.act? ⟨1, 0⟩ = some (theAct s)) &&
    decide (s.launchOf (ctxOf s) = some placedLaunch) && s.canIssue (ctxOf s) (theAct s) && decide ((ctxOf s).held = []) &&
    decide ((s.die (dieOf (ctxOf s).core)).intervalAt ≠ (s.advance 1).cyc (dieOf (ctxOf s).core))) = true) :
    IssueTurn s 1 ⟨1, 0⟩ [] (ctxOf s) (theAct s) placedLaunch := by
  simp only [Bool.and_eq_true, decide_eq_true_eq, List.all_eq_true] at h
  obtain ⟨⟨⟨⟨⟨⟨⟨h1, h2⟩, h3⟩, h4⟩, h5⟩, h6⟩, h7⟩, h8⟩ := h
  exact ⟨h1, h2, h3, h4, h5, h6, by simp [h7], h8⟩

theorem code_ok {s : State} {core launch pc : Nat} (hc : core = 0 ∧ pc = 0 ∧ (s.core 0).icache = []) (h : (!s.poisonIn (dieKey 0x200000) 16 && (match walk s.mem 0x100000 0 with
    | .ok leaf big => leafX leaf && !leafK leaf && decide (leafKey leaf big 0 (some 0) = some (dieKey 0x200000))
    | _ => false) && decide (s.cached (some 0) 0 0x100000 0 = none)) = true) :
    CodeAt s core launch placedLaunch pc (dieKey 0x200000) := by
  obtain ⟨rfl, rfl, hi⟩ := hc
  simp only [Bool.and_eq_true, decide_eq_true_eq, Bool.not_eq_true'] at h
  obtain ⟨⟨h1, h2⟩, h3⟩ := h
  split at h2
  · next leaf big e =>
    simp only [Bool.and_eq_true, decide_eq_true_eq, Bool.not_eq_true'] at h2
    exact ⟨by decide, by decide, by decide, h1, fun j _ w hw => by simp [Core.codeWord, hi] at hw, leaf, big, e, h2.1.1, h2.1.2, h2.2, fun x hx => by
      have : s.cached (some 0) (dieOf 0) placedLaunch.root 0 = none := h3
      rw [this] at hx; cases hx⟩
  · cases h2

theorem witness_StepRunsDecodedWord :
    (∃ s n r rest c a l f, IssueTurn s n r rest c a l ∧ a.ibuf = some f ∧ f.addr = a.pc) ∧
    (∃ s n r rest c a l k i tail, IssueTurn s n r rest c a l ∧ (∀ f, a.ibuf = some f → f.addr ≠ a.pc) ∧ CodeAt s c.core (s.launchId c) l a.pc k ∧
      decode (memReads s.mem k 16) = .ok (i, tail)) ∧
    ∃ s n r rest c a l k x, IssueTurn s n r rest c a l ∧ (∀ f, a.ibuf = some f → f.addr ≠ a.pc) ∧ CodeAt s c.core (s.launchId c) l a.pc k ∧
      decode (memReads s.mem k 16) = .error x := by
  have none_ok {a : Act} (h : a.ibuf = none) : ∀ f, a.ibuf = some f → f.addr ≠ a.pc := fun f hf => by rw [h] at hf; cases hf
  refine ⟨⟨Mfetched, 1, ⟨1, 0⟩, [], ctxOf Mfetched, theAct Mfetched, placedLaunch, ⟨0, 0x090010100C000003, none⟩, turn_ok (by decide +kernel),
      by decide +kernel, by decide +kernel⟩,
    ⟨Mstart 0x090010100C000003, 1, ⟨1, 0⟩, [], ctxOf (Mstart 0x090010100C000003), theAct (Mstart 0x090010100C000003), placedLaunch, dieKey 0x200000, .sandn ⟨4, 4, 3⟩, List.replicate 8 0,
      turn_ok (by decide +kernel), none_ok (by decide +kernel), code_ok (by decide +kernel) (by decide +kernel), by decide +kernel⟩,
    ⟨Mstart 0x24002800, 1, ⟨1, 0⟩, [], ctxOf (Mstart 0x24002800), theAct (Mstart 0x24002800), placedLaunch, dieKey 0x200000, .nonzeroReserved,
      turn_ok (by decide +kernel), none_ok (by decide +kernel), code_ok (by decide +kernel) (by decide +kernel), by decide +kernel⟩⟩

theorem inv_ok {s : State} (h : (decide (Memory.wf s.mem = true) && (s.threads.all fun p => decide (p.2.base + 224 ≤ 1024)) &&
    (s.cores.all fun p => decide (p.2.rows = [])) && s.dies.all fun d => decide (d.2.capture = [] ∧ d.2.live = none)) = true) : DeviceInv s := by
  simp only [Bool.and_eq_true, decide_eq_true_eq, List.all_eq_true] at h
  obtain ⟨⟨⟨h1, h2⟩, h3⟩, h4⟩ := h
  exact ⟨⟨h1, h2, fun p hp => by rw [h3 p hp]; exact .nil⟩, fun d hd => ⟨by simp [(h4 d hd).1], by simp [(h4 d hd).2]⟩⟩

theorem witness_StepKeepsInvariant : ∃ s t, DeviceInv s ∧ step s = .next t := by
  have h : (match step (Mstart 0) with
    | .next _ => true
    | _ => false) = true := by decide +kernel
  cases e : step (Mstart 0) with
  | next t => exact ⟨Mstart 0, t, inv_ok (by decide +kernel), e⟩
  | fault f => simp [e] at h
  | refused f => simp [e] at h

end Sys2Proof.Tests
end

section
/-!
SUPPORT. Sets as values: the bitmaps of tids, the forms that stand for them and the slots that these take (R62 to R66), what
writing a set register leaves, and the comparisons of TEST and TESTB (R73, R74).
-/

namespace Sys2Proof.Map

theorem mem_of_get? {α : Type} {m : Map α} {k : Nat} {x : α} (h : m.get? k = some x) : (k, x) ∈ m := by
  induction m with
  | nil => cases h
  | cons p r ih =>
    obtain ⟨j, y⟩ := p
    rw [get?_cons] at h
    split at h
    · cases h; subst_vars; exact List.mem_cons_self
    · exact List.mem_cons_of_mem _ (ih h)

/-- A change of a map's entries that keeps every key, and the entries at `k`, keeps what `k` reads. -/
theorem get?_map_of_fixed {α : Type} (m : Map α) {f : Nat × α → Nat × α} {k : Nat} (hkey : ∀ p, (f p).1 = p.1)
    (hfix : ∀ x, f (k, x) = (k, x)) : get? (m.map f) k = m.get? k := by
  induction m with
  | nil => rfl
  | cons p r ih =>
    obtain ⟨j, x⟩ := p
    rw [List.map_cons, ← Prod.eta (f (j, x)), get?_cons, get?_cons, ih, hkey]
    split
    · subst_vars; rw [hfix]
    · rfl

end Sys2Proof.Map

namespace Sys2Proof.Machine

open Sys2Proof.Claims

/-! ### Bitmaps of tids (R62) -/

theorem getLsbD_foldl_insertTid (l : List Nat) (b : Tids) (j : Nat) :
    (l.foldl (fun b t => b ||| (1#2048 <<< t)) b).getLsbD j = true ↔ b.getLsbD j = true ∨ j < 2048 ∧ j ∈ l := by
  induction l generalizing b with
  | nil => simp
  | cons t l ih =>
    have one : (1#2048 <<< t).getLsbD j = (decide (t < 2048) && decide (t = j)) := BitVec.getLsbD_twoPow t j
    simp only [List.foldl_cons, ih, BitVec.getLsbD_or, one, Bool.or_eq_true, Bool.and_eq_true, decide_eq_true_eq, List.mem_cons]
    grind

/-- A tid is a member of the bitmap of a list that names it; tids of 2048 and above are in no set. -/
theorem getLsbD_tidSet (l : List Nat) (j : Nat) : (tidSet l).getLsbD j = true ↔ j < 2048 ∧ j ∈ l := by
  simp [tidSet, getLsbD_foldl_insertTid]

/-- The bitmap with the members of `ts` that meet a condition is that of the filtered list. -/
theorem tidSet_filter_eq {ts : List Nat} {p : Nat → Bool} {P : Nat → Prop} {b : Tids} (hp : ∀ t, p t = true ↔ P t)
    (hb : ∀ t, b.getLsbD t = true ↔ t < 2048 ∧ t ∈ ts ∧ P t) : tidSet (ts.filter p) = b := by
  refine BitVec.eq_of_getLsbD_eq fun j _ => Bool.eq_iff_iff.2 ?_
  rw [getLsbD_tidSet, hb, List.mem_filter, hp]

theorem tidCount_eq_length_filter (b : Tids) : tidCount b = ((List.range 2048).filter fun j => b.getLsbD j).length :=
  List.countP_eq_length_filter

/-! ### The path at issue -/

/-- The running activation of path `r` is `a`, in context `c`. -/
def RunsIn (s : State) (r : PathRef) (c : Ctx) (a : Act) : Prop :=
  s.ctxs.get? r.ctx = some c ∧ (c.stack r.slot).head? = some a

theorem RunsIn.act? {s : State} {r : PathRef} {c : Ctx} {a : Act} (h : RunsIn s r c a) : s.act? r = some a := by
  obtain ⟨hc, ha⟩ := h
  simp [State.act?, hc, ha]

/-- What the state holds of the path at issue. -/
theorem env?_inv {s : State} {e : Env} (h : s.env? = some e) :
    RunsIn s e.ref e.ctx e.act ∧ s.teams.get? e.ctx.team = some e.team := by
  obtain ⟨cur, -, h⟩ := Option.bind_eq_some_iff.1 h
  unfold State.envAt at h
  split at h
  · cases h
  · next hc =>
    split at h
    · next ha ht =>
      split at h
      · split at h
        · cases h; exact ⟨⟨hc, ha⟩, ht⟩
        · cases h
      · cases h
    · cases h

theorem Ctx.stack_modTop (c : Ctx) (slot : Nat) (f : Act → Act) : (c.modTop slot f).stack slot = modHead f (c.stack slot) := by
  simp only [Ctx.modTop, Ctx.setStack, Ctx.stack]
  split <;> rfl

theorem head?_modHead {α : Type} (f : α → α) (l : List α) : (modHead f l).head? = l.head?.map f := by cases l <;> rfl

theorem Ctx.modTop_team (c : Ctx) (slot : Nat) (f : Act → Act) : (c.modTop slot f).team = c.team := by
  simp only [Ctx.modTop, Ctx.setStack]; split <;> rfl

theorem Ctx.modTop_core (c : Ctx) (slot : Nat) (f : Act → Act) : (c.modTop slot f).core = c.core := by
  simp only [Ctx.modTop, Ctx.setStack]; split <;> rfl

/-- An activation whose word has retired: it goes on at `pc`, ready at cycle `now`. -/
def Act.goesOn (a : Act) (pc now : Nat) : Act := { a with pc := pc, status := .ready, only := none, since := now }

@[simp] theorem Act.kr_goesOn (a : Act) (pc now k : Nat) : (a.goesOn pc now).kr k = a.kr k := rfl

/-- After its word retired the path runs at `pc` in its context, which stands where it stood. -/
theorem retired_runsIn {s t : State} {e : Env} {pc : Nat} {f : Act → Act} (h : RunsIn s e.ref e.ctx e.act)
    (hr : Retired s t e pc f) : ∃ c, c.team = e.ctx.team ∧ c.core = e.ctx.core ∧
      RunsIn t e.ref c ((f e.act).goesOn pc (s.cycOf e.ctx.core)) := by
  obtain ⟨hc, ha⟩ := h
  have hget := congrArg (Map.get? · e.ref.ctx) hr
  simp only [Map.get?_modify_self, hc, Option.map_some] at hget
  refine ⟨_, ?_, ?_, hget, ?_⟩
  · exact Ctx.modTop_team e.ctx _ _
  · exact Ctx.modTop_core e.ctx _ _
  · have hs := Ctx.stack_modTop e.ctx e.ref.slot fun a => (f a).goesOn pc (s.cycOf e.ctx.core)
    exact (congrArg List.head? hs).trans (by rw [head?_modHead, ha]; rfl)

/-! ### The members of a form -/

theorem Team.side_lt (t : Team) (core : Nat) : t.side core < 2 := by unfold Team.side; split <;> omega

theorem slotKey_inj {side i j : Nat} (h : slotKey side i = slotKey side j) : i = j := by simp only [slotKey] at h; omega

theorem side_of_slotKey {side i : Nat} (h : side < 2) : slotKey side i % 2 = side ∧ slotKey side i / 2 = i := by
  simp only [slotKey]; omega

/-- Two teams whose sets are the same where a form looks give it the same members. -/
theorem members_congr {t t' : Team} {side : Nat} {f : SetForm}
    (h : ∀ i g n, f = .handle i g n → t'.slots.get? (slotKey side i) = t.slots.get? (slotKey side i)) :
    f.members t' side = f.members t side := by
  cases f with
  | handle i g n => simp only [SetForm.members, Map.getD, h i g n rfl]
  | empty | inline _ _ | raw _ => rfl

/-- A set register of a path that runs names the members of its form. -/
theorem setIn_of_runsIn {s : State} {e : Env} {c : Ctx} {a : Act} {t : Team} (h : RunsIn s e.ref c a)
    (ht : s.teams.get? e.ctx.team = some t) (k : Nat) : setIn s e k = (a.kr k).form.members t (t.side e.ctx.core) := by
  simp only [setIn, h.act?, ht]

theorem set_eq_setIn {s : State} {e : Env} (h : s.env? = some e) (k : BitVec 4) : e.set s k = setIn s e k.toNat := by
  obtain ⟨hr, ht⟩ := env?_inv h
  simp only [Env.set, ht, setIn_of_runsIn hr ht]

theorem kr_handle_mem {a : Act} {k i g n : Nat} (h : (a.kr k).form = .handle i g n) : ∃ r, (k, r) ∈ a.k ∧ r.form = .handle i g n := by
  simp only [Act.kr, Map.getD] at h
  cases hk : a.k.get? k with
  | none => simp [hk] at h
  | some r => exact ⟨r, Map.mem_of_get? hk, by simpa [hk] using h⟩

theorem handles_of_kr {c : Ctx} {slot : Nat} {a : Act} {k i g n : Nat} (ha : (c.stack slot).head? = some a)
    (h : (a.kr k).form = .handle i g n) : i ∈ c.handles := by
  obtain ⟨r, hr, hf⟩ := kr_handle_mem h
  have mem : a ∈ c.p0 ++ c.p1 := by
    have := List.mem_of_mem_head? ha
    simp only [Ctx.stack] at this
    split at this <;> simp [this]
  exact List.mem_flatMap.2 ⟨a, mem, List.mem_filterMap.2 ⟨_, hr, by simp only [hf]⟩⟩

/-- R66: a slot that a set register of a running path names is in use. -/
theorem slotsUsed_of_kr {s : State} {r : PathRef} {c : Ctx} {a : Act} {t : Team} {k i g n : Nat} (h : RunsIn s r c a)
    (ht : s.teams.get? c.team = some t) (hk : (a.kr k).form = .handle i g n) : i ∈ s.slotsUsed c.team (t.side c.core) := by
  obtain ⟨hc, ha⟩ := h
  have hv : c ∈ s.ctxs.vals := List.mem_map.2 ⟨_, Map.mem_of_get? hc, rfl⟩
  simp only [State.slotsUsed, ht, List.mem_append]
  refine .inl (.inl (List.mem_flatMap.2 ⟨c, List.mem_filter.2 ⟨hv, by simp⟩, handles_of_kr ha hk⟩))

/-! ### The slots that canonical forms take, and their release (R63, R66, R68) -/

/-- The inline form of a set, where there is one, has exactly its members. -/
theorem inlineForm_members {b : Tids} {f : SetForm} (h : inlineForm b = some f) (t : Team) (side : Nat) :
    f.members t side = b := by
  unfold inlineForm at h
  split at h
  · cases h; subst_vars; rfl
  · dsimp only at h
    split at h
    · cases h; assumption
    · cases h

/-- Where a set gets a form, it is the inline one and nothing changes, or a handle to a slot that was not in use. -/
theorem canon_cases {s s' : State} {team side : Nat} {b : Tids} {f : SetForm} (h : s.canon team side b = some (f, s')) :
    (inlineForm b = some f ∧ s' = s) ∨ ∃ i g, i ∉ s.slotsUsed team side ∧ f = .handle i g (tidCount b) ∧
      s' = s.modTeam team fun t => { t with slots := t.slots.set (slotKey side i) ⟨g, some b, true, false⟩ } := by
  unfold State.canon at h
  split at h
  · cases h; exact .inl ⟨‹_›, rfl⟩
  · dsimp only at h
    split at h
    · cases h
    · next i hi =>
      split at h
      · cases h
      · cases h
        exact .inr ⟨i, _, by simpa using List.find?_some hi, rfl, rfl⟩

/-- In `s'` the form stands for the set `b` on one core of a team; `s'` is `s` but for the team's slots, and of those no slot
that a register names there has changed. -/
def FormStands (s s' : State) (team side : Nat) (f : SetForm) (b : Tids) : Prop :=
  s' = { s with teams := s'.teams } ∧ ∀ t, s.teams.get? team = some t → ∃ t', s'.teams.get? team = some t' ∧
    t'.cores = t.cores ∧ f.members t' side = b ∧
    ∀ i ∈ s.slotsUsed team side, t'.slots.get? (slotKey side i) = t.slots.get? (slotKey side i)

/-- R63, R66: the canonical form of a set stands for it. -/
theorem canon_stands {s s' : State} {team side : Nat} {b : Tids} {f : SetForm}
    (h : s.canon team side b = some (f, s')) : FormStands s s' team side f b := by
  obtain ⟨hf, rfl⟩ | ⟨i, g, hi, rfl, rfl⟩ := canon_cases h
  · exact ⟨rfl, fun t ht => ⟨t, ht, rfl, inlineForm_members hf t side, fun _ _ => rfl⟩⟩
  · refine ⟨rfl, fun t ht => ?_⟩
    simp only [State.modTeam_teams, Map.get?_modify_self, ht, Option.map_some, Option.some.injEq, exists_eq_left', true_and]
    refine ⟨by simp [SetForm.members], fun j hj => Map.get?_set_of_ne _ _ fun hc => hi ?_⟩
    rwa [← slotKey_inj hc]

theorem freeSlots_eq (s : State) (team : Nat) : s.freeSlots team = { s with teams := (s.freeSlots team).teams } := by
  unfold State.freeSlots; split <;> rfl

theorem runsIn_freeSlots {s : State} {r : PathRef} {c : Ctx} {a : Act} (h : RunsIn s r c a) (team : Nat) :
    RunsIn (s.freeSlots team) r c a := by
  rw [freeSlots_eq]; exact h

/-- A slot in use survives the release of the others. -/
theorem freeSlots_team {s : State} {team : Nat} {t : Team} (ht : s.teams.get? team = some t) :
    ∃ t', (s.freeSlots team).teams.get? team = some t' ∧ t'.cores = t.cores ∧ ∀ side i, side < 2 →
      i ∈ s.slotsUsed team side → t'.slots.get? (slotKey side i) = t.slots.get? (slotKey side i) := by
  simp only [State.freeSlots, ht, State.modTeam_teams, Map.get?_modify_self, Option.map_some, Option.some.injEq,
    exists_eq_left', true_and]
  intro side i hs hi
  refine Map.get?_map_of_fixed _ (fun p => (apply_ite Prod.fst _ _ _).trans (ite_self _)) fun x => if_pos ?_
  obtain ⟨hmod, hdiv⟩ := side_of_slotKey (i := i) hs
  have used : (if side = 0 then s.slotsUsed team 0 else s.slotsUsed team 1) = s.slotsUsed team side := by
    split
    · subst_vars; rfl
    · rw [show side = 1 by omega]
  simpa only [hmod, hdiv, used, List.contains_iff_mem] using hi

theorem Team.side_congr {t t' : Team} (h : t'.cores = t.cores) (core : Nat) : t'.side core = t.side core := by
  simp only [Team.side, h]

/-- R66: the release of unused slots changes no set that a running path names. -/
theorem setIn_freeSlots {s : State} {e : Env} {c : Ctx} {a : Act} {t : Team} (hrun : RunsIn s e.ref c a)
    (hteam : c.team = e.ctx.team) (hcore : c.core = e.ctx.core) (ht : s.teams.get? e.ctx.team = some t) (k : Nat) :
    setIn (s.freeSlots e.ctx.team) e k = setIn s e k := by
  obtain ⟨t', ht', hcores, hold⟩ := freeSlots_team ht
  rw [setIn_of_runsIn (runsIn_freeSlots hrun _) ht', setIn_of_runsIn hrun ht, Team.side_congr hcores]
  refine members_congr fun i g n hi => hold _ i (Team.side_lt _ _) ?_
  rw [← hteam, ← hcore]
  exact slotsUsed_of_kr hrun (hteam ▸ ht) hi

/-! ### Writing a set register (R63, R66) -/

theorem Act.kr_setK (a : Act) (n k : Nat) (f : SetForm) : (a.setK n f).kr k = if k = n then ⟨f, true⟩ else a.kr k := by
  simp only [Act.kr, Act.setK, Map.getD, Map.get?_set]
  split <;> rfl

/-- Set register kd takes a form that stands for `b`: it names `b`, and every other set register of the path names what it
named, for the release of slots keeps those that registers name. -/
theorem setWritten_setK {s s' : State} {e : Env} {kd : Nat} {b : Tids} {f : SetForm} (he : s.env? = some e)
    (hf : FormStands s s' e.ctx.team (e.team.side e.ctx.core) f b) :
    SetWritten s ((e.retire (e.modAct s' (·.setK kd f))).freeSlots e.ctx.team) e kd b := by
  obtain ⟨hrun, hteam⟩ := env?_inv he
  obtain ⟨hs', hstands⟩ := hf
  obtain ⟨t', ht', hcores, hmem, hold⟩ := hstands _ hteam
  have hrun' : RunsIn s' e.ref e.ctx e.act := by rw [hs']; exact hrun
  obtain ⟨c, hct, hcc, hrunu⟩ := retired_runsIn hrun' (retired_modAct e s' e.next (·.setK kd f))
  have hset (k : Nat) := (setIn_freeSlots hrunu hct hcc ht' k).trans (setIn_of_runsIn hrunu ht' k)
  simp only [Team.side_congr hcores, Act.kr_goesOn, Act.kr_setK] at hset
  refine ⟨?_, fun k hk => ?_, ⟨_, (runsIn_freeSlots hrunu _).act?, ?_⟩, ?_⟩
  · exact (hset kd).trans (by rw [if_pos rfl, hmem])
  · rw [setIn_of_runsIn hrun hteam]
    refine (hset k).trans ?_
    rw [if_neg hk]
    exact members_congr fun i g n hi => hold i (slotsUsed_of_kr hrun hteam hi)
  · exact ⟨by simp [Act.kr_setK], fun k hk => by simp [Act.kr_setK, hk], rfl, rfl, rfl, rfl⟩
  · rw [freeSlots_eq, hs']
    exact ⟨rfl, rfl, rfl⟩

/-- A trace record changes no set, no register and no path. -/
theorem setWritten_record {s t : State} {e : Env} {kd : Nat} {b : Tids} (h : SetWritten s t e kd b) (kind : Nat)
    (tail : List Byte) : SetWritten s (e.record t kind tail) e kd b := by
  rw [Env.record, State.record_eq]
  exact h

/-! ### TEST and TESTB (R73, R74) -/

theorem intOf_eq_asInt (w : Nat) (signed : Bool) (x : Word) : intOf w signed x = asInt w signed (x.toNat % 2 ^ w) := by
  cases signed with
  | false => simp [intOf, asInt]
  | true =>
    simp only [intOf, asInt, signedOf, if_true, true_and]
    split <;> split <;> omega

theorem condInt_iff (c : Cond) (x y : Int) : condInt c x y = true ↔ Holds c x y := by
  cases c <;> simp [condInt, Holds]

/-- The exact number of a finite value, as a whole count of a smaller power of two. -/
theorem dyadic_eq_count (a : Bool) (m : Nat) {e h : Int} (hh : h ≤ e) :
    dyadic a m e = ((signedInt a m * 2 ^ (e - h).toNat : Int) : ℚ) * 2 ^ h := by
  have pow : (2 : ℚ) ^ e = 2 ^ (e - h).toNat * 2 ^ h := by
    rw [← zpow_natCast, Int.toNat_of_nonneg (by omega), ← zpow_add₀ two_ne_zero, sub_add_cancel]
  rw [dyadic, pow]
  cases a <;> simp [signedInt, mul_assoc]

theorem isZero_fin (a : Bool) (m : Nat) (e : Int) : (FVal.fin a m e).isZero = decide (m = 0) := by cases m <;> rfl

theorem ordered_of_isZero {x : FVal} (h : x.isZero = true) : ordered x = (0, 0) := by
  cases x with
  | nan | inf => cases h
  | fin a m e =>
    obtain rfl : m = 0 := by simpa [isZero_fin] using h
    simp [ordered, dyadic]

/-- Of two values that are no NaN and not both zero, the model's `less` is the order of the extended numbers. -/
theorem less_iff_ordered_lt {x y : FVal} (hx : x.isNan = false) (hy : y.isNan = false)
    (hz : (x.isZero && y.isZero) = false) : x.less y = true ↔ toLex (ordered x) < toLex (ordered y) := by
  rw [Prod.Lex.toLex_lt_toLex]
  cases x with
  | nan => cases hx
  | inf a =>
    cases y with
    | nan => cases hy
    | inf b => cases a <;> cases b <;> simp [FVal.less, ordered]
    | fin b n g => cases a <;> simp [FVal.less, ordered]
  | fin a m e =>
    cases y with
    | nan => cases hy
    | inf b => cases b <;> simp [FVal.less, ordered]
    | fin b n g =>
      have hz' : (decide (m = 0) && decide (n = 0)) = false := by simpa only [isZero_fin] using hz
      have pos : (0 : ℚ) < 2 ^ min e g := by positivity
      simp only [FVal.less, ordered, hz', dyadic_eq_count a m (min_le_left e g), dyadic_eq_count b n (min_le_right e g),
        mul_lt_mul_iff_left₀ pos, Int.cast_lt, decide_eq_true_eq, Bool.false_eq_true, if_false, lt_self_iff_false,
        false_or, true_and]

/-- R73: where no operand is a NaN, the model's equality is that of the numbers, so that −0 equals +0. -/
theorem equal_iff_ordered_eq {x y : FVal} (hx : x.isNan = false) (hy : y.isNan = false) :
    ((x.isZero && y.isZero) || (!x.less y && !y.less x)) = true ↔ ordered x = ordered y := by
  cases hz : x.isZero && y.isZero with
  | true =>
    obtain ⟨h1, h2⟩ := Bool.and_eq_true_iff.1 hz
    simp [ordered_of_isZero h1, ordered_of_isZero h2]
  | false =>
    have hxy := less_iff_ordered_lt hx hy hz
    have hyx := less_iff_ordered_lt hy hx (by rw [Bool.and_comm]; exact hz)
    rw [Bool.false_or, Bool.and_eq_true, Bool.not_eq_true', Bool.not_eq_true', ← Bool.not_eq_true, ← Bool.not_eq_true,
      hxy, hyx, not_lt, not_lt, ← toLex_inj]
    exact ⟨fun ⟨h1, h2⟩ => le_antisymm h2 h1, fun h => ⟨h.ge, h.le⟩⟩

/-- R73: where no operand is a NaN, the model's `lt` is the order of the numbers. -/
theorem lessNotEqual_iff_ordered_lt {x y : FVal} (hx : x.isNan = false) (hy : y.isNan = false) :
    (x.less y && !((x.isZero && y.isZero) || (!x.less y && !y.less x))) = true ↔ toLex (ordered x) < toLex (ordered y) := by
  cases hz : x.isZero && y.isZero with
  | true =>
    obtain ⟨h1, h2⟩ := Bool.and_eq_true_iff.1 hz
    simp [ordered_of_isZero h1, ordered_of_isZero h2]
  | false =>
    rw [← less_iff_ordered_lt hx hy hz]
    cases x.less y <;> simp

/-- R73: a floating comparison of the model holds where the statement's does. -/
theorem condFloat_iff (c : Cond) (x y : FVal) : condFloat c x y = true ↔ HoldsF c x y := by
  by_cases hn : x.isNan = true ∨ y.isNan = true
  · simp [condFloat, HoldsF, hn]
  · obtain ⟨hx, hy⟩ : x.isNan = false ∧ y.isNan = false := by simpa using hn
    have heq := equal_iff_ordered_eq hx hy
    have hlt := lessNotEqual_iff_ordered_lt hx hy
    have hgt : toLex (ordered y) < toLex (ordered x) ↔ ¬toLex (ordered x) < toLex (ordered y) ∧ ordered x ≠ ordered y := by
      rw [not_lt, Ne, ← toLex_inj, lt_iff_le_and_ne, ne_comm]
    simp only [condFloat, HoldsF, hx, hy, Bool.or_self, Bool.false_eq_true, if_false, or_self, ← Prod.Lex.toLex_lt_toLex]
    cases c with
    | eq => exact heq
    | ne => simp only [Bool.not_eq_true', ← Bool.not_eq_true, heq, Ne]
    | lt => exact hlt
    | le => rw [Bool.or_eq_true, hlt, heq]
    | gt => rw [Bool.and_eq_true, Bool.not_eq_true', Bool.not_eq_true', ← Bool.not_eq_true, ← Bool.not_eq_true, hlt, heq, hgt]
    | ge =>
      rw [Bool.not_eq_true', ← Bool.not_eq_true, hlt, not_lt, le_iff_lt_or_eq, toLex_inj, eq_comm (a := ordered y)]

theorem testHolds_iff (o : TestOp) (e : Env) (s : State) (tid : Nat) : testHolds o e s tid = true ↔ TestHolds o e s tid := by
  simp only [testHolds, TestHolds]
  split
  · rw [condInt_iff, intOf_eq_asInt, intOf_eq_asInt]
  · exact condFloat_iff _ _ _

theorem getLsbD_lowBits (w : Nat) (x : Word) (j : Nat) : (lowBits w x).getLsbD j = (decide (j < w) && x.getLsbD j) := by
  simp only [lowBits, BitVec.getLsbD_and, BitVec.getLsbD_ofNat, Nat.testBit_two_pow_sub_one]
  by_cases hj : j < 64
  · simp [hj, Bool.and_comm]
  · simp [BitVec.getLsbD_of_ge x j (by omega)]

theorem lowBits_eq_zero_iff (w : Nat) (x : Word) : lowBits w x = 0 ↔ ∀ j < w, x.getLsbD j = false := by
  constructor
  · intro h j hj
    have := getLsbD_lowBits w x j
    simpa [h, hj] using this.symm
  · intro h
    refine BitVec.eq_of_getLsbD_eq fun j _ => ?_
    rw [getLsbD_lowBits]
    by_cases hj : j < w <;> simp [hj, h]

theorem testbHolds_iff (o : TestOp) (e : Env) (s : State) (tid : Nat) : testbHolds o e s tid = true ↔ TestbHolds o e s tid := by
  have zero := lowBits_eq_zero_iff o.ty.width (o.a.read o.ty e s tid &&& o.b.readInt o.ty e s tid)
  simp only [BitVec.getLsbD_and] at zero
  simp only [testbHolds, TestbHolds, ← zero]
  by_cases h : o.cond = .eq <;> simp [h]

theorem exec_test (o : TestOp) (s : State) : exec (.test o) s = execCompare o (testHolds o) s := rfl
theorem exec_testb (o : TestOp) (s : State) : exec (.testb o) s = execCompare o (testbHolds o) s := rfl

/-- TEST and TESTB write the set of the executing threads for which their comparison holds. -/
theorem execCompare_writes {o : TestOp} {holds : Env → State → Nat → Bool} {s : State} {e : Env} {ts : List Nat} {b : Tids}
    (h : Executes s e o.guard (testNeeds o) ts) (hb : tidSet (ts.filter (holds e s)) = b)
    (hc : (s.canon e.ctx.team (e.team.side e.ctx.core) b).isSome = true) :
    ∃ t, execCompare o holds s = .next t ∧ SetWritten s t e o.kd.toNat b := by
  obtain ⟨⟨f, s'⟩, hf⟩ := Option.isSome_iff_exists.1 hc
  refine ⟨_, issueThreads_executes h, ?_⟩
  simp only [Env.writeSetNote, hb, hf]
  obtain ⟨⟨he, -⟩, -⟩ := h
  exact setWritten_record (setWritten_setK he (canon_stands hf)) _ _

/-! ### SCNT (R76) -/

theorem exec_scnt (o : ScntOp) (s : State) : exec (.scnt o) s = execScnt o s := rfl

/-- SCNT writes the number of all members of its set to a full register, and changes nothing else. -/
theorem execScnt_sets {o : ScntOp} {s : State} {e : Env} (h : AtIssue s e { k := [o.ka.toNat], du := [o.sd.toNat] } e.act.lanes) :
    Sets (.scnt o) s e fun a => a.setU o.sd.toNat (BitVec.ofNat 64 (tidCount (setIn s e o.ka.toNat))) := by
  rw [← set_eq_setIn h.1]
  exact ⟨_, (exec_scnt o s).trans (issuePath_ready h), rfl, retired_modAct e s e.next _,
    sameElse_retireTo e s _ _ (sameElse_modAct e s _)⟩

end Sys2Proof.Machine

namespace Sys2Proof.Proofs

open Sys2Proof.Machine Sys2Proof.Claims

/-- Settles O12: the model's comparisons are those of R73 and R74, the written form stands for the set of the threads that
meet them, and SCNT counts its set's members. -/
theorem testsAndCountsWriteTheirResult : Obligations.TestsAndCountsWriteTheirResult := by
  refine ⟨?_, ?_⟩
  · rintro i o cond (⟨rfl, rfl⟩ | ⟨rfl, rfl⟩) s e ts h b hb hc
    · rw [exec_test]
      exact execCompare_writes h (tidSet_filter_eq (testHolds_iff o e s) hb) hc
    · rw [exec_testb]
      exact execCompare_writes h (tidSet_filter_eq (testbHolds_iff o e s) hb) hc
  · intro o s e h
    rw [← tidCount_eq_length_filter]
    exact execScnt_sets h

end Sys2Proof.Proofs
end

section
/-!
SUPPORT. Long-latency results: what posting an operation that only writes registers leaves (R22, R51), and the results and flags
of DIV and REM as numbers (R111, R359).
-/

namespace Sys2Proof.Machine

open Sys2Proof.Claims

/-! ### Emptying the registers of pending results (R51) -/

/-- Several registers of a thread's file marked empty in turn. -/
def Thread.emptyAll (th : Thread) (ns : List Nat) : Thread := ns.foldl Thread.empty th

theorem Thread.lreg_empty (th : Thread) (i j : Nat) :
    (th.empty i).lreg j = if j = i then ⟨(th.lreg i).val, false⟩ else th.lreg j := by
  simp only [Thread.lreg, Thread.empty, Map.getD, Map.get?_set]
  split <;> rfl

theorem Thread.emptyAll_eq (th : Thread) (ns : List Nat) : th.emptyAll ns = { th with v := (th.emptyAll ns).v } := by
  induction ns generalizing th with
  | nil => rfl
  | cons n ns ih => exact ih (th.empty n)

theorem Thread.lreg_emptyAll_of_notMem (th : Thread) {ns : List Nat} {j : Nat} (h : j ∉ ns) :
    (th.emptyAll ns).lreg j = th.lreg j := by
  induction ns generalizing th with
  | nil => rfl
  | cons n ns ih =>
    obtain ⟨hn, hns⟩ := not_or.1 (mt List.mem_cons.2 h)
    exact (ih (th.empty n) hns).trans (by rw [Thread.lreg_empty, if_neg hn])

theorem Thread.full_emptyAll_of_mem (th : Thread) {ns : List Nat} {j : Nat} (h : j ∈ ns) :
    ((th.emptyAll ns).lreg j).full = false := by
  induction ns generalizing th with
  | nil => cases h
  | cons n ns ih =>
    by_cases hj : j ∈ ns
    · exact ih (th.empty n) hj
    · obtain rfl : j = n := by simpa [hj] using h
      exact congrArg VReg.full ((Thread.lreg_emptyAll_of_notMem (th.empty j) hj).trans (by rw [Thread.lreg_empty, if_pos rfl]))

theorem Ctx.modTop_id (c : Ctx) (slot : Nat) : c.modTop slot (fun a => a) = c := by
  have hid (l : List Act) : modHead (fun a => a) l = l := by cases l <;> rfl
  simp only [Ctx.modTop, hid, Ctx.setStack, Ctx.stack]
  split <;> rfl

theorem modAct_id_ctxs (e : Env) (s : State) : (e.modAct s fun a => a).ctxs = s.ctxs := by
  simp only [Env.modAct, State.modAct_ctxs, Ctx.modTop_id, Map.modify_id]

theorem emptyOf_cons (r : Res) (rs : List Res) (tid : Nat) : emptyOf (r :: rs) tid = emptyOf [r] tid ++ emptyOf rs tid :=
  List.filterMap_append (l := [r])

/-- Marking registers of results empty changes threads and contexts alone. -/
theorem forEach_emptyRes_eq (e : Env) (rs : List Res) (s : State) : forEach rs e.emptyRes s =
    { s with threads := (forEach rs e.emptyRes s).threads, ctxs := (forEach rs e.emptyRes s).ctxs } := by
  refine forEach_keeps (P := fun t => t = { s with threads := t.threads, ctxs := t.ctxs }) (fun t r ht => ?_) rs s rfl
  rw [ht]
  cases r <;> rfl

theorem Env.emptyRes_ctxs (e : Env) (s : State) (r : Res) : (e.emptyRes s r).ctxs = (e.modAct s (emptyIn [r])).ctxs := by
  cases r with
  | u | k => rfl
  | v | h | flags => exact (modAct_id_ctxs e s).symm

/-- Of the contexts only the running activation of the path changes. -/
theorem forEach_emptyRes_ctxs (e : Env) (rs : List Res) (s : State) :
    (forEach rs e.emptyRes s).ctxs = (e.modAct s (emptyIn rs)).ctxs := by
  induction rs generalizing s with
  | nil => exact (modAct_id_ctxs e s).symm
  | cons r rs ih =>
    refine (ih (e.emptyRes s r)).trans ?_
    simp only [Env.modAct, State.modAct_ctxs, e.emptyRes_ctxs, Map.modify_modify, Ctx.modTop_modTop]
    rfl

/-- A result that writes no path register of a thread (H). -/
def Res.NotPath (r : Res) : Prop := ∀ t n x, r ≠ .h t n x

/-- Such a result empties, of the thread under a key, what `emptyOf` lists for it. -/
theorem Env.emptyRes_get? (e : Env) (s : State) {r : Res} (hr : r.NotPath) (tid : Nat) :
    (e.emptyRes s r).threads.get? (tkey e.ctx.team tid) =
      (s.threads.get? (tkey e.ctx.team tid)).map (·.emptyAll (emptyOf [r] tid)) := by
  cases r with
  | u | k | flags => exact (congrFun Option.map_id _).symm
  | h t n x => exact absurd rfl (hr t n x)
  | v t n x =>
    by_cases ht : t = tid
    · simp [Env.emptyRes, Env.modThread, emptyOf, Thread.emptyAll, ht]
    · have hkey : tkey e.ctx.team tid ≠ tkey e.ctx.team t := fun h => ht (tkey_inj h).symm
      simp [Env.emptyRes, Env.modThread, emptyOf, Thread.emptyAll, ht, Map.get?_modify_of_ne _ _ hkey]

theorem forEach_emptyRes_get? (e : Env) {rs : List Res} (hr : ∀ r ∈ rs, r.NotPath) (s : State) (tid : Nat) :
    (forEach rs e.emptyRes s).threads.get? (tkey e.ctx.team tid) =
      (s.threads.get? (tkey e.ctx.team tid)).map (·.emptyAll (emptyOf rs tid)) := by
  induction rs generalizing s with
  | nil => exact (congrFun Option.map_id _).symm
  | cons r rs ih =>
    obtain ⟨hhead, htail⟩ := List.forall_mem_cons.1 hr
    refine (ih htail (e.emptyRes s r)).trans ?_
    rw [e.emptyRes_get? s hhead, Option.map_map, emptyOf_cons r rs]
    simp only [Thread.emptyAll, List.foldl_append, Function.comp_def]

theorem Env.emptyRes_get?_other (e : Env) (s : State) {r : Res} (hr : r.NotPath) {k : Nat}
    (hk : ∀ tid, emptyOf [r] tid ≠ [] → k ≠ tkey e.ctx.team tid) : (e.emptyRes s r).threads.get? k = s.threads.get? k := by
  cases r with
  | u | k | flags => rfl
  | h t n x => exact absurd rfl (hr t n x)
  | v t n x => exact Map.get?_modify_of_ne s.threads (·.empty n) (hk t (by simp [emptyOf]))

theorem forEach_emptyRes_get?_other (e : Env) {rs : List Res} (hr : ∀ r ∈ rs, r.NotPath) (s : State) {k : Nat}
    (hk : ∀ tid, emptyOf rs tid ≠ [] → k ≠ tkey e.ctx.team tid) :
    (forEach rs e.emptyRes s).threads.get? k = s.threads.get? k := by
  induction rs generalizing s with
  | nil => rfl
  | cons r rs ih =>
    obtain ⟨hhead, htail⟩ := List.forall_mem_cons.1 hr
    have hsplit (tid : Nat) (h : emptyOf [r] tid ≠ [] ∨ emptyOf rs tid ≠ []) : k ≠ tkey e.ctx.team tid :=
      hk tid (by rw [emptyOf_cons r rs]; simpa [imp_iff_not_or] using h)
    exact (ih htail (e.emptyRes s r) fun tid h => hsplit tid (.inr h)).trans
      (e.emptyRes_get?_other s hhead fun tid h => hsplit tid (.inl h))

/-! ### Posting (R22) -/

/-- The word of `e` retires in a state with the clock of `s` whose contexts are those of `s` but for `f` on the path. -/
theorem retired_of_ctxs {s s' : State} {e : Env} {f : Act → Act} (pc : Nat) (hc : s'.ctxs = (e.modAct s f).ctxs)
    (hcyc : s'.cycOf e.ctx.core = s.cycOf e.ctx.core) : Retired s (e.retireTo s' pc) e pc f := by
  have h := retired_modAct e s pc f
  simp only [Retired, Env.retireTo, Env.goto, Env.modAct, State.modAct, State.modCtx] at h hc ⊢
  rw [hc, hcyc]
  exact h

/-- The state with an operation that only writes registers posted, its registers not yet empty. -/
def Env.posting (e : Env) (s : State) (w : Work) (rs : List Res) : State :=
  { s with pend := s.pend.set s.nextId { e.newOp s w with res := rs }, nextId := s.nextId + 1 }

theorem pending_eq_forEach (e : Env) (s : State) (w : Work) (rs : List Res) :
    e.pending s w rs = forEach rs e.emptyRes (e.posting s w rs) := rfl

/-- An operation that only writes registers of activations and threads' windows, and flags, is posted as `Posted` says. -/
theorem posted_pending (e : Env) (s : State) (w : Work) {rs : List Res} (hr : ∀ r ∈ rs, r.NotPath) :
    Posted s (e.retire (e.pending s w rs)) e w rs := by
  have heq := forEach_emptyRes_eq e rs (e.posting s w rs)
  have hget := forEach_emptyRes_get? e hr (e.posting s w rs)
  have hother (k : Nat) := forEach_emptyRes_get?_other e hr (e.posting s w rs) (k := k)
  have hctxs := forEach_emptyRes_ctxs e rs (e.posting s w rs)
  rw [← pending_eq_forEach] at heq hget hctxs
  refine ⟨⟨_, congrArg State.pend heq, rfl, rfl, rfl, rfl, rfl⟩, congrArg State.nextId heq, fun tid th hth => ?_, hother, ?_, ?_⟩
  · refine ⟨_, (hget tid).trans (congrArg _ hth), fun n hn => ?_, fun n hn => ?_, ?_⟩
    · exact Thread.full_emptyAll_of_mem th hn
    · exact Thread.lreg_emptyAll_of_notMem th hn
    · exact Thread.emptyAll_eq th _
  · exact retired_of_ctxs _ hctxs (by rw [heq]; rfl)
  · have hret : SameDevice (e.pending s w rs) (e.retire (e.pending s w rs)) := (sameElse_retireTo e _ _ _ (sameElse_refl _)).1
    rw [heq] at hret ⊢
    exact hret

/-! ### Results as numbers (R109) -/

theorem width_le_64 (ty : Ty) : ty.width ≤ 64 := by cases ty <;> decide

theorem lowBits_eq_ofNat (w : Nat) (x : Word) : lowBits w x = BitVec.ofNat 64 (x.toNat % 2 ^ w) := by
  refine BitVec.eq_of_getLsbD_eq fun j hj => ?_
  rw [getLsbD_lowBits, BitVec.getLsbD_ofNat, Nat.testBit_mod_two_pow]
  simp [hj, BitVec.testBit_toNat]

/-- The extension of a word by a type is the number that the type reads there. -/
theorem extend_eq_intOf (w : Nat) (signed : Bool) (x : Word) : extend w signed x = BitVec.ofInt 64 (intOf w signed x) := by
  cases signed with
  | true => rfl
  | false => exact (lowBits_eq_ofNat w x).trans (BitVec.ofInt_natCast 64 _).symm

theorem toNat_ofInt_mod {w : Nat} (hw : w ≤ 64) (n : Int) : (BitVec.ofInt 64 n).toNat % 2 ^ w = (n % 2 ^ w).toNat := by
  have hdvd : (2 : Int) ^ w ∣ 2 ^ 64 := pow_dvd_pow 2 hw
  have h64 : (0 : Int) ≤ n % 2 ^ 64 := Int.emod_nonneg _ (by norm_num)
  have hmod : (0 : Int) ≤ n % 2 ^ w := Int.emod_nonneg _ (by positivity)
  rw [BitVec.toNat_ofInt, ← Int.natCast_inj, Int.toNat_of_nonneg hmod, Int.natCast_mod]
  exact (congrArg (· % _) (Int.toNat_of_nonneg h64)).trans (Int.emod_emod_of_dvd n (by exact_mod_cast hdvd))

theorem extend_ofInt (ty : Ty) (n : Int) : extend ty.width ty.signed (BitVec.ofInt 64 n) = extended ty n := by
  rw [extend_eq_intOf, intOf_eq_asInt, toNat_ofInt_mod (width_le_64 ty), extended]

/-- What a type reads differs from the number by a multiple of 2^w. -/
theorem asInt_emod (w : Nat) (signed : Bool) (n : Nat) : asInt w signed n % 2 ^ w = n % 2 ^ w := by
  unfold asInt
  split
  · exact Int.sub_emod_right _ _
  · rfl

/-- R109: 64 bits are all of the number. -/
theorem extended_of_is64 {ty : Ty} (h : ty.is64 = true) (n : Int) : extended ty n = BitVec.ofInt 64 n := by
  have hw : ty.width = 64 := by cases ty <;> simp_all [Ty.is64, Ty.width]
  apply BitVec.eq_of_toNat_eq
  have h64 : (0 : Int) ≤ n % 2 ^ 64 := Int.emod_nonneg _ (by norm_num)
  have hread := asInt_emod 64 ty.signed (n % 2 ^ 64).toNat
  rw [Int.toNat_of_nonneg h64, Int.emod_emod] at hread
  rw [extended, hw, BitVec.toNat_ofInt, BitVec.toNat_ofInt]
  exact congrArg Int.toNat hread

/-- The model's results of an integer are the lanes of its rule's number. -/
theorem Env.resV_ofInt (e : Env) (s : State) (ty : Ty) (tid d : Nat) (n : Int) :
    e.resV s ty tid d (BitVec.ofInt 64 n) = resultsOf e s ty tid d (extended ty n) := by
  unfold Env.resV resultsOf lanesOf
  cases h : ty.is64 with
  | true => rw [extended_of_is64 h]; rfl
  | false => rw [extend_ofInt]; rfl

/-! ### Division (R111, R359) -/

/-- The model divides the numbers as R111 has it: its remainder is x − y·(x / y), the quotient toward zero. -/
theorem divide_eq_divRule (w : Nat) (signed : Bool) (x y : Word) :
    divide w signed x y = divRule w signed (intOf w signed x) (intOf w signed y) := by
  simp only [divide, divRule, Int.tmod_def, Bool.and_eq_true, decide_eq_true_eq, and_assoc, ge_iff_le]
  rfl

/-- The number of R111 that DIV or REM writes for a thread, or for the path, with its flags. -/
def divNumber (o : Arith) (rem : Bool) (e : Env) (s : State) (tid : Nat) : Int × BitVec 32 :=
  let r := argsOf o e s tid
  let d := divRule r.w r.signed r.sx r.sy
  (if rem then d.2.1 else d.1, d.2.2)

theorem divOf_eq_divNumber (o : Arith) (rem : Bool) (e : Env) (s : State) (tid : Nat) :
    divOf o rem e s tid = (extended o.ty (divNumber o rem e s tid).1, (divNumber o rem e s tid).2) := rfl

theorem divValue_eq_divNumber (o : Arith) (rem : Bool) (e : Env) (s : State) (tid : Nat) :
    divValue o rem e s tid = (BitVec.ofInt 64 (divNumber o rem e s tid).1, (divNumber o rem e s tid).2) := by
  simp only [divValue, divide_eq_divRule, intOf_eq_asInt]
  rfl

/-- What DIV or REM writes for an executing thread. -/
def divResults (o : Arith) (rem : Bool) (e : Env) (s : State) (tid : Nat) : List Res :=
  resultsOf e s o.ty tid o.d.toNat (divOf o rem e s tid).1 ++ [.flags tid (divOf o rem e s tid).2]

/-- What the uniform form of DIV or REM writes. -/
def divResultsU (o : Arith) (rem : Bool) (e : Env) (s : State) : List Res :=
  .u o.d.toNat (divOf o rem e s 0).1 :: e.act.lanes.map fun tid => .flags tid (divOf o rem e s 0).2

theorem notPath_divResults (o : Arith) (rem : Bool) (e : Env) (s : State) (tid : Nat) :
    ∀ r ∈ divResults o rem e s tid, r.NotPath := by
  rintro _ hr t n x rfl
  simp [divResults, resultsOf] at hr

theorem notPath_divResultsU (o : Arith) (rem : Bool) (e : Env) (s : State) : ∀ r ∈ divResultsU o rem e s, r.NotPath := by
  rintro _ hr t n x rfl
  simp [divResultsU] at hr

theorem resV_divValue (o : Arith) (rem : Bool) (e : Env) (s : State) (tid : Nat) :
    e.resV s o.ty tid o.d.toNat (divValue o rem e s tid).1 ++ [.flags tid (divValue o rem e s tid).2] =
      divResults o rem e s tid := by
  simp only [divResults, divValue_eq_divNumber, divOf_eq_divNumber, Env.resV_ofInt]

theorem u_divValue (o : Arith) (rem : Bool) (e : Env) (s : State) :
    (.u o.d.toNat (extend o.ty.width o.ty.signed (divValue o rem e s 0).1) ::
      e.held.map fun tid => .flags tid (divValue o rem e s 0).2) = divResultsU o rem e s := by
  simp only [divResultsU, divValue_eq_divNumber, divOf_eq_divNumber, extend_ofInt, Env.held]

/-- A division per thread posts the results of its executing threads. -/
theorem execDivide_threads {o : Arith} {s : State} {e : Env} {ts : List Nat} (rem : Bool) (hu : o.uform = false)
    (h : Executes s e o.guard o.needs ts) :
    ∃ t, execDivide o rem s = .next t ∧ Posted s t e .latency (ts.flatMap (divResults o rem e s)) := by
  refine ⟨_, ?_, posted_pending e s .latency fun r hr => ?_⟩
  · rw [← funext (resV_divValue o rem e s), execDivide, if_neg (by simp [hu]), issueThreads_executes h]
  · obtain ⟨tid, -, htid⟩ := List.mem_flatMap.1 hr
    exact notPath_divResults o rem e s tid r htid

/-- The uniform division posts its path's result. -/
theorem execDivide_path {o : Arith} {s : State} {e : Env} (rem : Bool) (hu : o.uform = true)
    (h : AtIssue s e o.needs e.act.lanes) :
    ∃ t, execDivide o rem s = .next t ∧ Posted s t e .latency (divResultsU o rem e s) := by
  refine ⟨_, ?_, posted_pending e s .latency (notPath_divResultsU o rem e s)⟩
  rw [← u_divValue, execDivide, if_pos hu, issuePath_ready h]

theorem exec_div (o : Arith) (s : State) : exec (.div o) s = execDivide o false s := rfl
theorem exec_rem (o : Arith) (s : State) : exec (.rem o) s = execDivide o true s := rfl

end Sys2Proof.Machine

namespace Sys2Proof.Proofs

open Sys2Proof.Machine Sys2Proof.Claims

/-- Settles O2: both forms of DIV and REM post what R111 gives; posting leaves the destinations empty. -/
theorem divisionPostsRuleResult : Obligations.DivisionPostsRuleResult := by
  rintro i o rem (⟨rfl, rfl⟩ | ⟨rfl, rfl⟩)
  · simp only [exec_div]
    exact ⟨fun _ _ _ => execDivide_threads false, fun _ _ => execDivide_path false⟩
  · simp only [exec_rem]
    exact ⟨fun _ _ _ => execDivide_threads true, fun _ _ => execDivide_path true⟩

end Sys2Proof.Proofs
end

section
/-!
SUPPORT. Boot, status and shutdown: what one record's change leaves of the others (dies, cores, rings), a SYNC record in bytes
(R292), a change of clock (R294, R312), kills one after another (R276, R312), the bits of DSTAT (R303).
-/

namespace Sys2Proof.Machine

open Sys2Proof.Claims

/-! ### Records of dies, cores and rings -/

theorem State.die_modDie (s : State) (d c : Nat) (f : Die → Die) :
    (s.modDie d f).die c = if c = d then f (s.die d) else s.die c := by
  simp only [State.die, State.modDie_dies, Map.getD, Map.get?_set]
  split <;> rfl

theorem State.core_modCore (s : State) (c j : Nat) (f : Core → Core) :
    (s.modCore c f).core j = if j = c then f (s.core c) else s.core j := by
  simp only [State.core, State.modCore_cores, Map.getD, Map.get?_set]
  split <;> rfl

theorem State.core_of_get? {s : State} {c : Nat} {k : Core} (h : s.cores.get? c = some k) : s.core c = k := by
  simp [State.core, Map.getD, h]

theorem onlyDie_modDie (s : State) (d : Nat) (f : Die → Die) : OnlyDie s (s.modDie d f) d f :=
  ⟨rfl, by simp [State.die_modDie], fun c hc => by simp [State.die_modDie, hc]⟩

theorem onlyHub_modHub {s : State} {f g : Hub → Hub} (h : g s.hub = f s.hub) : OnlyHub s (s.modHub g) f := by
  rw [OnlyHub, ← h]; rfl

theorem State.ringOf_modRing (s : State) (r q : RingRef) (f : Ring → Ring) :
    (s.modRing r f).ringOf q = if q = r then f (s.ringOf r) else s.ringOf q := by
  cases r with
  | hub => cases q <;> rfl
  | core c =>
    cases q with
    | hub => rfl
    | core j =>
      simp only [State.modRing, State.ringOf, State.core_modCore, RingRef.core.injEq]
      split <;> rfl

theorem ringIs_modRing (s : State) (r : RingRef) (f : Ring → Ring) : RingIs s (s.modRing r f) r (f (s.ringOf r)) := by
  refine ⟨by simp [State.ringOf_modRing], fun q hq => by simp [State.ringOf_modRing, hq], ?_⟩
  cases r <;> exact ⟨rfl, rfl, rfl, rfl, rfl, rfl, rfl⟩

theorem mem_insertNat {a x : Nat} {l : List Nat} : a ∈ insertNat x l ↔ a = x ∨ a ∈ l := by
  induction l with
  | nil => simp [insertNat]
  | cons y r ih =>
    simp only [insertNat]
    split
    · simp
    · simp only [List.mem_cons, ih]; exact or_left_comm

/-! ### Device reset (R298) -/

/-- Cells that are kept are read as before. -/
theorem memRead_filter (m : List Host.Cell) {p : Nat → Bool} {k : Nat} (hk : p k = true) :
    memRead (m.filter fun c => p c.1) k = memRead m k := by
  induction m with
  | nil => rfl
  | cons c r ih =>
    obtain ⟨a, b⟩ := c
    by_cases hka : k = a
    · subst hka; simp [memRead, hk]
    · by_cases ha : p a = true <;> simp [memRead, ha, hka, ih]

/-- R298: a reset of the device leaves host memory. -/
theorem memRead_hostCells (m : List Host.Cell) {k : Nat} (hlo : 2 ^ 48 ≤ k) (hhi : k < 2 ^ 49) :
    memRead (m.filter fun c => decide (2 ^ 48 ≤ c.1) && decide (c.1 < 2 ^ 49)) k = memRead m k :=
  memRead_filter m (p := fun k => decide (2 ^ 48 ≤ k) && decide (k < 2 ^ 49)) (by simp only [hlo, hhi, decide_true, Bool.and_self])

theorem exec_deviceReset (s : State) : exec .deviceReset s = execDeviceReset s := rfl

/-! ### Firmware and the stages of boot (R298 to R301) -/

theorem exec_firmwareVerify (s : State) : exec .firmwareVerify s = execFirmwareVerify s := rfl
theorem exec_firmwareNvmeWrite (s : State) : exec .firmwareNvmeWrite s = execFirmwareNvmeWrite s := rfl
theorem exec_mgmtKernelStart (k : KernelSetup) (s : State) : exec (.mgmtKernelStart k) s = execMgmtKernelStart k s := rfl
theorem exec_reducedServiceBegin (s : State) : exec .reducedServiceBegin s = execReducedServiceBegin s := rfl
theorem exec_stackCalibration (s : State) : exec .stackCalibration s = execStackCalibration s := rfl
theorem exec_fullServiceBegin (s : State) : exec .fullServiceBegin s = execFullServiceBegin s := rfl

theorem Hub.accepts_iff (h : Hub) (f : FwImage) : h.accepts f = true ↔ f.sigOk = true ∧ h.fuseVersion ≤ f.version := by
  simp [Hub.accepts]

theorem windowOk_iff (n : Nat) : windowOk n = true ↔ n ≤ 256 ∧ n % 32 = 0 := by simp [windowOk]

/-- The image of NVMe is accepted. -/
theorem execFirmwareVerify_boots {s : State} {f : FwImage} (hs : s.hub.stage = 1) (hf : s.hub.nvme = some f)
    (hok : s.hub.accepts f = true) :
    ∃ t, execFirmwareVerify s = .next t ∧ OnlyHub s t fun h => h.boot f false :=
  ⟨_, if_neg (by simp [hs]), onlyHub_modHub (by simp [hf, hok])⟩

/-- There is no image on NVMe, or none that is accepted. -/
theorem execFirmwareVerify_recovers {s : State} (hs : s.hub.stage = 1)
    (h : ∀ f, s.hub.nvme = some f → ¬s.hub.accepts f = true) :
    ∃ t, execFirmwareVerify s = .next t ∧ OnlyHub s t fun h => { h with service := .recovery } := by
  refine ⟨_, if_neg (by simp [hs]), onlyHub_modHub ?_⟩
  cases hf : s.hub.nvme with
  | none => rfl
  | some f => simp [h f hf]

theorem execRecoveryDoorbell_boots {s : State} {f : FwImage} (hs : s.hub.service = .recovery)
    (hok : s.hub.accepts f = true) :
    ∃ t, execRecoveryDoorbell f s = .next t ∧ OnlyHub s t fun h => { h with window := some f }.boot f true :=
  ⟨_, if_neg (by simp [hs]), onlyHub_modHub (if_pos hok)⟩

theorem execRecoveryDoorbell_rejects {s : State} {f : FwImage} (hs : s.hub.service = .recovery)
    (hno : ¬s.hub.accepts f = true) :
    ∃ t, execRecoveryDoorbell f s = .next t ∧ OnlyHub s t fun h => { h with window := some f } :=
  ⟨_, if_neg (by simp [hs]), onlyHub_modHub (if_neg hno)⟩

theorem execFirmwareNvmeWrite_writes {s : State} (hr : s.hub.recoveryImage = true) (hs : 3 ≤ s.hub.stage) :
    ∃ t, execFirmwareNvmeWrite s = .next t ∧ OnlyHub s t fun h => { h with nvme := h.window } :=
  ⟨_, if_pos (by simp [hr, hs]), onlyHub_modHub rfl⟩

/-- R14, R174, R301: stage 3 takes over the settings of the management kernel and locks its K bits. -/
theorem execMgmtKernelStart_starts {s : State} {k : KernelSetup} (hs : s.hub.stage = 2) (hw : windowOk k.windowMiB = true) :
    ∃ t, execMgmtKernelStart k s = .next t ∧ t = { s with hub := t.hub, mem := t.mem } ∧ t.mem = locked s.mem k.kBits ∧
      t.hub = { s.hub with stage := 3, windowMiB := k.windowMiB, queues := k.roots, peerRoot := k.peerRoot, kBits := k.kBits,
                           measured := s.hub.measured ++ [k.configMeasure, k.remapMeasure] } :=
  ⟨_, if_neg (by simp [hs, hw]), rfl, rfl, rfl⟩

theorem execStackCalibration_calibrates {s : State} (hs : s.hub.stage = 4) :
    ∃ t, execStackCalibration s = .next t ∧ OnlyHub s t fun h => { h with stage := 5 } :=
  ⟨_, if_neg (by simp [hs]), onlyHub_modHub rfl⟩

/-- R298: a step of boot does nothing in another stage than the one that it ends. -/
theorem exec_of_other_stage {s : State} {k : KernelSetup} {i : Instr} {n : Nat}
    (hi : i = .firmwareVerify ∧ n = 1 ∨ i = .mgmtKernelStart k ∧ n = 2 ∨ i = .reducedServiceBegin ∧ n = 3 ∨
      i = .stackCalibration ∧ n = 4 ∨ i = .fullServiceBegin ∧ n = 5) (hn : s.hub.stage ≠ n) : exec i s = .next s := by
  obtain ⟨rfl, rfl⟩ | ⟨rfl, rfl⟩ | ⟨rfl, rfl⟩ | ⟨rfl, rfl⟩ | ⟨rfl, rfl⟩ := hi
  · rw [exec_firmwareVerify, execFirmwareVerify, if_pos hn]
  · rw [exec_mgmtKernelStart, execMgmtKernelStart, if_pos (by simp [hn])]
  · rw [exec_reducedServiceBegin, execReducedServiceBegin, if_pos hn]
  · rw [exec_stackCalibration, execStackCalibration, if_pos hn]
  · rw [exec_fullServiceBegin, execFullServiceBegin, if_pos hn]

/-! ### SYNC records (R292, R294) -/

/-- The number that stands behind i bytes. -/
theorem partOf_natLE {a : List Byte} {i : Nat} (hi : a.length = i) (x n : Nat) (b : List Byte) :
    partOf (a ++ (natLE x n ++ b)) i n = x % 256 ^ n := by
  rw [partOf, ← hi, List.drop_left, List.take_left' (length_natLE x n), leNat_natLE]

theorem isSync_syncRecord (ticks cyc : Nat) : IsSync (syncRecord ticks cyc) ticks cyc := by
  refine ⟨rfl, rfl, fun prev => ?_⟩
  have hbytes : (syncRecord ticks cyc).bytes prev =
      natLE (15 * 2 ^ 28) 4 ++ (natLE 0 4 ++ (natLE (10 * ticks) 8 ++ (natLE cyc 8 ++ []))) := by
    simp [syncRecord, TraceRec.bytes, TraceRec.base]
  rw [hbytes]
  refine ⟨by simp, partOf_natLE (a := []) rfl _ 4 _, partOf_natLE (length_natLE _ 4) 0 4 _, ?_, ?_⟩
  · rw [← List.append_assoc]
    exact partOf_natLE (by simp) (10 * ticks) 8 _
  · rw [← List.append_assoc, ← List.append_assoc]
    exact partOf_natLE (by simp) cyc 8 _

/-- A SYNC record is appended where the write page has room and no LOSS record is due. -/
theorem Ring.sync_of_room {r : Ring} (hd : r.lossDue = none) (hr : pageUsed r.page + 24 ≤ 4096) (ticks cyc : Nat) :
    r.sync ticks cyc = { r with data := r.data.set r.write (r.page ++ [syncRecord ticks cyc]) } := by
  rw [Ring.sync, if_neg (by simp [hd]), if_neg (by omega)]
  rfl

/-- A core's ring brought up to now, with its SYNC record. -/
def State.syncedRing (s : State) (c : Nat) : Ring :=
  (s.ringUp (dieOf c) (s.core c).ring).sync s.ticks (s.cycTick (dieOf c) s.ticks)

/-- A ring's SYNC record changes rings alone. -/
theorem State.syncRing_eq (s : State) (r : RingRef) : s.syncRing r =
    { s with cores := (s.syncRing r).cores, hub := { s.hub with ring := (s.syncRing r).hub.ring } } := by
  unfold State.syncRing
  split
  · cases r <;> rfl
  · rfl

theorem State.core_syncRing (s : State) (c j : Nat) : (s.syncRing (.core c)).core j =
    if j = c ∧ (s.die (dieOf c)).ringsOn = true then { s.core c with ring := s.syncedRing c } else s.core j := by
  by_cases hon : (s.die (dieOf c)).ringsOn = true
  · simp [State.syncRing, State.ringOn, hon, State.modRing, State.core_modCore, State.syncedRing, ringDie]
  · simp [State.syncRing, State.ringOn, hon]

@[simp] theorem State.syncRing_die (s : State) (r : RingRef) (d : Nat) : (s.syncRing r).die d = s.die d := by
  rw [State.syncRing_eq]; rfl

theorem State.syncedRing_syncRing_of_ne (s : State) {c j : Nat} (h : j ≠ c) :
    (s.syncRing (.core c)).syncedRing j = s.syncedRing j := by
  rw [State.syncedRing, State.core_syncRing, if_neg (by simp [h]), State.syncRing_eq]
  rfl

/-- Rings of cores take their SYNC records in turn. -/
def State.syncCores (s : State) (cs : List Nat) : State := forEach cs (fun s c => s.syncRing (.core c)) s

theorem State.syncCores_core_of_notMem (s : State) {cs : List Nat} {j : Nat} (h : j ∉ cs) :
    (s.syncCores cs).core j = s.core j := by
  induction cs generalizing s with
  | nil => rfl
  | cons c cs ih =>
    obtain ⟨hne, hcs⟩ := not_or.1 (List.mem_cons.not.1 h)
    exact (ih (s.syncRing (.core c)) hcs).trans (by simp [State.core_syncRing, hne])

/-- Each enabled ring of a core that is listed once is the synced one. -/
theorem State.syncCores_ring (s : State) {cs : List Nat} (hn : cs.Nodup) {j : Nat} (hj : j ∈ cs)
    (hon : (s.die (dieOf j)).ringsOn = true) : ((s.syncCores cs).core j).ring = s.syncedRing j := by
  induction cs generalizing s with
  | nil => cases hj
  | cons c cs ih =>
    obtain ⟨hc, hcs⟩ := List.nodup_cons.1 hn
    obtain rfl | hj := List.mem_cons.1 hj
    · refine (congrArg Core.ring ((s.syncRing (.core j)).syncCores_core_of_notMem hc)).trans ?_
      rw [State.core_syncRing, if_pos ⟨rfl, hon⟩]
    · have hne : j ≠ c := fun h => hc (h ▸ hj)
      exact (ih (s.syncRing (.core c)) hcs hj (by simpa using hon)).trans (s.syncedRing_syncRing_of_ne hne)

theorem State.syncCores_eq (s : State) (cs : List Nat) : s.syncCores cs = { s with cores := (s.syncCores cs).cores } := by
  refine forEach_keeps (P := fun t => t = { s with cores := t.cores }) (fun t c ht => ?_) cs s rfl
  rw [ht, State.syncRing]
  split <;> rfl

/-- The rings of dies take their SYNC records, the hub's with die 0. -/
def State.syncDies (s : State) (dies : List Nat) : State :=
  let u := s.syncCores ((s.cores.filter fun p => dies.contains (dieOf p.1)).map Prod.fst)
  if dies.contains 0 then u.syncRing .hub else u

theorem State.syncDies_eq (s : State) (dies : List Nat) : s.syncDies dies =
    { s with cores := (s.syncDies dies).cores, hub := { s.hub with ring := (s.syncDies dies).hub.ring } } := by
  unfold State.syncDies
  split
  · rw [State.syncRing_eq, State.syncCores_eq]
  · rw [State.syncCores_eq]

/-- The hub's ring, not enabled without a record, is as it was. -/
theorem State.syncDies_hub_ring {s : State} (h : s.hub.ring.data = []) (dies : List Nat) :
    (s.syncDies dies).hub.ring = s.hub.ring := by
  unfold State.syncDies
  split
  · rw [State.syncCores_eq]; simp [State.syncRing, State.ringOn, h]
  · rw [State.syncCores_eq]

theorem State.syncDies_core (s : State) (dies : List Nat) (c : Nat) : (s.syncDies dies).core c =
    (s.syncCores ((s.cores.filter fun p => dies.contains (dieOf p.1)).map Prod.fst)).core c := by
  unfold State.syncDies
  split
  · rw [State.syncRing]; split <;> rfl
  · rfl

/-- R294: an enabled ring of a die that is listed has its SYNC record of this tick. -/
theorem State.syncDies_ring {s : State} {dies : List Nat} {c : Nat} {k : Core} (hk : s.cores.get? c = some k)
    (hd : dieOf c ∈ dies) (hon : (s.die (dieOf c)).ringsOn = true) (hn : (s.cores.map Prod.fst).Nodup) :
    ((s.syncDies dies).core c).ring = s.syncedRing c := by
  rw [State.syncDies_core]
  refine s.syncCores_ring (hn.sublist (List.filter_sublist.map Prod.fst)) ?_ hon
  exact List.mem_map.2 ⟨(c, k), List.mem_filter.2 ⟨Map.mem_of_get? hk, by simpa using hd⟩, rfl⟩

/-! ### A change of clock (R297, R312) -/

/-- A die's clock changes; its cycle count goes on from what it is. -/
def State.retimeDie (s : State) (mhz d : Nat) : State :=
  s.modDie d fun x => { x with mhz := mhz, countAt := s.cyc d, tickAt := s.tick }

def State.retime (s : State) (dies : List Nat) (mhz : Nat) : State := forEach dies (fun s d => s.retimeDie mhz d) s

theorem State.setClock_eq (s : State) (dies : List Nat) (mhz : Nat) :
    s.setClock dies mhz = (s.syncDies dies).retime dies mhz := rfl

theorem State.retime_eq (s : State) (dies : List Nat) (mhz : Nat) :
    s.retime dies mhz = { s with dies := (s.retime dies mhz).dies } :=
  forEach_keeps (P := fun t => t = { s with dies := t.dies }) (fun t d ht => by rw [ht]; rfl) dies s rfl

theorem State.cyc_retimeDie (s : State) (mhz d c : Nat) : (s.retimeDie mhz d).cyc c = s.cyc c := by
  by_cases h : c = d
  · subst h; simp [State.retimeDie, State.cyc, State.die_modDie]
  · simp [State.retimeDie, State.cyc, State.die_modDie, h]

theorem State.cyc_retime (s : State) (dies : List Nat) (mhz c : Nat) : (s.retime dies mhz).cyc c = s.cyc c :=
  forEach_same (fun s => s.cyc c) (fun s d => s.cyc_retimeDie mhz d c) dies s

theorem State.die_retime_of_notMem (s : State) {dies : List Nat} (mhz : Nat) {d : Nat} (h : d ∉ dies) :
    (s.retime dies mhz).die d = s.die d := by
  induction dies generalizing s with
  | nil => rfl
  | cons c dies ih =>
    obtain ⟨hne, hds⟩ := not_or.1 (List.mem_cons.not.1 h)
    exact (ih (s.retimeDie mhz c) hds).trans (by simp [State.retimeDie, State.die_modDie, hne])

theorem State.mhz_retime (s : State) {dies : List Nat} (mhz : Nat) {d : Nat} (h : d ∈ dies) :
    ((s.retime dies mhz).die d).mhz = mhz := by
  induction dies generalizing s with
  | nil => cases h
  | cons c dies ih =>
    by_cases hds : d ∈ dies
    · exact ih (s.retimeDie mhz c) hds
    · obtain rfl : d = c := by simpa [hds] using h
      refine (congrArg (fun x : Die => x.mhz) ((s.retimeDie mhz d).die_retime_of_notMem mhz hds)).trans ?_
      simp [State.retimeDie, State.die_modDie]

/-- R294, R297, R312: a change of clock is what `Clocked` says. -/
theorem clocked_setClock (s : State) (dies : List Nat) (mhz : Nat) : Clocked s (s.setClock dies mhz) dies mhz := by
  have hu := s.syncDies_eq dies
  have ht := (s.syncDies dies).retime_eq dies mhz
  have hdie (d : Nat) : (s.syncDies dies).die d = s.die d := by rw [hu]; rfl
  have hcyc (d : Nat) : (s.syncDies dies).cyc d = s.cyc d := by rw [hu]; rfl
  rw [State.setClock_eq]
  refine ⟨by rw [ht, hu], by rw [ht, hu], by rw [ht, hu], by rw [ht, hu], by rw [ht, hu], by rw [ht, hu], fun d hd => ?_,
    fun d hd => ?_, fun c k hk hd hon hn hloss hroom => ?_⟩
  · exact ⟨State.mhz_retime _ mhz hd, (State.cyc_retime _ dies mhz d).trans (hcyc d)⟩
  · exact (State.die_retime_of_notMem _ mhz hd).trans (hdie d)
  · refine ⟨_, isSync_syncRecord _ _, ?_⟩
    have hcore : ((s.syncDies dies).retime dies mhz).core c = (s.syncDies dies).core c := by rw [ht]; rfl
    rw [hcore, State.syncDies_ring hk hd hon hn, State.syncedRing, State.core_of_get? hk]
    exact Ring.sync_of_room hloss hroom _ _

theorem State.setClock_hub (s : State) (dies : List Nat) (mhz : Nat) :
    (s.setClock dies mhz).hub = { s.hub with ring := (s.setClock dies mhz).hub.ring } := by
  rw [State.setClock_eq, State.retime_eq, State.syncDies_eq]

theorem State.setClock_hub_ring {s : State} (h : s.hub.ring.data = []) (dies : List Nat) (mhz : Nat) :
    (s.setClock dies mhz).hub.ring = s.hub.ring := by
  rw [State.setClock_eq, State.retime_eq]
  exact State.syncDies_hub_ring h dies

/-- R298, R299: a service begins, with the clock of all dies. -/
theorem service_begins (s : State) (stage mhz : Nat) (x : Service) :
    let t := (s.modHub fun h => { h with stage := stage, service := x }).setClock [0, 1, 2, 3] mhz
    Clocked s t [0, 1, 2, 3] mhz ∧ t.hub = { s.hub with stage := stage, service := x, ring := t.hub.ring } ∧
      (s.hub.ring.data = [] → t.hub.ring = s.hub.ring) := by
  have hc := clocked_setClock (s.modHub fun h => { h with stage := stage, service := x }) [0, 1, 2, 3] mhz
  exact ⟨hc, State.setClock_hub _ _ _, fun h =>
    State.setClock_hub_ring (s := s.modHub fun h => { h with stage := stage, service := x }) h _ _⟩

/-! ### CLOCK_STEP (R312) -/

theorem clockStepOk_iff (old new : Nat) : clockStepOk old new = true ↔
    800 ≤ new ∧ new ≤ 1600 ∧ new % 100 = 0 ∧ (new = old + 100 ∨ old = new + 100) := by
  simp [clockStepOk, and_assoc]

/-- The dies that run below the full clock, after a step of one die's. -/
def throttledAfter (d mhz : Nat) (l : List Nat) : List Nat :=
  if mhz < 1600 then insertNat d (l.filter (· ≠ d)) else l.filter (· ≠ d)

theorem mem_throttledAfter (d mhz : Nat) (l : List Nat) (c : Nat) :
    c ∈ throttledAfter d mhz l ↔ if c = d then mhz < 1600 else c ∈ l := by
  unfold throttledAfter
  by_cases hm : mhz < 1600 <;> by_cases hc : c = d <;> simp [hm, hc, mem_insertNat]

theorem execClockStep_refused {s : State} {d mhz : Nat}
    (h : ¬(s.hub.service = .full ∧ clockStepOk (s.die d).mhz mhz = true)) : execClockStep d mhz s = .next s :=
  if_pos (by rw [not_and_or, Bool.not_eq_true] at h; simpa using h)

theorem execClockStep_clocks {s : State} {d mhz : Nat} (hs : s.hub.service = .full)
    (h : clockStepOk (s.die d).mhz mhz = true) :
    ∃ t, execClockStep d mhz s = .next t ∧ Clocked s t [d] mhz ∧ (d ∈ t.hub.throttled ↔ mhz < 1600) ∧
      ∀ c, c ≠ d → (c ∈ t.hub.throttled ↔ c ∈ s.hub.throttled) := by
  have hthr (c : Nat) : c ∈ throttledAfter d mhz (s.setClock [d] mhz).hub.throttled ↔
      if c = d then mhz < 1600 else c ∈ s.hub.throttled := by
    rw [mem_throttledAfter, State.setClock_hub]
  exact ⟨_, if_neg (by simp [hs, h]), clocked_setClock s [d] mhz, (hthr d).trans (by simp),
    fun c hc => (hthr c).trans (by simp [hc])⟩

/-! ### STACK_SHUTDOWN (R312) -/

/-- A launch that was `y` is killed with a STATUS, and the management kernel has been told (R276). -/
def KilledWith (s : State) (l status : Nat) (y : Launch) : Prop :=
  s.launches.get? l = some { y with killed := some status, status := status } ∧
  ∃ r ∈ s.hub.reports, r.launch = l ∧ r.cause = status

/-- What a kill can do: nothing, where there is no such launch or it is killed already; else its launch is marked and reported. -/
theorem State.kill_cases (s : State) (l status code : Nat) (w : Word) :
    ((∀ y, s.launches.get? l = some y → y.killed ≠ none) ∧ s.kill l status code w = s) ∨
    ∃ y, s.launches.get? l = some y ∧ y.killed = none ∧
      (s.kill l status code w).launches = s.launches.set l { y with killed := some status, status := status } ∧
      (s.kill l status code w).hub.reports = s.hub.reports ++ [⟨l, status, code, w⟩] := by
  cases hy : s.launches.get? l with
  | none => exact .inl ⟨fun y h => (Option.some_ne_none y h.symm).elim, by simp [State.kill, hy]⟩
  | some y =>
    cases hk : y.killed with
    | none => exact .inr ⟨y, rfl, hk, by simp [State.kill, hy, hk]⟩
    | some x => exact .inl ⟨fun z hz => by cases hz; simp [hk], by simp [State.kill, hy, hk]⟩

theorem State.kill_get?_of_ne (s : State) {l k : Nat} (h : l ≠ k) (status code : Nat) (w : Word) :
    (s.kill k status code w).launches.get? l = s.launches.get? l := by
  obtain ⟨-, he⟩ | ⟨y, -, -, hl, -⟩ := s.kill_cases k status code w
  · rw [he]
  · rw [hl, Map.get?_set_of_ne _ _ h]

theorem killedWith_kill {s : State} {l : Nat} {y : Launch} (h : s.launches.get? l = some y) (hk : y.killed = none)
    (status code : Nat) (w : Word) : KilledWith (s.kill l status code w) l status y := by
  obtain ⟨hdone, -⟩ | ⟨z, hz, -, hl, hr⟩ := s.kill_cases l status code w
  · exact absurd hk (hdone y h)
  · obtain rfl : y = z := Option.some.inj (h.symm.trans hz)
    exact ⟨by rw [hl, Map.get?_set_self], ⟨l, status, code, w⟩, by simp [hr], rfl, rfl⟩

/-- What is killed stays as it is through further kills. -/
theorem KilledWith.kill {s : State} {l status : Nat} {y : Launch} (h : KilledWith s l status y) (k st code : Nat) (w : Word) :
    KilledWith (s.kill k st code w) l status y := by
  obtain ⟨hl, r, hr, hrl⟩ := h
  obtain ⟨-, he⟩ | ⟨z, hz, hlive, hset, hrep⟩ := s.kill_cases k st code w
  · rw [he]; exact ⟨hl, r, hr, hrl⟩
  · have hne : l ≠ k := by
      rintro rfl
      obtain rfl := Option.some.inj (hl.symm.trans hz)
      cases hlive
    exact ⟨by rw [hset, Map.get?_set_of_ne _ _ hne, hl], r, by simp [hrep, hr], hrl⟩

/-- Launches killed in turn. -/
def State.killAll (s : State) (ls : List Nat) (status : Nat) : State := forEach ls (fun s l => s.kill l status 0 0) s

theorem State.killAll_eq (s : State) (ls : List Nat) (status : Nat) : s.killAll ls status =
    { s with launches := (s.killAll ls status).launches, ctxs := (s.killAll ls status).ctxs,
             hub := (s.killAll ls status).hub } := by
  obtain ⟨x, y, z, h⟩ : ∃ x y z, s.killAll ls status = { s with launches := x, ctxs := y, hub := z } := by
    refine forEach_keeps (P := fun t => ∃ x y z, t = { s with launches := x, ctxs := y, hub := z }) ?_ ls s ⟨_, _, _, rfl⟩
    rintro _ l ⟨x, y, z, rfl⟩
    exact ⟨_, _, _, State.kill_eq _ l status 0 0⟩
  rw [h]

theorem State.killAll_get?_of_notMem (s : State) {ls : List Nat} {l : Nat} (h : l ∉ ls) (status : Nat) :
    (s.killAll ls status).launches.get? l = s.launches.get? l := by
  induction ls generalizing s with
  | nil => rfl
  | cons k ls ih =>
    obtain ⟨hne, hls⟩ := not_or.1 (List.mem_cons.not.1 h)
    exact (ih (s.kill k status 0 0) hls).trans (s.kill_get?_of_ne hne status 0 0)

theorem killedWith_killAll {s : State} {ls : List Nat} {l : Nat} {y : Launch} (hl : l ∈ ls) (h : s.launches.get? l = some y)
    (hk : y.killed = none) (status : Nat) : KilledWith (s.killAll ls status) l status y := by
  induction ls generalizing s with
  | nil => cases hl
  | cons k ls ih =>
    by_cases hne : l = k
    · subst hne
      exact forEach_keeps (P := fun t => KilledWith t l status y) (fun t k ht => ht.kill k status 0 0) ls _
        (killedWith_kill h hk status 0 0)
    · exact ih ((List.mem_cons.1 hl).resolve_left hne) ((s.kill_get?_of_ne hne status 0 0).trans h)

/-- The launches with a team on a die. -/
def State.launchesOn (s : State) (d : Nat) : List Nat :=
  ((s.teams.vals.filter fun t => !t.freed && t.cores.any fun c => dieOf c = d).map (·.launch)).eraseDups

theorem mem_launchesOn (s : State) (l d : Nat) : l ∈ s.launchesOn d ↔ StandsOn s l d := by
  simp only [State.launchesOn, StandsOn, List.mem_eraseDups, List.mem_map, List.mem_filter, Map.vals, Bool.and_eq_true,
    Bool.not_eq_true', List.any_eq_true, decide_eq_true_eq]
  constructor
  · rintro ⟨_, ⟨⟨q, hq, rfl⟩, hfree, hcore⟩, hlaunch⟩
    exact ⟨q, hq, hlaunch, hfree, hcore⟩
  · rintro ⟨q, hq, hlaunch, hfree, hcore⟩
    exact ⟨q.2, ⟨⟨q, hq, rfl⟩, hfree, hcore⟩, hlaunch⟩

/-- The launches on a die killed, its stack off. -/
def State.shutDown (s : State) (d : Nat) : State := (s.modDie d fun x => { x with off := true }).killAll (s.launchesOn d) 6

theorem execStackShutdown_eq (d : Nat) (s : State) : execStackShutdown d s =
    .next ((s.shutDown d).modHub fun h => { h with reports := h.reports ++ [⟨0, 7, d, 0⟩] }) := rfl

theorem State.shutDown_off (s : State) (d : Nat) : ((s.shutDown d).die d).off = true := by
  rw [State.shutDown, State.killAll_eq]
  simp [State.die]

@[simp] theorem State.shutDown_mem (s : State) (d : Nat) : (s.shutDown d).mem = s.mem := by
  rw [State.shutDown, State.killAll_eq]; rfl
@[simp] theorem State.shutDown_threads (s : State) (d : Nat) : (s.shutDown d).threads = s.threads := by
  rw [State.shutDown, State.killAll_eq]; rfl

theorem killedWith_shutDown {s : State} {l d : Nat} {y : Launch} (hon : StandsOn s l d) (hl : s.launches.get? l = some y)
    (hk : y.killed = none) : KilledWith (s.shutDown d) l 6 y :=
  killedWith_killAll (s := s.modDie d fun x => { x with off := true }) ((mem_launchesOn s l d).2 hon) hl hk 6

theorem State.shutDown_get?_of_not_standsOn {s : State} {l d : Nat} (hoff : ¬StandsOn s l d) :
    (s.shutDown d).launches.get? l = s.launches.get? l :=
  State.killAll_get?_of_notMem _ (mt (mem_launchesOn s l d).1 hoff) 6

/-! ### MGMT_CONFIG_WRITE (R210, R269, R281, R290) -/

/-- A setting of a die is taken where it lies within its range, and only there. -/
theorem setting_within {s : State} {d n : Nat} {mk : Nat → Nat → Setting} {lo hi : Nat} {f : Die → Die}
    (hmk : mk = .probeAfter ∧ lo = 1024 ∧ hi = 65535 ∧ (f = fun x => { x with probeAfter := n }) ∨
      mk = .preemptAfter ∧ lo = 1000 ∧ hi = 1000000 ∧ (f = fun x => { x with preemptAfter := n }) ∨
      mk = .intervalLength ∧ lo = 2 ^ 20 ∧ hi = 2 ^ 32 ∧ (f = fun x => { x with intervalLen := n })) :
    execMgmtConfigWrite (mk d n) s = if lo ≤ n ∧ n ≤ hi then .next (s.modDie d f) else .next s := by
  obtain ⟨rfl, rfl, rfl, rfl⟩ | ⟨rfl, rfl, rfl, rfl⟩ | ⟨rfl, rfl, rfl, rfl⟩ := hmk <;>
    simp only [execMgmtConfigWrite, Bool.and_eq_true, decide_eq_true_eq]

theorem execMgmtConfigWrite_ringPages (s : State) (ref : RingRef) (n : Nat) :
    execMgmtConfigWrite (.ringPages ref n) s =
      if 1 ≤ n ∧ n ≤ 65536 ∧ (s.ringOf ref).data = [] then .next (s.modRing ref fun r => { r with pages := n })
      else .next s := by
  simp only [execMgmtConfigWrite, Bool.and_eq_true, decide_eq_true_eq, and_assoc]

/-! ### The responder (R301, R302) -/

theorem answered_spdmReply {s : State} (h : 3 ≤ s.hub.stage) (code : Nat) (data : List Nat) :
    Answered s (s.spdmReply code data) code data := by
  rw [State.spdmReply, if_pos h]
  exact onlyHub_modHub rfl

/-! ### DSTAT (R303) -/

/-- Bits set in turn where a condition holds. -/
theorem getLsbD_foldl_setBit (f : Nat → Bool) (l : List Nat) (b : BitVec 4) (j : Nat) (hj : j < 4) :
    (l.foldl (fun b d => if f d then b ||| (1#4 <<< d) else b) b).getLsbD j = true ↔
      b.getLsbD j = true ∨ j ∈ l ∧ f j = true := by
  induction l generalizing b with
  | nil => simp
  | cons d l ih =>
    have hone : (1#4 <<< d).getLsbD j = decide (d = j) := by
      rw [show (1#4 <<< d) = BitVec.twoPow 4 d from rfl, BitVec.getLsbD_twoPow]
      by_cases h : d = j <;> simp [h, hj]
    rw [List.foldl_cons, ih, List.mem_cons]
    by_cases hd : f d = true
    · rw [if_pos hd, BitVec.getLsbD_or, hone]
      grind
    · grind

/-- The bit of a die: one of its cores is of the kind. -/
theorem getLsbD_dieBits (s : State) (p : Core → Bool) {d : Nat} (hd : d < 4) :
    (s.dieBits p).getLsbD d = true ↔ ∃ q ∈ s.cores, dieOf q.1 = d ∧ p q.2 = true := by
  have hmem : d ∈ [0, 1, 2, 3] := by simp; omega
  rw [State.dieBits, getLsbD_foldl_setBit (fun d => s.cores.any fun q => dieOf q.1 = d && p q.2) _ _ _ hd]
  simp [hmem]

/-- The fields of DSTAT, from bit 0 on. -/
theorem getLsbD_dstat (s : State) (i : Nat) : s.dstat.getLsbD i =
    if i = 0 then false else if i = 1 then s.hub.ovChanged else if i = 2 then s.hub.recoveryImage
    else if i = 3 then !s.hub.throttled.isEmpty else if i < 8 then (s.dieBits (·.poisoned)).getLsbD (i - 4)
    else if i < 12 then (s.dieBits fun c => !c.layersLost.isEmpty || c.remapBad).getLsbD (i - 8)
    else if i < 14 then s.hub.service.code.getLsbD (i - 12) else false := by
  change BitVec.getLsbD (w := 50 + 2 + 4 + 4 + 1 + 1 + 1 + 1) _ i = _
  simp only [State.dstat, BitVec.getLsbD_append, BitVec.getLsbD_ofBool, BitVec.getLsbD_zero]
  by_cases hi : i < 14
  · interval_cases i <;> rfl
  · simp (disch := omega) only [if_neg]

/-- R303: the word that the host reads has its bits. -/
theorem isDstat_dstat (s : State) : IsDstat s.dstat s := by
  refine ⟨?_, fun d hd => ⟨?_, ?_⟩, ?_, ?_, ?_, ?_, fun i hi => ?_⟩
  · have hcode : s.dstat.extractLsb' 12 2 = s.hub.service.code := by
      refine BitVec.eq_of_getLsbD_eq fun j hj => ?_
      rw [BitVec.getLsbD_extractLsb', getLsbD_dstat]
      grind
    rw [hcode]; cases s.hub.service <;> rfl
  · have hbit : s.dstat.getLsbD (8 + d) = (s.dieBits fun c => !c.layersLost.isEmpty || c.remapBad).getLsbD d := by
      rw [getLsbD_dstat]; grind
    rw [hbit, getLsbD_dieBits s _ hd]
    simp
  · have hbit : s.dstat.getLsbD (4 + d) = (s.dieBits (·.poisoned)).getLsbD d := by
      rw [getLsbD_dstat]; grind
    rw [hbit, getLsbD_dieBits s _ hd]
  · simp only [getLsbD_dstat]; simp
  · exact getLsbD_dstat s 2
  · exact getLsbD_dstat s 1
  · exact getLsbD_dstat s 0
  · rw [getLsbD_dstat]; simp (disch := omega) only [if_neg]

end Sys2Proof.Machine

namespace Sys2Proof.Proofs

open Sys2Proof.Machine Sys2Proof.Claims

/-- Settles O53: the case of each step of boot and of each later event is its own lemma above; a change of clock goes through
`clocked_setClock`, a shutdown through what a kill can do, DSTAT through its bits. -/
theorem bootReachesServiceAndAnswers : Obligations.BootReachesServiceAndAnswers := by
  refine ⟨fun s => ?reset, fun s f => ⟨?verify, ?noImage, ?push, ?pushRefused, ?nvme, ?noNvme⟩,
    fun s k => ⟨?kernel, ?reduced, ?calibration, ?full, fun i n => exec_of_other_stage⟩, fun s d mhz => ⟨?noClock, ?clock⟩,
    fun s d => ?shutdown, fun s d n mk lo hi f hmk => ⟨?setting, ?noSetting⟩, fun s ref n => ⟨?pages, ?noPages⟩,
    fun s h => ?answers, fun s => ⟨_, s.dstat, rfl, isDstat_dstat s, onlyHub_modHub rfl⟩,
    fun s r => ⟨_, rfl, onlyHub_modHub rfl⟩⟩
  case reset =>
    refine ⟨_, exec_deviceReset s, rfl, rfl, rfl, rfl, rfl, rfl, rfl, rfl, rfl, rfl, rfl, rfl, fun d hd => ?_, rfl, rfl, rfl,
      fun k => memRead_hostCells s.mem⟩
    interval_cases d <;> rfl
  case verify => exact fun hs hf hok => execFirmwareVerify_boots hs hf ((Hub.accepts_iff _ f).2 hok)
  case noImage =>
    rintro hs (hf | ⟨hf, hno⟩) <;> refine execFirmwareVerify_recovers hs fun g hg => ?_
    · simp [hf] at hg
    · obtain rfl : f = g := Option.some.inj (hf.symm.trans hg)
      exact fun h => hno ((Hub.accepts_iff _ f).1 h)
  case push => exact fun hs hok => execRecoveryDoorbell_boots hs ((Hub.accepts_iff _ f).2 hok)
  case pushRefused => exact fun hs hno => execRecoveryDoorbell_rejects hs fun h => hno ((Hub.accepts_iff _ f).1 h)
  case nvme => exact execFirmwareNvmeWrite_writes
  case noNvme => exact fun hr => (exec_firmwareNvmeWrite s).trans (if_neg (by simp [hr]))
  case kernel => exact fun hs hle hmod => execMgmtKernelStart_starts hs ((windowOk_iff _).2 ⟨hle, hmod⟩)
  case reduced => exact fun hs => ⟨_, if_neg (by simp [hs]), service_begins s 4 800 .reduced⟩
  case calibration => exact execStackCalibration_calibrates
  case full => exact fun hs => ⟨_, if_neg (by simp [hs]), service_begins s 6 1600 .full⟩
  case noClock => exact fun hno => execClockStep_refused fun ⟨hs, h⟩ => hno ⟨hs, (clockStepOk_iff _ _).1 h⟩
  case clock => exact fun ⟨hs, h⟩ => execClockStep_clocks hs ((clockStepOk_iff _ _).2 h)
  case shutdown =>
    refine ⟨_, execStackShutdown_eq d s, s.shutDown_off d, s.shutDown_mem d, s.shutDown_threads d,
      ⟨⟨0, 7, d, 0⟩, by simp, rfl, rfl⟩, fun l y hl hk => ⟨fun hon => ?_, fun hoff => ?_⟩⟩
    · obtain ⟨hy, r, hr, hrl⟩ := killedWith_shutDown hon hl hk
      exact ⟨hy, r, List.mem_append_left _ hr, hrl⟩
    · exact (State.shutDown_get?_of_not_standsOn hoff).trans hl
  case setting =>
    intro hlo hhi
    exact ⟨_, (setting_within hmk).trans (if_pos ⟨hlo, hhi⟩), onlyDie_modDie s d f⟩
  case noSetting => exact fun hout => (setting_within hmk).trans (if_neg (by omega))
  case pages =>
    intro hlo hhi hempty
    exact ⟨_, (execMgmtConfigWrite_ringPages s ref n).trans (if_pos ⟨hlo, hhi, hempty⟩), ringIs_modRing s ref _⟩
  case noPages =>
    intro hout
    refine (execMgmtConfigWrite_ringPages s ref n).trans (if_neg fun ⟨hlo, hhi, hempty⟩ => ?_)
    obtain hz | hbig | hdata := hout
    · omega
    · omega
    · exact hdata hempty
  case answers =>
    refine ⟨⟨_, rfl, answered_spdmReply h _ _⟩, ⟨_, _, rfl, answered_spdmReply h _ _⟩,
      ⟨_, _, rfl, answered_spdmReply h _ _⟩, ⟨_, _, rfl, answered_spdmReply h _ _⟩, ⟨_, _, rfl, answered_spdmReply h _ _⟩,
      fun nonce => ⟨_, _, rfl, answered_spdmReply h _ _⟩, ⟨_, rfl, answered_spdmReply h _ _⟩, ?_⟩
    rintro i (rfl | ⟨c, rfl, hc⟩)
    · exact ⟨_, rfl, answered_spdmReply h _ _⟩
    · exact ⟨_, if_neg (by simpa [spdmCodes] using hc), answered_spdmReply h _ _⟩

end Sys2Proof.Proofs
end
